-- ==== Sys2Proof/Word.lean ====
section
/-! DEFINITION. The words of the device: what the manual treats as bits. -/

namespace Sys2Proof

/-- One byte of memory. -/
abbrev Byte := BitVec 8

/-- One 32-bit register of a lane or of a group (R69). -/
abbrev Word := BitVec 32

/-- One 64-bit register of the control space, or one address (R24, R28). -/
abbrev DWord := BitVec 64

/-- One 32-byte sector, byte 0 in bits [7:0] (R6, R227, R237). -/
abbrev Sector := BitVec 256

end Sys2Proof
end

