-- ==== Sys2Proof/Syntax.lean ====
section
/-! DEFINITION. The commands of the block: one constructor of `Instr` for each row of spec/opcode_table.json.
Rows that are Atper instructions name the group that issues them and carry the fields of the instruction's words;
rows that are events carry what the outside world decides (a measured value, a packet, who writes and what). -/

namespace Sys2Proof

/-- A group's place: core 0-127, quarter 0-3, slot 0-15 (R12, R38). -/
structure Gid where
  core : Nat
  quarter : Nat
  slot : Nat
deriving DecidableEq, Repr, Inhabited

/-- The fields of an instruction's words beside CLASS and OP, which the constructor names (R67, R68); and what the environment
finds when the word is offered: the slots of the quarter whose next instruction the pipelines of R40 hold back, lanes in which a
source register fails its parity check (R98), sectors whose copy in the L1 or in Husk fails its parity check (R236; log entry 79). -/
structure AWord where
  x : Bool          -- [4]: a second word follows
  guard : BitVec 5  -- [9:5]
  d : BitVec 9      -- [24:16]
  a : BitVec 9      -- [33:25]
  b : BitVec 9      -- [42:34]
  c : BitVec 9      -- [51:43]
  mod : BitVec 8    -- [59:52]
  pd : BitVec 3     -- [62:60]
  rsv : Bool        -- [63]: reserved
  imm : Word        -- [95:64] of the 128-bit form
  ext : Word        -- [127:96] of the 128-bit form
  busy : BitVec 16    -- a bit for each slot of the quarter
  parity : BitVec 32  -- a bit for each lane
  l1Bad : List Nat    -- addresses / 32
deriving DecidableEq, Repr, Inhabited

/-- Who performs a register write: a BAR0 write of a function, a REG_WRITE entry of a kernel queue, or Bassoon
(R33, R204, R313, R445). -/
inductive Src where
  | host (f : Nat)
  | queue (q : Nat)
  | bassoon
deriving DecidableEq, Repr

/-- What a memory check found in a sector (R240, R245). -/
inductive EccFind where
  | clean | corrected | uncorrectable
deriving DecidableEq, Repr

/-- Where stored bits have gone bad: a sector of the L2 or of HBM, a sector of HBM that holds no write any more, a word of a
scratchpad or of a Sesame, an entry of a range cache, a word of an event FIFO (R218, R240, R245, R255, R291, R329, R379). -/
inductive Site where
  | l2 (sector : Nat)
  | hbm (sector : Nat)
  | hbmHard (sector : Nat)
  | sp (word : Nat)            -- local address / 8
  | ses (word : Nat)           -- local address / 8
  | range (who asid vstart : Nat) -- the requester of the cache, 2048 for the device's, and the entry
  | event (fifo pos : Nat)     -- the word at a place from the oldest
  | ledger (seq : Nat)         -- a record in flash
deriving DecidableEq, Repr

/-- An error that lies in a memory until something reads or writes its place; `bad`: beyond correction. -/
structure Upset where
  site : Site
  bad : Bool
deriving DecidableEq, Repr

/-- What a patrol finds (R245, R246): in the sector it reads, and what has gone bad in the memories since the last one. -/
structure ScrubFind where
  ecc : EccFind
  upsets : List Upset
deriving DecidableEq, Repr

/-- The end of a tile on a core (R104), with the ACLK cycles that had no complete record because another requester was granted a bank
(R113, R133). -/
structure TileEnd where
  core : Nat
  lost : Nat
deriving DecidableEq, Repr

/-- A parked entry at its deadline, with the operations that arrive in the same cycle, as places of the store's queue (R302). -/
structure Deadline where
  entry : Nat
  arrive : List Nat
deriving DecidableEq, Repr

/-- The codewords that a logical port corrected in a second (R428, R468). -/
structure LaneCount where
  port : Nat
  corrected : Nat
deriving DecidableEq, Repr

/-- A KLP packet: the header fields of R389 and the bytes after it. -/
structure Packet where
  type : Nat
  ackNow : Bool
  retx : Bool
  cls : Nat
  dst : Nat
  src : Nat
  epoch : Nat
  tenant : Nat
  psn : Nat
  length : Nat
  subop : Nat
  status : Nat
  addr : Nat
  tstamp : Nat
  exth : Nat            -- the 16-byte extended header: word 0 in [63:0], word 1 in [127:64]
  data : List Byte      -- payload bytes
deriving DecidableEq, Repr, Inhabited

/-- A HELLO of the link partner (R396). -/
structure HelloMsg where
  id : Nat
  serial : Nat
  incarnation : Nat
  lport : Nat
  mac : Nat
deriving DecidableEq, Repr

/-- A received LLDP frame (R395, R428): the partner's identifiers as octets, octet 0 first. -/
structure LldpMsg where
  chassis : List Byte
  chassisSubtype : Nat
  portId : List Byte
  portSubtype : Nat
  fabricId : Option Nat   -- the organisationally specific TLV of a Derell
deriving DecidableEq, Repr

/-- A host access through BAR4 (R433) or of BAR0: offset, size in bytes, the written value or none for a read. -/
structure BarReq where
  off : Nat
  size : Nat
  value : Option DWord
deriving DecidableEq, Repr

/-- A host AtomicOp through BAR4 (R429). -/
inductive HostAtomic where
  | fetchAdd | swap | cas
deriving DecidableEq, Repr

/-- What a margin scan measured (R249, R252): step counts in the order of the record, errors, temperature. -/
structure ScanFind where
  pc0 : List Nat
  pc1 : List Nat
  scanErrors : Nat
  durationUs : Nat
  temp : Nat
  timedOut : Bool       -- the scan ended at its timeout
deriving DecidableEq, Repr

/-- What a march run found on one core (R219, R224, R225): the failing rows as (bank, row), and the words of them, as offsets in the
core, whose content a preserving run could not read. -/
structure MarchFind where
  failing : List (Nat × Nat)
  lost : List Nat
deriving DecidableEq, Repr

/-- What the boot march and HBM training found (R222, R252, R253, R456). -/
structure BootFind where
  marchFails : List (Nat × Nat × Nat)  -- core, bank, row failing the boot march
  failedChannels : List Nat            -- channels that fail training in step 4
  repaired : List (Nat × Nat × Nat)    -- channel, bank, row repaired by post-package repair
  scans : List (Nat × ScanFind)        -- boot-training margins by channel
deriving DecidableEq, Repr

/-- What a frame into Acorn carries beside its check values (R490, R494, R499, R510). -/
structure FrameHead where
  seq : Nat
  crcOk : Bool
  deviceTs : Nat
deriving DecidableEq, Repr

/-- One account's counts in an ACTIVITY frame (R494): dummy cycles weighted by level in 64ths, K-steps also as logical
multiply-adds by weight format, and moved data by rail class. -/
structure ActivityRow where
  aclkCycles : List Nat    -- ACLK cycles of each of the 16 sections, in the row of its owner
  kSteps : List Nat        -- executed K-steps by half
  dummy64 : List Nat       -- dummy cycles weighted by level, in 64ths, by half
  dummy : Nat              -- dummy cycles at a level above 0
  macs : List Nat          -- multiply-adds by WFMT 0-8
  steps : List Nat         -- executed K-steps by (WFMT * 3 + SPARSE) * 2 + MODE (R136)
  moved128 : Nat
  sectors : Nat
  fabric64 : Nat
  portsUp : Nat            -- logical ports up, in the device account
  sets : Nat               -- bank sets of the device, in the device account
  shares : Nat             -- shares of the device, in the device account
deriving DecidableEq, Repr, Inhabited

/-- A Bassoon report to Acorn (R499, R505). -/
inductive AcornMsg where
  | assign (p sections : Nat)
  | teardownStart (p : Nat)
  | teardownEnd (p : Nat)
  | handover (kind old new count : Nat)
  | region (r : Nat) (valid : Bool) (owner : Nat)
  | boot (overlay : Nat) (defaulted : Bool) (digest : Nat)
deriving DecidableEq, Repr

/-- Why a received frame is discarded (R389, R390, R387). -/
inductive BadFrame where
  | malformed | fcs | fecErrored
deriving DecidableEq, Repr

/-- The commands of the block, in the order of the table. -/
inductive Instr where
  -- CTRL
  | nop (g : Gid) (w : AWord)
  | bra (g : Gid) (w : AWord)
  | call (g : Gid) (w : AWord)
  | ret (g : Gid) (w : AWord)
  | jmpu (g : Gid) (w : AWord)
  | exit (g : Gid) (w : AWord)
  | bar (g : Gid) (w : AWord)
  | barClu (g : Gid) (w : AWord)
  | trap (g : Gid) (w : AWord)
  | bkpt (g : Gid) (w : AWord)
  -- FALU
  | fadd (g : Gid) (w : AWord)
  | fsub (g : Gid) (w : AWord)
  | ffma (g : Gid) (w : AWord)
  | fmul (g : Gid) (w : AWord)
  | fmin (g : Gid) (w : AWord)
  | fmax (g : Gid) (w : AWord)
  | fabs (g : Gid) (w : AWord)
  | fneg (g : Gid) (w : AWord)
  -- IALU
  | iadd (g : Gid) (w : AWord)
  | isub (g : Gid) (w : AWord)
  | imul (g : Gid) (w : AWord)
  | imad (g : Gid) (w : AWord)
  | imin (g : Gid) (w : AWord)
  | imax (g : Gid) (w : AWord)
  | and (g : Gid) (w : AWord)
  | or (g : Gid) (w : AWord)
  | xor (g : Gid) (w : AWord)
  | not (g : Gid) (w : AWord)
  | shl (g : Gid) (w : AWord)
  | shr (g : Gid) (w : AWord)
  | sar (g : Gid) (w : AWord)
  | popc (g : Gid) (w : AWord)
  | clz (g : Gid) (w : AWord)
  -- CONV
  | mov (g : Gid) (w : AWord)
  | sel (g : Gid) (w : AWord)
  | cvt (g : Gid) (w : AWord)
  | shfl (g : Gid) (w : AWord)
  | rdlane (g : Gid) (w : AWord)
  | vote (g : Gid) (w : AWord)
  | bcast (g : Gid) (w : AWord)
  -- CMP
  | fsetp (g : Gid) (w : AWord)
  | isetp (g : Gid) (w : AWord)
  | plop (g : Gid) (w : AWord)
  -- FTAB
  | ftabEv (g : Gid) (w : AWord)
  | ftabLd (g : Gid) (w : AWord)
  | ftabLoadComplete (core slot : Nat)
  | rcp (g : Gid) (w : AWord)
  | rsq (g : Gid) (w : AWord)
  | exp2 (g : Gid) (w : AWord)
  | log2 (g : Gid) (w : AWord)
  -- F64
  | dadd (g : Gid) (w : AWord)
  | dmul (g : Gid) (w : AWord)
  | dfma (g : Gid) (w : AWord)
  | dmin (g : Gid) (w : AWord)
  | dmax (g : Gid) (w : AWord)
  -- MEM, ATOM, FENCE
  | ld (g : Gid) (w : AWord)
  | lds (g : Gid) (w : AWord)
  | st (g : Gid) (w : AWord)
  | pref (g : Gid) (w : AWord)
  | atom (g : Gid) (w : AWord)
  | fenceLd (g : Gid) (w : AWord)
  | fenceSt (g : Gid) (w : AWord)
  | fenceAll (g : Gid) (w : AWord)
  -- MX
  | mxMode (g : Gid) (w : AWord)
  | mxTile (g : Gid) (w : AWord)
  | mxDrain (g : Gid) (w : AWord)
  | mxWait (g : Gid) (w : AWord)
  | mxTileComplete (r : TileEnd)
  | mxDrainComplete (core : Nat)
  | arrayRampDown (core : Nat)
  | arrayOff (core : Nat)
  | arrayFreezeIdle (core : Nat)
  | arrayPoisonReport (core : Nat)
  -- DSP
  | dspSubmit (g : Gid) (w : AWord)
  | dspStatus (g : Gid) (w : AWord)
  -- SEM
  | semWait (g : Gid) (w : AWord)
  | semTake (g : Gid) (w : AWord)
  | semAdd (g : Gid) (w : AWord)
  | semSub (g : Gid) (w : AWord)
  | semSet (g : Gid) (w : AWord)
  | semLock (g : Gid) (w : AWord)
  | semUnlock (g : Gid) (w : AWord)
  | semArrive (g : Gid) (w : AWord)
  | semProd (g : Gid) (w : AWord)
  | semCons (g : Gid) (w : AWord)
  -- SYS
  | sysId (g : Gid) (w : AWord)
  | sysTime (g : Gid) (w : AWord)
  | sysCycle (g : Gid) (w : AWord)
  | sysFlags (g : Gid) (w : AWord)
  | sysMark (g : Gid) (w : AWord)
  -- answers, caches, L2 and HBM
  | accessResponse (g : Gid) (id : Nat)
  | l1Fill (core sector : Nat)
  | l2Access (slice pos : Nat) (victim : Option Nat) (find : EccFind)
  | patrolScrub (addr : Nat) (find : ScrubFind)
  | hbmChannelDown (ch : Nat)
  | hbmLiveScan (ch : Nat)
  | hbmScanComplete (ch : Nat) (find : ScanFind)
  -- barriers
  | blockBarrierRelease (core block id : Nat)
  | clusterBarrierRelease (launch cluster id : Nat)
  -- scratchpad
  | spHandover (src : Src) (value : DWord)
  | spHandoverDrained
  | spHandoverComplete
  | spHandoverTimeout
  | creditGrant (receiver : Nat)
  | creditIdleReturn (sender receiver : Nat)
  | landingZoneWrite (core pos : Nat)
  | marchDone (core : Nat) (find : MarchFind)
  -- Sesame
  | sesameOperation (store : Nat) (arrive : List Nat)
  | groupWake (store : Nat)
  | semTimeout (store : Nat) (x : Deadline)
  | semRetry (store pos : Nat)
  | syncHandover (src : Src) (value : DWord)
  -- DMA and translation
  | dmaStart (engine : Nat)
  | dmaComplete (engine : Nat)
  | intakeTokenGrant (core : Nat)
  | rangeRequestRecord (reqId : Nat)
  | rtReplyCommit (f : Nat) (word3 : DWord)
  | rangeRequestTimeout (reqId : Nat)
  | rtInval (src : Src) (f : Nat) (value : DWord)
  | rtInvalComplete
  | rtAsidWrite (src : Src) (a : Nat) (value : DWord)
  -- Chanter
  | doorbell (f q off size : Nat) (value : Word)
  | queueVisit (q : Nat)
  | nopCmd (ctx : Nat)
  | launch (ctx : Nat)
  | dma (ctx : Nat)
  | graphLaunch (ctx : Nat)
  | semWaitCmd (ctx : Nat)
  | semAddCmd (ctx : Nat)
  | writeValue (ctx : Nat)
  | graphStore (ctx : Nat)
  | graphPatch (ctx : Nat)
  | graphFree (ctx : Nat)
  | semSetCmd (ctx : Nat)
  | regWrite (ctx : Nat)
  | selftest (ctx : Nat)
  | blockDispatch (launch : Nat)
  | kernelAbort (launch : Nat)
  | graphNodeEnd (ctx : Nat)
  | commandComplete (ctx : Nat)
  | queueEnable (f q : Nat) (value : DWord)
  | queueDisable (f q : Nat) (value : DWord)
  | queueResume (f q : Nat) (value : DWord)
  | queueAbort (src : Src) (q : Nat) (value : DWord)
  -- event FIFOs
  | evqPop (f i : Nat)
  | evqPtrFault (i : Nat)
  | rearm (f i : Nat) (value : DWord)
  | flush (f i : Nat) (value : DWord)
  | evqIrqEnable (f i : Nat) (value : DWord)
  -- Expert Dispatch Unit
  | route (u : Nat)
  | scores (u : Nat)
  | return (u : Nat)
  | abort (u : Nat)
  | scoreIntake (u : Nat)
  | expertClose (c e : Nat)
  | returnedRow (u : Nat)
  | contextComplete (c : Nat)
  -- KLP packets, named by the logical port they arrive on
  | write (l : Nat) (p : Packet)
  | read (l : Nat) (p : Packet)
  | readResp (l : Nat) (p : Packet)
  | atomic (l : Nat) (p : Packet)
  | atomicResp (l : Nat) (p : Packet)
  | sem (l : Nat) (p : Packet)
  | semResp (l : Nat) (p : Packet)
  | semWithdraw (l : Nat) (p : Packet)
  | dspWrite (l : Nat) (p : Packet)
  | dspReturn (l : Nat) (p : Packet)
  | coll (l : Nat) (p : Packet)
  | ack (l : Nat) (p : Packet)
  | nak (l : Nat) (p : Packet)
  | probe (l : Nat) (p : Packet)
  | probeAck (l : Nat) (p : Packet)
  | flowReset (l : Nat) (p : Packet)
  | hello (l : Nat) (m : HelloMsg)
  | mirror (l : Nat) (p : Packet)
  | resumeReq (l : Nat) (p : Packet)
  | resumeResp (l : Nat) (p : Packet)
  | resendReq (l : Nat) (p : Packet)
  | lldpReceive (l : Nat) (m : LldpMsg)
  | lldpTransmit (l : Nat)
  | helloTransmit (l : Nat)
  | ackTimer (peer : Nat)
  | retransmitTimeout (peer psn : Nat)
  | probeTimer (peer : Nat)
  | peerDead (peer : Nat)
  | linkDown (l : Nat)
  | linkUp (l : Nat)
  | pfcFrame (l : Nat) (prios : BitVec 8) (pause : Bool)
  | collRoundSend (c : Nat)
  | collArm (src : Src) (value : DWord)
  | collDisarm (src : Src) (value : DWord)
  | routeEntryRead (src : Src) (value : DWord)
  | routeEntryWrite (src : Src) (value : DWord)
  | breakoutChange (src : Src) (p : Nat) (value : DWord)
  | buddyRecovery (src : Src) (value : DWord)
  | mirrorBatch
  | ptpMessage (l : Nat) (offset : Int)
  | ptpStateTimer
  -- host interface
  | claim (f : Nat) (value : DWord) (sameCycle : Bool)
  | release (f : Nat) (value : DWord)
  | warmReset (src : Src) (value : DWord)
  | hostFuncBind (src : Src) (f : Nat) (value : DWord)
  | flr (f : Nat)
  | portReset (n : Nat) (perst : Bool)
  | pcieLinkDown (n : Nat)
  | pcieLinkUp (n rate width : Nat)
  | configRequest (f reg : Nat) (value : Option Word)
  | bar4Access (f : Nat) (r : BarReq) (atomic : Option (HostAtomic × DWord))
  | registerWrite (src : Src) (off size : Nat) (value : DWord)
  | rcRead (f off size : Nat)
  -- partitions
  | assign (src : Src) (value : DWord)
  | teardown (src : Src) (value : DWord)
  | teardownStepComplete
  | teardownTimeout
  | shareHandover (src : Src) (value : DWord)
  | shareHandoverComplete
  | crRegister (src : Src) (r : Nat) (value : DWord)
  | crWithdraw (src : Src) (r : Nat) (value : DWord)
  -- Bassoon
  | powerOn (mode : BitVec 3) (buddyEn : Bool)
  | powerOff
  | bootStepComplete (find : BootFind)
  | buddyResumeTimeout
  | maintEnter (src : Src) (value : DWord)
  | maintLeave (src : Src) (value : DWord)
  | stageBegin (src : Src) (value : DWord)
  | stageWindowWrite (f off : Nat) (data : List Byte)
  | stageCommit (src : Src) (value : DWord)
  | stageAbort (src : Src) (value : DWord)
  | stageCommitDone (readBackOk : Bool)
  | powerFastCheck (watts : Nat)
  | powerSlowStep (watts : Nat)
  | powerCalibrate (inputWatts : Nat)
  | powerWindow (watts : Nat)
  | thermalSample (sect temp : Nat)
  | hbmThermalSample (stack temp : Nat)
  | thermtrip (sect temp : Nat)
  | clockSwitchRequest (sect mhz : Nat)
  | clockSwitchBegin (sect : Nat)
  | clockSwitchEnd (sect : Nat)
  | sectionGate (sect : Nat)
  | sectionUngate (sect : Nat)
  | watchdog (pc : DWord)
  | laneRetune (r : LaneCount)
  | portRetrain (l : Nat)
  | fatalError (source : Nat) (addr : Nat)
  | vrTimeout (half : Nat)
  | railFault (rail : Nat)
  | selftestStart (pos : Nat)
  | selftestTimeout (pos : Nat)
  | autoSummary
  | ledgerWrite
  | ledgerCheckpoint
  | ledgerIndexWrite (f : Nat) (value : DWord)
  | setEndpointId (eid : Nat)
  | pldmRequest (type id : Nat) (data : List Byte)
  | setBmcCap (watts : Nat)
  | readLedger (seq : Nat)
  | provisionKey (onBus : Bool) (slot digest : Nat)
  | revokeKey (onBus : Bool) (slot : Nat)
  | getVersion
  | getCapabilities
  | negotiateAlgorithms (sm2 sm3 : Bool)
  | getDigests
  | getCertificate (slot off len : Nat)
  | challenge (slot nonce : Nat)
  | getMeasurements (index : Nat) (nonce : Nat) (signed : Bool)
  -- Acorn
  | countCollectorTick
  | activity (h : FrameHead) (rows : List ActivityRow)
  | acornReport (h : FrameHead) (m : AcornMsg)
  | acornInterval (energy : List Nat)
  | meterRequest (f : Nat) (value : DWord)
  | request (h : FrameHead) (f account : Nat) (nonce : Nat)
  | requestedReading
  | acornNvWrite
  | acornSupplyLoss (us : Nat) (energy : List Nat) (written : Bool)
  | acornPowerUp
  | refLost
  | refRestored
  -- Recorder
  | pcSample (core : Nat)
  | traceDrainBurst (half core : Nat)
  | recorderEnable (src : Src) (value : DWord)
  | counterClear (src : Src) (value : DWord)
  | pmcSelect (src : Src) (core i : Nat) (value : DWord)
  | malformedPacket (l : Nat) (cause : BadFrame)
  | gatingDrainLimit (sect : Nat)
  | perstDeassertion (n : Nat)
deriving DecidableEq, Repr

end Sys2Proof
end

