-- ==== Sys2Proof/Decode.lean ====
section
/-! DEFINITION. What a word spells by the bits of spec/opcode_table.json: no row of the table gives bits (every "fields" list is
empty), so no word spells a command. -/

namespace Sys2Proof

/-- The command that a word spells by the table's bits: none. -/
def decodeTableWord (_nbits _w : Nat) : Option Instr := none

end Sys2Proof
end

