-- ==== Sys2Proof/Machine/Bits.lean ====
section
/-! DEFINITION. Bit fields, sign extension, byte order (R6: in-memory data is little-endian, network headers big-endian). -/

namespace Sys2Proof.Machine

/-- Bits [lo + w - 1 : lo] of a number. -/
def bits (v lo w : Nat) : Nat := (v >>> lo) % 2 ^ w

/-- Bit i of a number. -/
def bit (v i : Nat) : Bool := v.testBit i

/-- The number with bits [lo + w - 1 : lo] replaced. -/
def setBits (v lo w n : Nat) : Nat :=
  v - (bits v lo w) * 2 ^ lo + (n % 2 ^ w) * 2 ^ lo

/-- A truth value as a bit. -/
def b2n (b : Bool) : Nat := if b then 1 else 0

/-- The signed value of the low w bits. -/
def toSigned (w v : Nat) : Int :=
  let u := v % 2 ^ w
  if u < 2 ^ (w - 1) then u else (u : Int) - 2 ^ w

/-- The low w bits of an integer. -/
def ofSigned (w : Nat) (i : Int) : Nat := (i % (2 ^ w : Nat)).toNat

/-- The little-endian number of some bytes (R6). -/
def leOf : List Byte → Nat
  | [] => 0
  | b :: t => b.toNat + 256 * leOf t

/-- The n bytes of a number, little-endian. -/
def leBytes : Nat → Nat → List Byte
  | 0, _ => []
  | n + 1, v => BitVec.ofNat 8 v :: leBytes n (v / 256)

/-- The big-endian number of some bytes. -/
def beOf (l : List Byte) : Nat := leOf l.reverse

/-- The n bytes of a number, big-endian. -/
def beBytes (n v : Nat) : List Byte := (leBytes n v).reverse

/-- A count of set bits among the low w. -/
def popcount (w v : Nat) : Nat := ((List.range w).filter (fun i => v.testBit i)).length

/-- The numbers below n whose bit is set, ascending. -/
def maskList (n v : Nat) : List Nat := (List.range n).filter (fun i => v.testBit i)

/-- The mask with the named bits set. -/
def maskOf (l : List Nat) : Nat := l.foldl (fun m i => m ||| (2 ^ i)) 0

/-- A count held at its largest value (the saturating counters of the register maps). -/
def satAdd (w a n : Nat) : Nat := min (2 ^ w - 1) (a + n)

/-- Division rounded up. -/
def ceilDiv (a b : Nat) : Nat := (a + b - 1) / b

/-- A number rounded up to a multiple. -/
def roundUp (a b : Nat) : Nat := ceilDiv a b * b

/-- CRC-32C over some bytes, least significant bit first (R461, R480). PRESUMED: the Castagnoli polynomial, reflected,
start and end complemented (log entry 3). -/
def crc32c (l : List Byte) : Nat :=
  let stepBit := fun (c : Nat) => if c % 2 = 1 then (c / 2) ^^^ 0x82F63B78 else c / 2
  let stepByte := fun (c : Nat) (b : Byte) => (List.range 8).foldl (fun c _ => stepBit c) (c ^^^ b.toNat)
  (l.foldl stepByte 0xFFFFFFFF) ^^^ 0xFFFFFFFF

end Sys2Proof.Machine
end

