-- ==== Sys2Proof/Machine/Float.lean ====
section
/-! DEFINITION. Number formats and arithmetic (R140-R153, R157, R163). A finite number is an integer times a power of two,
so that every operation is exact until its one rounding (R148). -/

namespace Sys2Proof.Machine

/-- A floating-point format (R140): exponent bits, mantissa bits, bias, how it codes what is not finite (0 IEEE: infinity
and NaN, 1 E4M3: NaN only, 2 neither), canonical NaN (R142). -/
structure Fmt where
  e : Nat
  m : Nat
  bias : Nat
  kind : Nat
  nan : Nat
deriving DecidableEq, Repr

def fp64 : Fmt := ⟨11, 52, 1023, 0, 0x7FF8000000000000⟩
def fp32 : Fmt := ⟨8, 23, 127, 0, 0x7FC00000⟩
def bf16 : Fmt := ⟨8, 7, 127, 0, 0x7FC0⟩
def fp16 : Fmt := ⟨5, 10, 15, 0, 0x7E00⟩
def e4m3 : Fmt := ⟨4, 3, 7, 1, 0x7F⟩
def e5m2 : Fmt := ⟨5, 2, 15, 0, 0x7E⟩
def e3m2 : Fmt := ⟨3, 2, 3, 2, 0⟩
def e2m3 : Fmt := ⟨2, 3, 1, 2, 0⟩
def e2m1 : Fmt := ⟨2, 1, 1, 2, 0⟩

/-- A value: NaN, an infinity, or plus or minus mant * 2 ^ exp. -/
inductive FVal where
  | nan
  | inf (neg : Bool)
  | fin (neg : Bool) (mant : Nat) (exp : Int)
deriving DecidableEq, Repr, Inhabited

/-- Width of a format. -/
def Fmt.width (f : Fmt) : Nat := 1 + f.e + f.m

/-- The value of an encoding (R140). -/
def Fmt.decode (f : Fmt) (v : Nat) : FVal :=
  let neg := bit v (f.e + f.m)
  let e := bits v f.m f.e
  let m := bits v 0 f.m
  if f.kind = 0 ∧ e = 2 ^ f.e - 1 then (if m = 0 then .inf neg else .nan)
  else if f.kind = 1 ∧ e = 2 ^ f.e - 1 ∧ m = 2 ^ f.m - 1 then .nan
  else if e = 0 then .fin neg m (1 - (f.bias : Int) - f.m)
  else .fin neg (m + 2 ^ f.m) ((e : Int) - f.bias - f.m)

/-- Flags of the group flag word (R76). -/
def flagInvalid : Nat := 1
def flagOverflow : Nat := 2
def flagUnderflow : Nat := 4
def flagInexact : Nat := 8
def flagIntSat : Nat := 16

/-- The sign bit in place. -/
def Fmt.sign (f : Fmt) (neg : Bool) : Nat := b2n neg * 2 ^ (f.e + f.m)

/-- Magnitude bits of the largest finite value (R140). -/
def Fmt.maxBits (f : Fmt) : Nat :=
  match f.kind with
  | 0 => (2 ^ f.e - 1) * 2 ^ f.m - 1
  | 1 => 2 ^ (f.e + f.m) - 2
  | _ => 2 ^ (f.e + f.m) - 1

/-- Magnitude bits of an infinity. -/
def Fmt.infBits (f : Fmt) : Nat := (2 ^ f.e - 1) * 2 ^ f.m

/-- Rounds mant / 2 ^ k to an integer: 0 nearest even, 1 towards zero, 2 up, 3 down (R148). Second: it was inexact. -/
def roundShift (rnd : Nat) (neg : Bool) (mant k : Nat) : Nat × Bool :=
  let n := mant >>> k
  let r := mant % 2 ^ k
  let up := match rnd with
    | 0 => decide (2 ^ k < 2 * r) || (decide (2 * r = 2 ^ k) && n % 2 == 1)
    | 1 => false
    | 2 => !neg
    | _ => neg
  if r = 0 then (n, false) else (n + b2n up, true)

/-- A result whose rounded magnitude exceeds the largest finite value (R149, R153): bits without flags, and the flags. -/
def Fmt.overflow (f : Fmt) (rnd : Nat) (sat neg : Bool) : Nat × Nat :=
  let fl := flagOverflow + flagInexact
  if f.kind = 2 ∨ sat then (f.sign neg + f.maxBits, fl)
  else if f.kind = 1 then (f.nan, fl + flagInvalid)
  else
    let toInf := match rnd with
      | 0 => true
      | 1 => false
      | 2 => !neg
      | _ => neg
    (f.sign neg + (if toInf then f.infBits else f.maxBits), fl)

/-- Rounds a value once into a format: bits and flags (R148, R149, R153). -/
def Fmt.encode (f : Fmt) (rnd : Nat) (sat : Bool) : FVal → Nat × Nat
  | .nan => (f.nan, flagInvalid)
  | .inf neg =>
    match f.kind with
    | 0 => (f.sign neg + f.infBits, 0)
    | 1 => if sat then (f.sign neg + f.maxBits, flagOverflow) else (f.nan, flagInvalid)
    | _ => (f.sign neg + f.maxBits, flagOverflow)
  | .fin neg mant exp =>
    if mant = 0 then (f.sign neg, 0) else
    let top := (Nat.log2 mant : Int) + exp
    let emin := 1 - (f.bias : Int)
    let q := max top emin - f.m
    let r := if q ≤ exp then (mant <<< (exp - q).toNat, false) else roundShift rnd neg mant (q - exp).toNat
    let mag := r.1 + (q + f.m + f.bias - 1).toNat * 2 ^ f.m
    if f.maxBits < mag then f.overflow rnd sat neg
    else (f.sign neg + mag, if r.2 then flagInexact + (if top < emin then flagUnderflow else 0) else 0)

/-- The signed integer of a mantissa. -/
def signedMant (neg : Bool) (m : Nat) : Int := if neg then -(m : Int) else m

/-- The exact product; infinity times zero is NaN. -/
def FVal.mul : FVal → FVal → FVal
  | .nan, _ => .nan
  | _, .nan => .nan
  | .inf s, .inf t => .inf (s != t)
  | .inf s, .fin t m _ => if m = 0 then .nan else .inf (s != t)
  | .fin s m _, .inf t => if m = 0 then .nan else .inf (s != t)
  | .fin s m x, .fin t n y => .fin (s != t) (m * n) (x + y)

/-- The exact sum; an exact zero from addends of different signs is +0, or -0 when rounding down. -/
def FVal.add (rnd : Nat) : FVal → FVal → FVal
  | .nan, _ => .nan
  | _, .nan => .nan
  | .inf s, .inf t => if s = t then .inf s else .nan
  | .inf s, .fin _ _ _ => .inf s
  | .fin _ _ _, .inf t => .inf t
  | .fin s m x, .fin t n y =>
    let e := min x y
    let v := signedMant s (m <<< (x - e).toNat) + signedMant t (n <<< (y - e).toNat)
    if v = 0 then .fin (if s = t then s else rnd == 3) 0 e
    else .fin (decide (v < 0)) v.natAbs e

/-- The value with its sign turned. -/
def FVal.neg : FVal → FVal
  | .nan => .nan
  | .inf s => .inf (!s)
  | .fin s m x => .fin (!s) m x

/-- Numeric order of two numbers: less, equal or greater; -0 equals +0. -/
def FVal.cmp : FVal → FVal → Ordering
  | .nan, _ => .eq
  | _, .nan => .eq
  | .inf s, .inf t => if s = t then .eq else if s then .lt else .gt
  | .inf s, .fin _ _ _ => if s then .lt else .gt
  | .fin _ _ _, .inf t => if t then .gt else .lt
  | .fin s m x, .fin t n y =>
    let e := min x y
    compare (signedMant s (m <<< (x - e).toNat)) (signedMant t (n <<< (y - e).toNat))

/-- The sign of a value. -/
def FVal.isNeg : FVal → Bool
  | .nan => false
  | .inf s => s
  | .fin s _ _ => s

/-- The operations of FALU and F64 (R71). -/
inductive FOp where
  | add | sub | fma | mul | min | max | abs | neg
deriving DecidableEq, Repr

/-- FMIN, FMAX, DMIN, DMAX (R150). -/
def Fmt.minMax (f : Fmt) (isMax : Bool) (a b : Nat) : Nat × Nat :=
  let x := f.decode a
  let y := f.decode b
  if x = .nan ∧ y = .nan then (f.nan, flagInvalid)
  else if x = .nan then (b, flagInvalid)
  else if y = .nan then (a, flagInvalid)
  else
    let aLow := match x.cmp y with
      | .lt => true
      | .gt => false
      | .eq => x.isNeg || !y.isNeg
    (if aLow != isMax then a else b, 0)

/-- One operation on encodings in a format: bits and flags (R148-R150). -/
def Fmt.op (f : Fmt) (o : FOp) (rnd : Nat) (sat : Bool) (a b c : Nat) : Nat × Nat :=
  let a := a % 2 ^ f.width
  let b := b % 2 ^ f.width
  let c := c % 2 ^ f.width
  match o with
  | .abs => (bits a 0 (f.e + f.m), 0)
  | .neg => (setBits a (f.e + f.m) 1 (1 - bits a (f.e + f.m) 1), 0)
  | .min => f.minMax false a b
  | .max => f.minMax true a b
  | .add => f.encode rnd sat ((f.decode a).add rnd (f.decode b))
  | .sub => f.encode rnd sat ((f.decode a).add rnd (f.decode b).neg)
  | .mul => f.encode rnd sat ((f.decode a).mul (f.decode b))
  | .fma => f.encode rnd sat (((f.decode a).mul (f.decode b)).add rnd (f.decode c))

/-- FSETP (R79): the comparison and its flags. -/
def Fmt.compare (f : Fmt) (op a b : Nat) : Bool × Nat :=
  let x := f.decode a
  let y := f.decode b
  if x = .nan ∨ y = .nan then (op == 1 || op == 7, if 2 ≤ op ∧ op ≤ 5 then flagInvalid else 0)
  else
    let c := x.cmp y
    (match op with
      | 0 => c == .eq
      | 1 => c != .eq
      | 2 => c == .lt
      | 3 => c != .gt
      | 4 => c == .gt
      | 5 => c != .lt
      | 6 => true
      | _ => false, 0)

/-! Conversions (R152, R153). -/

/-- The float formats of the CVT codes. -/
def cvtFloat : Nat → Option Fmt
  | 0 => some e4m3
  | 1 => some e5m2
  | 2 => some e3m2
  | 3 => some e2m3
  | 4 => some e2m1
  | 7 => some bf16
  | 8 => some fp16
  | 9 => some fp32
  | _ => none

/-- The integer formats of the CVT codes: width and signedness. -/
def cvtInt : Nat → Option (Nat × Bool)
  | 5 => some (8, true)
  | 6 => some (4, true)
  | 10 => some (32, true)
  | 11 => some (32, false)
  | _ => none

/-- Width of a CVT format. -/
def cvtWidth (c : Nat) : Nat :=
  match cvtFloat c, cvtInt c with
  | some f, _ => f.width
  | _, some (w, _) => w
  | _, _ => 8

/-- The pairs of codes CVT accepts (R152, R153). -/
def cvtLegal (src dst : Nat) : Bool :=
  decide (src ≤ 12) && decide (dst ≤ 12) &&
  (src == dst || ((src != 12 && dst != 12) || (src == 9 && dst == 12) || (src == 12 && dst == 9)))

/-- The integer value of w bits. -/
def intValue (w : Nat) (signed : Bool) (v : Nat) : Int := if signed then toSigned w v else (v % 2 ^ w : Nat)

/-- Least and greatest value of an integer type. -/
def intRange (w : Nat) (signed : Bool) : Int × Int :=
  if signed then (-(2 ^ (w - 1) : Nat), (2 ^ (w - 1) : Nat) - 1) else (0, (2 ^ w : Nat) - 1)

/-- A value clamped into a type: bits, and whether it was clamped. -/
def clampInt (w : Nat) (signed : Bool) (v : Int) : Nat × Bool :=
  let r := intRange w signed
  if v < r.1 then (ofSigned w r.1, true)
  else if r.2 < v then (ofSigned w r.2, true)
  else (ofSigned w v, false)

/-- A float value to an integer type (R153). -/
def floatToInt (w : Nat) (signed : Bool) (rnd : Nat) : FVal → Nat × Nat
  | .nan => (0, flagInvalid)
  | .inf neg =>
    let r := intRange w signed
    (ofSigned w (if neg then r.1 else r.2), flagInvalid)
  | .fin neg mant exp =>
    let r := if 0 ≤ exp then (mant <<< exp.toNat, false) else roundShift rnd neg mant (-exp).toNat
    let c := clampInt w signed (signedMant neg r.1)
    (c.1, if c.2 then flagInvalid else if r.2 then flagInexact else 0)

/-- FP32 to an E8M0 scale (R153). -/
def toE8m0 : FVal → Nat × Nat
  | .nan => (0xFF, flagInvalid)
  | .inf _ => (254, flagOverflow)
  | .fin _ mant exp =>
    if mant = 0 then (0, 0) else
    let t := (Nat.log2 mant : Int) + exp + 127
    (min 254 t.toNat, 0)

/-- CVT (R152, R153): bits and flags. -/
def cvt (src dst rnd : Nat) (sat : Bool) (a : Nat) : Nat × Nat :=
  let x := a % 2 ^ cvtWidth src
  if src = dst then (x, 0)
  else if src = 12 then
    (if x = 0xFF then (fp32.nan, flagInvalid) else fp32.encode 0 false (.fin false 1 ((x : Int) - 127)))
  else if dst = 12 then toE8m0 (fp32.decode x)
  else
    match cvtFloat src, cvtInt src, cvtFloat dst, cvtInt dst with
    | some f, _, some t, _ => t.encode rnd sat (f.decode x)
    | some f, _, _, some (w, sg) => floatToInt w sg rnd (f.decode x)
    | _, some (w, sg), some t, _ =>
      let v := intValue w sg x
      t.encode rnd sat (.fin (decide (v < 0)) v.natAbs 0)
    | _, some (w, sg), _, some (w', sg') =>
      let c := clampInt w' sg' (intValue w sg x)
      (c.1, if c.2 then flagIntSat else 0)
    | _, _, _, _ => (x, 0)

/-! Integer operations (R151). -/

/-- The operations of IALU. -/
inductive IOp where
  | add | sub | mul | mad | min | max | and | or | xor | not | shl | shr | sar | popc | clz
deriving DecidableEq, Repr

/-- Wraps or clamps an exact result (R151). -/
def intResult (w : Nat) (signed sat : Bool) (v : Int) : Nat × Nat :=
  if sat then
    let c := clampInt w signed v
    (c.1, if c.2 then flagIntSat else 0)
  else (ofSigned w v, 0)

/-- One field of an integer operation: bits and flags. The shift count is taken modulo the field's width. -/
def IOp.field (o : IOp) (w : Nat) (signed sat : Bool) (a b c : Nat) : Nat × Nat :=
  let x := intValue w signed a
  let y := intValue w signed b
  match o with
  | .add => intResult w signed sat (x + y)
  | .sub => intResult w signed sat (x - y)
  | .mul => intResult w signed sat (x * y)
  | .mad => intResult w signed sat (x * y + intValue w signed c)
  | .min => (ofSigned w (Min.min x y), 0)
  | .max => (ofSigned w (Max.max x y), 0)
  | .and => (a &&& b, 0)
  | .or => (a ||| b, 0)
  | .xor => (a ^^^ b, 0)
  | .not => (2 ^ w - 1 - a % 2 ^ w, 0)
  | .shl => ((a <<< (b % w)) % 2 ^ w, 0)
  | .shr => ((a % 2 ^ w) >>> (b % w), 0)
  | .sar => (ofSigned w (toSigned w a >>> (b % w)), 0)
  | .popc => (popcount w a, 0)
  | .clz => (if a % 2 ^ w = 0 then w else w - 1 - Nat.log2 (a % 2 ^ w), 0)

/-- Applies an operation to each field of n fields of w bits. -/
def eachField (w n : Nat) (f : Nat → Nat → Nat → Nat × Nat) (a b c : Nat) : Nat × Nat :=
  (List.range n).foldl (fun r i =>
    let q := f (bits a (w * i) w) (bits b (w * i) w) (bits c (w * i) w)
    (r.1 + q.1 * 2 ^ (w * i), r.2 ||| q.2)) (0, 0)

/-! The function-table unit (R163, R164). -/

/-- One FP32 fused multiply-add, to nearest even. -/
def fma32 (a b c : Nat) : Nat × Nat := fp32.op .fma 0 false a b c

/-- FTAB.EV on an FP32 input: the result, and the flags of its fused operations. `c i k` is coefficient k of segment i. -/
def ftabEval (c : Nat → Nat → Nat) (x d : Nat) : Nat × Nat :=
  let h := (fp32.encode 0 false (.fin false 1 ((d : Int) - 4))).1
  let nh := (fp32.encode 0 false (.fin true 1 ((d : Int) - 4))).1
  let w := (fp32.encode 0 false (.fin false 1 ((d : Int) - 11))).1
  let v := fp32.decode x
  let keep := fun (r : Nat × Nat) => (r.1, r.2 &&& (flagInvalid + flagOverflow + flagInexact))
  let tail := fun (i t : Nat) =>
    match fp32.decode (c i 1) with
    | .fin _ 0 _ => if fp32.decode (c i 0) = .nan then (fp32.nan, flagInvalid) else (c i 0, 0)
    | _ => keep (fma32 (c i 1) t (c i 0))
  if v = .nan then (fp32.nan, flagInvalid)
  else if v.cmp (fp32.decode nh) = .lt then tail 0 (fp32.op .add 0 false x h 0).1
  else if v.cmp (fp32.decode h) ≠ .lt then tail 255 (fp32.op .sub 0 false x (fp32.op .sub 0 false h w 0).1 0).1
  else
    let i := match fp32.decode (fp32.op .add 0 false x h 0).1 with
      | .fin _ m e =>
        let k := e - ((d : Int) - 11)
        min 255 (if 0 ≤ k then m <<< k.toNat else m >>> (-k).toNat)
      | _ => 0
    let left := (fp32.op .fma 0 false (fp32.encode 0 false (.fin false i 0)).1 w nh).1
    let t := (fp32.op .sub 0 false x left 0).1
    let r1 := fma32 (c i 3) t (c i 2)
    let r2 := fma32 r1.1 t (c i 1)
    let r3 := fma32 r2.1 t (c i 0)
    keep (r3.1, r1.2 ||| r2.2 ||| r3.2)

/-! The drain conversions (R157). -/

/-- A float drain from FP32: to nearest even, a finite overflow held at the largest finite value. -/
def drainFloat (f : Fmt) (acc : Nat) : Nat := (f.encode 0 true (fp32.decode acc)).1

/-- An accumulator word in the output format OFMT (R157). -/
def drainValue (ofmt acc : Nat) : Nat :=
  match ofmt with
  | 0 => if fp32.decode acc = .nan then fp32.nan else acc % 2 ^ 32
  | 1 => drainFloat bf16 acc
  | 2 => drainFloat fp16 acc
  | 3 => drainFloat e4m3 acc
  | 4 => drainFloat e5m2 acc
  | 6 => (clampInt 8 true (toSigned 32 acc)).1
  | _ => acc % 2 ^ 32

end Sys2Proof.Machine
end

