-- ==== Sys2Proof/Config.lean ====
section
/-! DEFINITION. The free values: constants with no body, so that no proof can see a value of them. Each stands where the
manual says that a value is open, or states none (log entries 10 to 20). A fresh value is one of these applied to the
counter `free` of the state. -/

namespace Sys2Proof.Config

/-- A fresh open value (log entry 10). -/
opaque freeNat : Nat → Nat

/-- The set of the L2 that a line of a slice falls in (R237; log entry 81). -/
opaque l2Set : Nat → Nat

/-- The place among the words a full instruction cache of a core holds whose word makes room for another (R66; log entry 82). -/
opaque icVictim : Nat → Nat → Nat

/-- Bytes that a live scan moves on its channel (R249, R251; log entry 83). -/
opaque scanBytes : Nat → Nat → Nat

/-- The open contents of a sector of HBM after the n-th destructive scan (R249; log entry 48). -/
opaque scanSector : Nat → Nat → BitVec 256

/-- The built-in tables of the function-table unit, RCP, RSQ, EXP2 and LOG2 in that order, whose error is bounded by one
unit in the last place (R78; log entry 11). -/
opaque builtinTable : Nat → Word → Word

/-- The flags that a built-in table sets (R76; log entry 11). -/
opaque builtinFlags : Nat → Word → Nat

/-- The exponential of the softmax of routing weights (R179; log entry 12). -/
opaque softExp : Nat → Word → Word

/-- The fused voltage of VDD_CORE for an ACLK in MHz (R529; log entry 52). -/
opaque fusedVoltage : Nat → Nat

/-- The ROM version that measurement 1 reports (R485; log entry 61). -/
opaque romVersion : Nat

/-- The SM3 digest of some bytes (R461, R462; log entry 13). -/
opaque sm3 : List Byte → Nat

/-- An SM2 signature by the key of a die over a digest (R461, R485, R510; log entry 14). -/
opaque sm2Sign : Nat → Nat → List Byte

/-- The length that the header of a firmware image gives, and whether the image passes Odkel's check and its version (R462, R465;
log entry 63). -/
opaque firmwareLength : List Byte → Nat
opaque firmwareOk : List Byte → Bool
opaque firmwareVersion : List Byte → Nat

/-- An SM2 public key verifies a signature over a digest (R461, R462; log entry 14). -/
opaque sm2Verify : List Byte → Nat → List Byte → Bool

/-- What a configuration register of a function reads before it is written, where the manual does not say (R430, R431; log entry 77). -/
opaque pciConfig : Nat → Nat → BitVec 32

end Sys2Proof.Config
end

