-- ==== Sys2Proof/Machine/RegMap.lean ====
section
/-! DEFINITION. The register maps of BAR0 (R8, R10, R28): one row per register with its place, its access masks and its
reset value, and one named field per field of the maps. A register of which there are several is indexed. Reset values
that a map gives as from fuses, configuration, boot or ledger are 0 here and are written by the boot steps (log entry 5). -/

namespace Sys2Proof.Machine

/-- Who may write the writable fields of a register (R371, R384, R432, R435). -/
inductive Who where
  | none | dev | own | queue | reader | bank
deriving DecidableEq, Repr

/-- A register, or a family of registers: register (i, j) lies at base + (i / m) * s1 + (i % m) * s2 + j * sj,
for i below n and j below nj. -/
structure RegRow where
  base : Nat
  n : Nat
  m : Nat
  s1 : Nat
  s2 : Nat
  nj : Nat
  sj : Nat
  rw : Nat
  w1c : Nat
  rc : Nat
  wo : Nat
  reset : Nat
  who : Who
deriving DecidableEq, Repr

/-- A named field: the register's offset and the field's low bit and width. -/
structure Fld where
  off : Nat
  lo : Nat
  w : Nat
deriving DecidableEq, Repr

/-- The index pair of an offset in a row, if the row covers the offset. -/
def RegRow.index (r : RegRow) (off : Nat) : Option (Nat × Nat) :=
  if off < r.base then Option.none else
  let d := off - r.base
  let q := if r.n ≤ 1 then 0 else d / r.s1
  let e := if r.n ≤ 1 then d else d % r.s1
  let k := if r.m ≤ 1 then 0 else e / r.s2
  let e' := if r.m ≤ 1 then e else e % r.s2
  let i := q * r.m + k
  let j := if r.nj ≤ 1 then 0 else e' / r.sj
  let e'' := if r.nj ≤ 1 then e' else e' % r.sj
  if i < r.n ∧ k < r.m ∧ j < r.nj ∧ e'' = 0 then some (i, j) else Option.none

/-! ARRAY_MASK (Array identity registers in GLOBAL) -/
def ARRAY_MASK.off (j : Nat) : Nat := 0x00000100 + j * 0x8
def ARRAY_MASK.ENABLED (j : Nat) : Fld := ⟨ARRAY_MASK.off j, 0, 64⟩
def ARRAY_MASK.row : RegRow := ⟨256, 1, 1, 0, 0, 2, 8, 0x0, 0x0, 0x0, 0x0, 0x0, .none⟩

/-! ARRAY_INFO (Array identity registers in GLOBAL) -/
def ARRAY_INFO.off : Nat := 0x00000110
def ARRAY_INFO.ENABLED_COUNT : Fld := ⟨ARRAY_INFO.off, 0, 8⟩
def ARRAY_INFO.GRADE : Fld := ⟨ARRAY_INFO.off, 8, 4⟩
def ARRAY_INFO.PER_SECTION : Fld := ⟨ARRAY_INFO.off, 12, 4⟩
def ARRAY_INFO.row : RegRow := ⟨272, 1, 1, 0, 0, 1, 0, 0x0, 0x0, 0x0, 0x0, 0x0, .none⟩

/-! ARRAY_STATUS (Per-array registers in COMPUTE) -/
def ARRAY_STATUS.off (i : Nat) : Nat := 0x00802000 + i / 8 * 0x40000 + i % 8 * 0x80
def ARRAY_STATUS.PRESENT (i : Nat) : Fld := ⟨ARRAY_STATUS.off i, 0, 1⟩
def ARRAY_STATUS.MODE (i : Nat) : Fld := ⟨ARRAY_STATUS.off i, 1, 1⟩
def ARRAY_STATUS.NLOG (i : Nat) : Fld := ⟨ARRAY_STATUS.off i, 2, 3⟩
def ARRAY_STATUS.QUEUE (i : Nat) : Fld := ⟨ARRAY_STATUS.off i, 5, 6⟩
def ARRAY_STATUS.STATE (i : Nat) : Fld := ⟨ARRAY_STATUS.off i, 11, 3⟩
def ARRAY_STATUS.LEVEL (i : Nat) : Fld := ⟨ARRAY_STATUS.off i, 14, 7⟩
def ARRAY_STATUS.row : RegRow := ⟨8396800, 128, 8, 262144, 128, 1, 0, 0x0, 0x0, 0x0, 0x0, 0x2000, .dev⟩

/-! ARRAY_ACTIVE (Per-array registers in COMPUTE) -/
def ARRAY_ACTIVE.off (i : Nat) : Nat := 0x00802008 + i / 8 * 0x40000 + i % 8 * 0x80
def ARRAY_ACTIVE.COUNT (i : Nat) : Fld := ⟨ARRAY_ACTIVE.off i, 0, 64⟩
def ARRAY_ACTIVE.row : RegRow := ⟨8396808, 128, 8, 262144, 128, 1, 0, 0x0, 0x0, 0x0, 0x0, 0x0, .dev⟩

/-! ARRAY_FREEZE (Per-array registers in COMPUTE) -/
def ARRAY_FREEZE.off (i : Nat) : Nat := 0x00802010 + i / 8 * 0x40000 + i % 8 * 0x80
def ARRAY_FREEZE.COUNT (i : Nat) : Fld := ⟨ARRAY_FREEZE.off i, 0, 64⟩
def ARRAY_FREEZE.row : RegRow := ⟨8396816, 128, 8, 262144, 128, 1, 0, 0x0, 0x0, 0x0, 0x0, 0x0, .dev⟩

/-! ARRAY_DUMMY (Per-array registers in COMPUTE) -/
def ARRAY_DUMMY.off (i : Nat) : Nat := 0x00802018 + i / 8 * 0x40000 + i % 8 * 0x80
def ARRAY_DUMMY.COUNT (i : Nat) : Fld := ⟨ARRAY_DUMMY.off i, 0, 64⟩
def ARRAY_DUMMY.row : RegRow := ⟨8396824, 128, 8, 262144, 128, 1, 0, 0x0, 0x0, 0x0, 0x0, 0x0, .dev⟩

/-! ARRAY_DISCARDS (Per-array registers in COMPUTE) -/
def ARRAY_DISCARDS.off (i : Nat) : Nat := 0x00802020 + i / 8 * 0x40000 + i % 8 * 0x80
def ARRAY_DISCARDS.COUNT (i : Nat) : Fld := ⟨ARRAY_DISCARDS.off i, 0, 32⟩
def ARRAY_DISCARDS.row : RegRow := ⟨8396832, 128, 8, 262144, 128, 1, 0, 0x0, 0x0, 0xFFFFFFFF, 0x0, 0x0, .dev⟩

/-! EDU_STATUS (Expert Dispatch Unit registers) -/
def EDU_STATUS.off (i : Nat) : Nat := 0x00700000 + i * 0x40000
def EDU_STATUS.QUEUE (i : Nat) : Fld := ⟨EDU_STATUS.off i, 0, 7⟩
def EDU_STATUS.ACTIVE (i : Nat) : Fld := ⟨EDU_STATUS.off i, 7, 6⟩
def EDU_STATUS.STORE_FREE (i : Nat) : Fld := ⟨EDU_STATUS.off i, 13, 20⟩
def EDU_STATUS.row : RegRow := ⟨7340032, 2, 1, 262144, 0, 1, 0, 0x0, 0x0, 0x0, 0x0, 0x100000000, .dev⟩

/-! EDU_STRAY (Expert Dispatch Unit registers) -/
def EDU_STRAY.off (i : Nat) : Nat := 0x00700008 + i * 0x40000
def EDU_STRAY.COUNT (i : Nat) : Fld := ⟨EDU_STRAY.off i, 0, 32⟩
def EDU_STRAY.row : RegRow := ⟨7340040, 2, 1, 262144, 0, 1, 0, 0x0, 0x0, 0xFFFFFFFF, 0x0, 0x0, .dev⟩

/-! EDU_NAN (Expert Dispatch Unit registers) -/
def EDU_NAN.off (i : Nat) : Nat := 0x00700010 + i * 0x40000
def EDU_NAN.COUNT (i : Nat) : Fld := ⟨EDU_NAN.off i, 0, 32⟩
def EDU_NAN.row : RegRow := ⟨7340048, 2, 1, 262144, 0, 1, 0, 0x0, 0x0, 0xFFFFFFFF, 0x0, 0x0, .dev⟩

/-! EDU_LATE (Expert Dispatch Unit registers) -/
def EDU_LATE.off (i : Nat) : Nat := 0x00700018 + i * 0x40000
def EDU_LATE.COUNT (i : Nat) : Fld := ⟨EDU_LATE.off i, 0, 32⟩
def EDU_LATE.row : RegRow := ⟨7340056, 2, 1, 262144, 0, 1, 0, 0x0, 0x0, 0xFFFFFFFF, 0x0, 0x0, .dev⟩

/-! EDU_GRANTED (Expert Dispatch Unit registers) -/
def EDU_GRANTED.off (i : Nat) : Nat := 0x00700020 + i * 0x40000
def EDU_GRANTED.COUNT (i : Nat) : Fld := ⟨EDU_GRANTED.off i, 0, 64⟩
def EDU_GRANTED.row : RegRow := ⟨7340064, 2, 1, 262144, 0, 1, 0, 0x0, 0x0, 0x0, 0x0, 0x0, .dev⟩

/-! EDU_DROPPED (Expert Dispatch Unit registers) -/
def EDU_DROPPED.off (i : Nat) : Nat := 0x00700028 + i * 0x40000
def EDU_DROPPED.COUNT (i : Nat) : Fld := ⟨EDU_DROPPED.off i, 0, 64⟩
def EDU_DROPPED.row : RegRow := ⟨7340072, 2, 1, 262144, 0, 1, 0, 0x0, 0x0, 0x0, 0x0, 0x0, .dev⟩

/-! CTX_STATE (Expert Dispatch Unit registers) -/
def CTX_STATE.off (i : Nat) : Nat := 0x00701000 + i / 32 * 0x40000 + i % 32 * 0x40
def CTX_STATE.STATE (i : Nat) : Fld := ⟨CTX_STATE.off i, 0, 3⟩
def CTX_STATE.GEN (i : Nat) : Fld := ⟨CTX_STATE.off i, 8, 8⟩
def CTX_STATE.TOKENS (i : Nat) : Fld := ⟨CTX_STATE.off i, 16, 13⟩
def CTX_STATE.PENDING (i : Nat) : Fld := ⟨CTX_STATE.off i, 32, 32⟩
def CTX_STATE.row : RegRow := ⟨7344128, 64, 32, 262144, 64, 1, 0, 0x0, 0x0, 0x0, 0x0, 0x0, .dev⟩

/-! CTX_OWNER (Expert Dispatch Unit registers) -/
def CTX_OWNER.off (i : Nat) : Nat := 0x00701008 + i / 32 * 0x40000 + i % 32 * 0x40
def CTX_OWNER.PART (i : Nat) : Fld := ⟨CTX_OWNER.off i, 0, 5⟩
def CTX_OWNER.row : RegRow := ⟨7344136, 64, 32, 262144, 64, 1, 0, 0x1F, 0x0, 0x0, 0x0, 0x1F, .dev⟩

/-! CTX_COUNTS (Expert Dispatch Unit registers) -/
def CTX_COUNTS.off (i : Nat) : Nat := 0x00701010 + i / 32 * 0x40000 + i % 32 * 0x40
def CTX_COUNTS.GRANTED (i : Nat) : Fld := ⟨CTX_COUNTS.off i, 0, 16⟩
def CTX_COUNTS.SECOND (i : Nat) : Fld := ⟨CTX_COUNTS.off i, 16, 16⟩
def CTX_COUNTS.DROPPED (i : Nat) : Fld := ⟨CTX_COUNTS.off i, 32, 16⟩
def CTX_COUNTS.LOST (i : Nat) : Fld := ⟨CTX_COUNTS.off i, 48, 16⟩
def CTX_COUNTS.row : RegRow := ⟨7344144, 64, 32, 262144, 64, 1, 0, 0x0, 0x0, 0x0, 0x0, 0x0, .dev⟩

/-! SP_HANDOVER (SP_HANDOVER and SP_HANDOVER_STATUS) -/
def SP_HANDOVER.off : Nat := 0x00C02000
def SP_HANDOVER.SECTION : Fld := ⟨SP_HANDOVER.off, 0, 4⟩
def SP_HANDOVER.CORE_MASK : Fld := ⟨SP_HANDOVER.off, 4, 8⟩
def SP_HANDOVER.SET_MASK : Fld := ⟨SP_HANDOVER.off, 12, 16⟩
def SP_HANDOVER.NEW_OWNER : Fld := ⟨SP_HANDOVER.off, 28, 5⟩
def SP_HANDOVER.TIMEOUT : Fld := ⟨SP_HANDOVER.off, 33, 16⟩
def SP_HANDOVER.row : RegRow := ⟨12591104, 1, 1, 0, 0, 1, 0, 0x0, 0x0, 0x0, 0x1FFFFFFFFFFFF, 0x0, .dev⟩

/-! SP_HANDOVER_STATUS (SP_HANDOVER and SP_HANDOVER_STATUS) -/
def SP_HANDOVER_STATUS.off : Nat := 0x00C02008
def SP_HANDOVER_STATUS.STATE : Fld := ⟨SP_HANDOVER_STATUS.off, 0, 2⟩
def SP_HANDOVER_STATUS.RESULT : Fld := ⟨SP_HANDOVER_STATUS.off, 2, 3⟩
def SP_HANDOVER_STATUS.ZEROED : Fld := ⟨SP_HANDOVER_STATUS.off, 5, 1⟩
def SP_HANDOVER_STATUS.SEQ : Fld := ⟨SP_HANDOVER_STATUS.off, 16, 16⟩
def SP_HANDOVER_STATUS.ELAPSED : Fld := ⟨SP_HANDOVER_STATUS.off, 32, 16⟩
def SP_HANDOVER_STATUS.row : RegRow := ⟨12591112, 1, 1, 0, 0, 1, 0, 0x0, 0x0, 0x0, 0x0, 0x0, .none⟩

/-! SP_STATUS (Per-core scratchpad registers) -/
def SP_STATUS.off (i : Nat) : Nat := 0x00C01000 + i * 0x20
def SP_STATUS.FAILED (i : Nat) : Fld := ⟨SP_STATUS.off i, 0, 1⟩
def SP_STATUS.SPARE_BANK_USED (i : Nat) : Fld := ⟨SP_STATUS.off i, 1, 1⟩
def SP_STATUS.SPARE_FOR (i : Nat) : Fld := ⟨SP_STATUS.off i, 2, 8⟩
def SP_STATUS.SPARE_ROWS_USED (i : Nat) : Fld := ⟨SP_STATUS.off i, 10, 10⟩
def SP_STATUS.SB_USED (i : Nat) : Fld := ⟨SP_STATUS.off i, 20, 6⟩
def SP_STATUS.row : RegRow := ⟨12587008, 128, 1, 32, 0, 1, 0, 0x0, 0x0, 0x0, 0x0, 0x0, .dev⟩

/-! SP_ECC (Per-core scratchpad registers) -/
def SP_ECC.off (i : Nat) : Nat := 0x00C01008 + i * 0x20
def SP_ECC.CE (i : Nat) : Fld := ⟨SP_ECC.off i, 0, 32⟩
def SP_ECC.UE (i : Nat) : Fld := ⟨SP_ECC.off i, 32, 32⟩
def SP_ECC.row : RegRow := ⟨12587016, 128, 1, 32, 0, 1, 0, 0x0, 0x0, 0xFFFFFFFFFFFFFFFF, 0x0, 0x0, .dev⟩

/-! SP_MARCH_RESULT (Per-core scratchpad registers) -/
def SP_MARCH_RESULT.off (i : Nat) : Nat := 0x00C01010 + i * 0x20
def SP_MARCH_RESULT.FAIL_SETS (i : Nat) : Fld := ⟨SP_MARCH_RESULT.off i, 0, 16⟩
def SP_MARCH_RESULT.ROWS_FAILED (i : Nat) : Fld := ⟨SP_MARCH_RESULT.off i, 16, 10⟩
def SP_MARCH_RESULT.ROWS_REPAIRED (i : Nat) : Fld := ⟨SP_MARCH_RESULT.off i, 26, 10⟩
def SP_MARCH_RESULT.BANK_REPLACED (i : Nat) : Fld := ⟨SP_MARCH_RESULT.off i, 36, 1⟩
def SP_MARCH_RESULT.CORE_FAILED (i : Nat) : Fld := ⟨SP_MARCH_RESULT.off i, 37, 1⟩
def SP_MARCH_RESULT.ALG (i : Nat) : Fld := ⟨SP_MARCH_RESULT.off i, 38, 2⟩
def SP_MARCH_RESULT.MODE (i : Nat) : Fld := ⟨SP_MARCH_RESULT.off i, 40, 1⟩
def SP_MARCH_RESULT.FIRST_BANK (i : Nat) : Fld := ⟨SP_MARCH_RESULT.off i, 41, 8⟩
def SP_MARCH_RESULT.FIRST_ROW (i : Nat) : Fld := ⟨SP_MARCH_RESULT.off i, 49, 8⟩
def SP_MARCH_RESULT.row : RegRow := ⟨12587024, 128, 1, 32, 0, 1, 0, 0x0, 0x0, 0x0, 0x0, 0x0, .dev⟩

/-! SP_PORT (Per-core scratchpad registers) -/
def SP_PORT.off (i : Nat) : Nat := 0x00C01018 + i * 0x20
def SP_PORT.CREDIT_STALLS (i : Nat) : Fld := ⟨SP_PORT.off i, 0, 32⟩
def SP_PORT.LZ_FREE (i : Nat) : Fld := ⟨SP_PORT.off i, 32, 10⟩
def SP_PORT.row : RegRow := ⟨12587032, 128, 1, 32, 0, 1, 0, 0x0, 0x0, 0xFFFFFFFF, 0x0, 0x20000000000, .dev⟩

/-! SP_OWN (SP_OWN[c][j] (R203)) -/
def SP_OWN.off (i : Nat) (j : Nat) : Nat := 0x00C00000 + i * 0x20 + j * 0x8
def SP_OWN.row : RegRow := ⟨12582912, 128, 1, 32, 0, 4, 8, 0x0, 0x0, 0x0, 0x0, 0x3F103F103F103F1, .none⟩

/-! L1_HITS (L1 and L2 registers) -/
def L1_HITS.off (i : Nat) : Nat := 0x00C10000 + i * 0x20
def L1_HITS.COUNT (i : Nat) : Fld := ⟨L1_HITS.off i, 0, 64⟩
def L1_HITS.row : RegRow := ⟨12648448, 128, 1, 32, 0, 1, 0, 0x0, 0x0, 0x0, 0x0, 0x0, .dev⟩

/-! L1_MISSES (L1 and L2 registers) -/
def L1_MISSES.off (i : Nat) : Nat := 0x00C10008 + i * 0x20
def L1_MISSES.COUNT (i : Nat) : Fld := ⟨L1_MISSES.off i, 0, 64⟩
def L1_MISSES.row : RegRow := ⟨12648456, 128, 1, 32, 0, 1, 0, 0x0, 0x0, 0x0, 0x0, 0x0, .dev⟩

/-! L1_STATS (L1 and L2 registers) -/
def L1_STATS.off (i : Nat) : Nat := 0x00C10010 + i * 0x20
def L1_STATS.RECALLS (i : Nat) : Fld := ⟨L1_STATS.off i, 0, 32⟩
def L1_STATS.PARITY (i : Nat) : Fld := ⟨L1_STATS.off i, 32, 32⟩
def L1_STATS.row : RegRow := ⟨12648464, 128, 1, 32, 0, 1, 0, 0x0, 0x0, 0xFFFFFFFF00000000, 0x0, 0x0, .dev⟩

/-! L1_INVAL (L1 and L2 registers) -/
def L1_INVAL.off (i : Nat) : Nat := 0x00C10018 + i * 0x20
def L1_INVAL.COUNT (i : Nat) : Fld := ⟨L1_INVAL.off i, 0, 32⟩
def L1_INVAL.row : RegRow := ⟨12648472, 128, 1, 32, 0, 1, 0, 0x0, 0x0, 0x0, 0x0, 0x0, .dev⟩

/-! L2_STATUS (L1 and L2 registers) -/
def L2_STATUS.off (i : Nat) : Nat := 0x00C20000 + i * 0x40
def L2_STATUS.DIRTY (i : Nat) : Fld := ⟨L2_STATUS.off i, 0, 19⟩
def L2_STATUS.row : RegRow := ⟨12713984, 8, 1, 64, 0, 1, 0, 0x0, 0x0, 0x0, 0x0, 0x0, .dev⟩

/-! L2_ECC (L1 and L2 registers) -/
def L2_ECC.off (i : Nat) : Nat := 0x00C20008 + i * 0x40
def L2_ECC.CE (i : Nat) : Fld := ⟨L2_ECC.off i, 0, 32⟩
def L2_ECC.UE (i : Nat) : Fld := ⟨L2_ECC.off i, 32, 32⟩
def L2_ECC.row : RegRow := ⟨12713992, 8, 1, 64, 0, 1, 0, 0x0, 0x0, 0xFFFFFFFFFFFFFFFF, 0x0, 0x0, .dev⟩

/-! L2_HITS (L1 and L2 registers) -/
def L2_HITS.off (i : Nat) : Nat := 0x00C20010 + i * 0x40
def L2_HITS.COUNT (i : Nat) : Fld := ⟨L2_HITS.off i, 0, 64⟩
def L2_HITS.row : RegRow := ⟨12714000, 8, 1, 64, 0, 1, 0, 0x0, 0x0, 0x0, 0x0, 0x0, .dev⟩

/-! L2_MISSES (L1 and L2 registers) -/
def L2_MISSES.off (i : Nat) : Nat := 0x00C20018 + i * 0x40
def L2_MISSES.COUNT (i : Nat) : Fld := ⟨L2_MISSES.off i, 0, 64⟩
def L2_MISSES.row : RegRow := ⟨12714008, 8, 1, 64, 0, 1, 0, 0x0, 0x0, 0x0, 0x0, 0x0, .dev⟩

/-! L2_PART_WAYS (L1 and L2 registers) -/
def L2_PART_WAYS.off (i : Nat) : Nat := 0x00C21000 + i * 0x8
def L2_PART_WAYS.WAYS (i : Nat) : Fld := ⟨L2_PART_WAYS.off i, 0, 16⟩
def L2_PART_WAYS.row : RegRow := ⟨12718080, 16, 1, 8, 0, 1, 0, 0xFFFF, 0x0, 0x0, 0x0, 0xFFFF, .dev⟩

/-! HBM_CAPACITY (HBM registers) -/
def HBM_CAPACITY.off : Nat := 0x00C30000
def HBM_CAPACITY.CHANNELS : Fld := ⟨HBM_CAPACITY.off, 0, 8⟩
def HBM_CAPACITY.PENDING : Fld := ⟨HBM_CAPACITY.off, 8, 8⟩
def HBM_CAPACITY.CAPACITY_MIB : Fld := ⟨HBM_CAPACITY.off, 16, 20⟩
def HBM_CAPACITY.row : RegRow := ⟨12779520, 1, 1, 0, 0, 1, 0, 0x0, 0x0, 0x0, 0x0, 0x0, .none⟩

/-! HBM_MAP (HBM registers) -/
def HBM_MAP.off (j : Nat) : Nat := 0x00C30008 + j * 0x8
def HBM_MAP.MAPPED (j : Nat) : Fld := ⟨HBM_MAP.off j, 0, 64⟩
def HBM_MAP.row : RegRow := ⟨12779528, 1, 1, 0, 0, 2, 8, 0x0, 0x0, 0x0, 0x0, 0x0, .none⟩

/-! HBM_RETIRE (HBM registers) -/
def HBM_RETIRE.off (j : Nat) : Nat := 0x00C30018 + j * 0x8
def HBM_RETIRE.PENDING (j : Nat) : Fld := ⟨HBM_RETIRE.off j, 0, 64⟩
def HBM_RETIRE.row : RegRow := ⟨12779544, 1, 1, 0, 0, 2, 8, 0x0, 0x0, 0x0, 0x0, 0x0, .none⟩

/-! HBM_QOS (HBM registers) -/
def HBM_QOS.off : Nat := 0x00C30028
def HBM_QOS.BULK_WEIGHT : Fld := ⟨HBM_QOS.off, 0, 4⟩
def HBM_QOS.row : RegRow := ⟨12779560, 1, 1, 0, 0, 1, 0, 0xF, 0x0, 0x0, 0x0, 0x4, .dev⟩

/-! HBM_CH_STATUS (HBM registers) -/
def HBM_CH_STATUS.off (i : Nat) : Nat := 0x00C40000 + i * 0x100
def HBM_CH_STATUS.STATE (i : Nat) : Fld := ⟨HBM_CH_STATUS.off i, 0, 2⟩
def HBM_CH_STATUS.RETIRE_PENDING (i : Nat) : Fld := ⟨HBM_CH_STATUS.off i, 2, 1⟩
def HBM_CH_STATUS.SCAN_ACTIVE (i : Nat) : Fld := ⟨HBM_CH_STATUS.off i, 3, 1⟩
def HBM_CH_STATUS.TEMP (i : Nat) : Fld := ⟨HBM_CH_STATUS.off i, 8, 8⟩
def HBM_CH_STATUS.row : RegRow := ⟨12845056, 128, 1, 256, 0, 1, 0, 0x0, 0x0, 0x0, 0x0, 0x0, .dev⟩

/-! HBM_CH_ECC (HBM registers) -/
def HBM_CH_ECC.off (i : Nat) : Nat := 0x00C40008 + i * 0x100
def HBM_CH_ECC.CE (i : Nat) : Fld := ⟨HBM_CH_ECC.off i, 0, 32⟩
def HBM_CH_ECC.UE (i : Nat) : Fld := ⟨HBM_CH_ECC.off i, 32, 16⟩
def HBM_CH_ECC.row : RegRow := ⟨12845064, 128, 1, 256, 0, 1, 0, 0x0, 0x0, 0xFFFFFFFFFFFF, 0x0, 0x0, .dev⟩

/-! HBM_CH_DROPPED (HBM registers) -/
def HBM_CH_DROPPED.off (i : Nat) : Nat := 0x00C40010 + i * 0x100
def HBM_CH_DROPPED.WRITES (i : Nat) : Fld := ⟨HBM_CH_DROPPED.off i, 0, 32⟩
def HBM_CH_DROPPED.row : RegRow := ⟨12845072, 128, 1, 256, 0, 1, 0, 0x0, 0x0, 0xFFFFFFFF, 0x0, 0x0, .dev⟩

/-! HBM_CH_BYTES_LC (HBM registers) -/
def HBM_CH_BYTES_LC.off (i : Nat) : Nat := 0x00C40018 + i * 0x100
def HBM_CH_BYTES_LC.COUNT (i : Nat) : Fld := ⟨HBM_CH_BYTES_LC.off i, 0, 64⟩
def HBM_CH_BYTES_LC.row : RegRow := ⟨12845080, 128, 1, 256, 0, 1, 0, 0x0, 0x0, 0x0, 0x0, 0x0, .dev⟩

/-! HBM_CH_BYTES_NORMAL (HBM registers) -/
def HBM_CH_BYTES_NORMAL.off (i : Nat) : Nat := 0x00C40020 + i * 0x100
def HBM_CH_BYTES_NORMAL.COUNT (i : Nat) : Fld := ⟨HBM_CH_BYTES_NORMAL.off i, 0, 64⟩
def HBM_CH_BYTES_NORMAL.row : RegRow := ⟨12845088, 128, 1, 256, 0, 1, 0, 0x0, 0x0, 0x0, 0x0, 0x0, .dev⟩

/-! HBM_CH_BYTES_BULK (HBM registers) -/
def HBM_CH_BYTES_BULK.off (i : Nat) : Nat := 0x00C40028 + i * 0x100
def HBM_CH_BYTES_BULK.COUNT (i : Nat) : Fld := ⟨HBM_CH_BYTES_BULK.off i, 0, 64⟩
def HBM_CH_BYTES_BULK.row : RegRow := ⟨12845096, 128, 1, 256, 0, 1, 0, 0x0, 0x0, 0x0, 0x0, 0x0, .dev⟩

/-! HBM_CH_LC_CAPPED (HBM registers) -/
def HBM_CH_LC_CAPPED.off (i : Nat) : Nat := 0x00C40030 + i * 0x100
def HBM_CH_LC_CAPPED.COUNT (i : Nat) : Fld := ⟨HBM_CH_LC_CAPPED.off i, 0, 64⟩
def HBM_CH_LC_CAPPED.row : RegRow := ⟨12845104, 128, 1, 256, 0, 1, 0, 0x0, 0x0, 0x0, 0x0, 0x0, .dev⟩

/-! HBM_CH_MARGIN (HBM registers) -/
def HBM_CH_MARGIN.off (i : Nat) (j : Nat) : Nat := 0x00C40040 + i * 0x100 + j * 0x8
def HBM_CH_MARGIN.RECORD (i : Nat) (j : Nat) : Fld := ⟨HBM_CH_MARGIN.off i j, 0, 64⟩
def HBM_CH_MARGIN.row : RegRow := ⟨12845120, 128, 1, 256, 0, 8, 8, 0x0, 0x0, 0x0, 0x0, 0x0, .none⟩

/-! SYNC_STATUS (Sesame store registers) -/
def SYNC_STATUS.off (i : Nat) : Nat := 0x00200000 + i * 0x100
def SYNC_STATUS.PARKED (i : Nat) : Fld := ⟨SYNC_STATUS.off i, 0, 14⟩
def SYNC_STATUS.TAGS (i : Nat) : Fld := ⟨SYNC_STATUS.off i, 14, 13⟩
def SYNC_STATUS.row : RegRow := ⟨2097152, 2, 1, 256, 0, 1, 0, 0x0, 0x0, 0x0, 0x0, 0x0, .dev⟩

/-! SYNC_OPS (Sesame store registers) -/
def SYNC_OPS.off (i : Nat) : Nat := 0x00200008 + i * 0x100
def SYNC_OPS.COUNT (i : Nat) : Fld := ⟨SYNC_OPS.off i, 0, 64⟩
def SYNC_OPS.row : RegRow := ⟨2097160, 2, 1, 256, 0, 1, 0, 0x0, 0x0, 0x0, 0x0, 0x0, .dev⟩

/-! SYNC_WAKES (Sesame store registers) -/
def SYNC_WAKES.off (i : Nat) : Nat := 0x00200010 + i * 0x100
def SYNC_WAKES.COUNT (i : Nat) : Fld := ⟨SYNC_WAKES.off i, 0, 64⟩
def SYNC_WAKES.row : RegRow := ⟨2097168, 2, 1, 256, 0, 1, 0, 0x0, 0x0, 0x0, 0x0, 0x0, .dev⟩

/-! SYNC_EXC (Sesame store registers) -/
def SYNC_EXC.off (i : Nat) : Nat := 0x00200018 + i * 0x100
def SYNC_EXC.LIST_FULL (i : Nat) : Fld := ⟨SYNC_EXC.off i, 0, 16⟩
def SYNC_EXC.TAG_FULL (i : Nat) : Fld := ⟨SYNC_EXC.off i, 16, 16⟩
def SYNC_EXC.SATURATIONS (i : Nat) : Fld := ⟨SYNC_EXC.off i, 32, 16⟩
def SYNC_EXC.FOREIGN_UNLOCK (i : Nat) : Fld := ⟨SYNC_EXC.off i, 48, 16⟩
def SYNC_EXC.row : RegRow := ⟨2097176, 2, 1, 256, 0, 1, 0, 0x0, 0x0, 0xFFFFFFFFFFFFFFFF, 0x0, 0x0, .dev⟩

/-! SYNC_MISC (Sesame store registers) -/
def SYNC_MISC.off (i : Nat) : Nat := 0x00200020 + i * 0x100
def SYNC_MISC.TIMEOUTS (i : Nat) : Fld := ⟨SYNC_MISC.off i, 0, 32⟩
def SYNC_MISC.ORPHANED (i : Nat) : Fld := ⟨SYNC_MISC.off i, 32, 16⟩
def SYNC_MISC.row : RegRow := ⟨2097184, 2, 1, 256, 0, 1, 0, 0x0, 0x0, 0xFFFFFFFFFFFF, 0x0, 0x0, .dev⟩

/-! SYNC_OWN (Sesame ownership registers) -/
def SYNC_OWN.off (i : Nat) : Nat := 0x00201000 + i * 0x8
def SYNC_OWN.OWNER (i : Nat) : Fld := ⟨SYNC_OWN.off i, 0, 5⟩
def SYNC_OWN.row : RegRow := ⟨2101248, 64, 1, 8, 0, 1, 0, 0x0, 0x0, 0x0, 0x0, 0x1F, .none⟩

/-! SYNC_HANDOVER (Sesame ownership registers) -/
def SYNC_HANDOVER.off : Nat := 0x00201200
def SYNC_HANDOVER.BLOCK : Fld := ⟨SYNC_HANDOVER.off, 0, 6⟩
def SYNC_HANDOVER.NEW_OWNER : Fld := ⟨SYNC_HANDOVER.off, 6, 5⟩
def SYNC_HANDOVER.row : RegRow := ⟨2101760, 1, 1, 0, 0, 1, 0, 0x0, 0x0, 0x0, 0x7FF, 0x0, .dev⟩

/-! SYNC_HANDOVER_STATUS (Sesame ownership registers) -/
def SYNC_HANDOVER_STATUS.off : Nat := 0x00201208
def SYNC_HANDOVER_STATUS.RESULT : Fld := ⟨SYNC_HANDOVER_STATUS.off, 0, 2⟩
def SYNC_HANDOVER_STATUS.ZEROED : Fld := ⟨SYNC_HANDOVER_STATUS.off, 2, 1⟩
def SYNC_HANDOVER_STATUS.SEQ : Fld := ⟨SYNC_HANDOVER_STATUS.off, 16, 16⟩
def SYNC_HANDOVER_STATUS.row : RegRow := ⟨2101768, 1, 1, 0, 0, 1, 0, 0x0, 0x0, 0x0, 0x0, 0x0, .none⟩

/-! DMA_STATUS (DMA engine registers) -/
def DMA_STATUS.off (i : Nat) : Nat := 0x00400000 + i * 0x1000
def DMA_STATUS.QUEUE (i : Nat) : Fld := ⟨DMA_STATUS.off i, 0, 5⟩
def DMA_STATUS.STATE (i : Nat) : Fld := ⟨DMA_STATUS.off i, 5, 3⟩
def DMA_STATUS.row : RegRow := ⟨4194304, 64, 1, 4096, 0, 1, 0, 0x0, 0x0, 0x0, 0x0, 0x0, .dev⟩

/-! DMA_CURRENT (DMA engine registers) -/
def DMA_CURRENT.off (i : Nat) : Nat := 0x00400008 + i * 0x1000
def DMA_CURRENT.ADDR (i : Nat) : Fld := ⟨DMA_CURRENT.off i, 0, 64⟩
def DMA_CURRENT.row : RegRow := ⟨4194312, 64, 1, 4096, 0, 1, 0, 0x0, 0x0, 0x0, 0x0, 0x0, .dev⟩

/-! DMA_BYTES (DMA engine registers) -/
def DMA_BYTES.off (i : Nat) : Nat := 0x00400010 + i * 0x1000
def DMA_BYTES.COUNT (i : Nat) : Fld := ⟨DMA_BYTES.off i, 0, 64⟩
def DMA_BYTES.row : RegRow := ⟨4194320, 64, 1, 4096, 0, 1, 0, 0x0, 0x0, 0x0, 0x0, 0x0, .dev⟩

/-! DMA_ENDS (DMA engine registers) -/
def DMA_ENDS.off (i : Nat) : Nat := 0x00400018 + i * 0x1000
def DMA_ENDS.FAULTED (i : Nat) : Fld := ⟨DMA_ENDS.off i, 0, 16⟩
def DMA_ENDS.ABORTED (i : Nat) : Fld := ⟨DMA_ENDS.off i, 16, 16⟩
def DMA_ENDS.POISONED (i : Nat) : Fld := ⟨DMA_ENDS.off i, 32, 16⟩
def DMA_ENDS.row : RegRow := ⟨4194328, 64, 1, 4096, 0, 1, 0, 0x0, 0x0, 0xFFFFFFFFFFFF, 0x0, 0x0, .dev⟩

/-! RT_CTL (Range translation registers) -/
def RT_CTL.off : Nat := 0x00600000
def RT_CTL.TIMEOUT_MS : Fld := ⟨RT_CTL.off, 0, 24⟩
def RT_CTL.row : RegRow := ⟨6291456, 1, 1, 0, 0, 1, 0, 0xFFFFFF, 0x0, 0x0, 0x0, 0x64, .dev⟩

/-! RT_STATUS (Range translation registers) -/
def RT_STATUS.off : Nat := 0x00600008
def RT_STATUS.PENDING : Fld := ⟨RT_STATUS.off, 0, 9⟩
def RT_STATUS.ENTRIES : Fld := ⟨RT_STATUS.off, 9, 13⟩
def RT_STATUS.PINNED : Fld := ⟨RT_STATUS.off, 22, 11⟩
def RT_STATUS.row : RegRow := ⟨6291464, 1, 1, 0, 0, 1, 0, 0x0, 0x0, 0x0, 0x0, 0x0, .none⟩

/-! RT_STATS (Range translation registers) -/
def RT_STATS.off : Nat := 0x00600010
def RT_STATS.RING_FULL : Fld := ⟨RT_STATS.off, 0, 16⟩
def RT_STATS.TIMEOUTS : Fld := ⟨RT_STATS.off, 16, 16⟩
def RT_STATS.STALE : Fld := ⟨RT_STATS.off, 32, 16⟩
def RT_STATS.PIN_REFUSED : Fld := ⟨RT_STATS.off, 48, 16⟩
def RT_STATS.row : RegRow := ⟨6291472, 1, 1, 0, 0, 1, 0, 0x0, 0x0, 0xFFFFFFFFFFFFFFFF, 0x0, 0x0, .dev⟩

/-! RT_RING_BASE (Range translation registers) -/
def RT_RING_BASE.off (i : Nat) : Nat := 0x00601000 + i * 0x100
def RT_RING_BASE.ADDR (i : Nat) : Fld := ⟨RT_RING_BASE.off i, 0, 64⟩
def RT_RING_BASE.row : RegRow := ⟨6295552, 32, 1, 256, 0, 1, 0, 0xFFFFFFFFFFFFFFFF, 0x0, 0x0, 0x0, 0x0, .own⟩

/-! RT_RING_CTL (Range translation registers) -/
def RT_RING_CTL.off (i : Nat) : Nat := 0x00601008 + i * 0x100
def RT_RING_CTL.SIZE (i : Nat) : Fld := ⟨RT_RING_CTL.off i, 0, 5⟩
def RT_RING_CTL.ENABLE (i : Nat) : Fld := ⟨RT_RING_CTL.off i, 5, 1⟩
def RT_RING_CTL.VECTOR (i : Nat) : Fld := ⟨RT_RING_CTL.off i, 6, 11⟩
def RT_RING_CTL.row : RegRow := ⟨6295560, 32, 1, 256, 0, 1, 0, 0x1FFFF, 0x0, 0x0, 0x0, 0x4, .own⟩

/-! RT_RING_PROD (Range translation registers) -/
def RT_RING_PROD.off (i : Nat) : Nat := 0x00601010 + i * 0x100
def RT_RING_PROD.PROD (i : Nat) : Fld := ⟨RT_RING_PROD.off i, 0, 32⟩
def RT_RING_PROD.row : RegRow := ⟨6295568, 32, 1, 256, 0, 1, 0, 0x0, 0x0, 0x0, 0x0, 0x0, .own⟩

/-! RT_RING_CONS (Range translation registers) -/
def RT_RING_CONS.off (i : Nat) : Nat := 0x00601018 + i * 0x100
def RT_RING_CONS.CONS (i : Nat) : Fld := ⟨RT_RING_CONS.off i, 0, 32⟩
def RT_RING_CONS.row : RegRow := ⟨6295576, 32, 1, 256, 0, 1, 0, 0xFFFFFFFF, 0x0, 0x0, 0x0, 0x0, .own⟩

/-! RT_REPLY_STATUS (Range translation registers) -/
def RT_REPLY_STATUS.off (i : Nat) : Nat := 0x00601040 + i * 0x100
def RT_REPLY_STATUS.RESULT (i : Nat) : Fld := ⟨RT_REPLY_STATUS.off i, 0, 3⟩
def RT_REPLY_STATUS.SEQ (i : Nat) : Fld := ⟨RT_REPLY_STATUS.off i, 16, 16⟩
def RT_REPLY_STATUS.row : RegRow := ⟨6295616, 32, 1, 256, 0, 1, 0, 0x0, 0x0, 0x0, 0x0, 0x0, .own⟩

/-! RT_INVAL (Range translation registers) -/
def RT_INVAL.off (i : Nat) : Nat := 0x00601048 + i * 0x100
def RT_INVAL.ASID (i : Nat) : Fld := ⟨RT_INVAL.off i, 0, 16⟩
def RT_INVAL.row : RegRow := ⟨6295624, 32, 1, 256, 0, 1, 0, 0x0, 0x0, 0x0, 0xFFFF, 0x0, .own⟩

/-! RT_INVAL_STATUS (Range translation registers) -/
def RT_INVAL_STATUS.off (i : Nat) : Nat := 0x00601050 + i * 0x100
def RT_INVAL_STATUS.BUSY (i : Nat) : Fld := ⟨RT_INVAL_STATUS.off i, 0, 1⟩
def RT_INVAL_STATUS.SEQ (i : Nat) : Fld := ⟨RT_INVAL_STATUS.off i, 16, 16⟩
def RT_INVAL_STATUS.row : RegRow := ⟨6295632, 32, 1, 256, 0, 1, 0, 0x0, 0x0, 0x0, 0x0, 0x0, .own⟩

/-! RT_REPLY (Range translation registers) -/
def RT_REPLY.off (i : Nat) (j : Nat) : Nat := 0x00601020 + i * 0x100 + j * 0x8
def RT_REPLY.WORD (i : Nat) (j : Nat) : Fld := ⟨RT_REPLY.off i j, 0, 64⟩
def RT_REPLY.row : RegRow := ⟨6295584, 32, 1, 256, 0, 4, 8, 0x0, 0x0, 0x0, 0xFFFFFFFFFFFFFFFF, 0x0, .own⟩

/-! RT_ASID (Range translation registers) -/
def RT_ASID.off (i : Nat) : Nat := 0x00680000 + i * 0x8
def RT_ASID.FUNC (i : Nat) : Fld := ⟨RT_ASID.off i, 0, 5⟩
def RT_ASID.PART (i : Nat) : Fld := ⟨RT_ASID.off i, 5, 5⟩
def RT_ASID.VALID (i : Nat) : Fld := ⟨RT_ASID.off i, 10, 1⟩
def RT_ASID.row : RegRow := ⟨6815744, 65536, 1, 8, 0, 1, 0, 0x7FF, 0x0, 0x0, 0x0, 0x3E0, .dev⟩

/-! QUEUE_CFG (Per-queue registers) -/
def QUEUE_CFG.off (i : Nat) : Nat := 0x00100000 + i * 0x40
def QUEUE_CFG.FUNC (i : Nat) : Fld := ⟨QUEUE_CFG.off i, 0, 5⟩
def QUEUE_CFG.PART (i : Nat) : Fld := ⟨QUEUE_CFG.off i, 5, 5⟩
def QUEUE_CFG.KERNEL (i : Nat) : Fld := ⟨QUEUE_CFG.off i, 10, 1⟩
def QUEUE_CFG.PRIO (i : Nat) : Fld := ⟨QUEUE_CFG.off i, 11, 2⟩
def QUEUE_CFG.CONT_EXEC (i : Nat) : Fld := ⟨QUEUE_CFG.off i, 13, 1⟩
def QUEUE_CFG.ASID (i : Nat) : Fld := ⟨QUEUE_CFG.off i, 14, 16⟩
def QUEUE_CFG.row : RegRow := ⟨1048576, 4096, 1, 64, 0, 1, 0, 0x3FFFFFFF, 0x0, 0x0, 0x0, 0x3E0, .dev⟩

/-! QUEUE_RING (Per-queue registers) -/
def QUEUE_RING.off (i : Nat) : Nat := 0x00100008 + i * 0x40
def QUEUE_RING.SIZE (i : Nat) : Fld := ⟨QUEUE_RING.off i, 0, 5⟩
def QUEUE_RING.DEVICE (i : Nat) : Fld := ⟨QUEUE_RING.off i, 5, 1⟩
def QUEUE_RING.BASE (i : Nat) : Fld := ⟨QUEUE_RING.off i, 12, 52⟩
def QUEUE_RING.row : RegRow := ⟨1048584, 4096, 1, 64, 0, 1, 0, 0xFFFFFFFFFFFFF03F, 0x0, 0x0, 0x0, 0x4, .queue⟩

/-! QUEUE_COMPL (Per-queue registers) -/
def QUEUE_COMPL.off (i : Nat) : Nat := 0x00100010 + i * 0x40
def QUEUE_COMPL.ADDR (i : Nat) : Fld := ⟨QUEUE_COMPL.off i, 3, 61⟩
def QUEUE_COMPL.row : RegRow := ⟨1048592, 4096, 1, 64, 0, 1, 0, 0xFFFFFFFFFFFFFFF8, 0x0, 0x0, 0x0, 0x0, .queue⟩

/-! QUEUE_CTL (Per-queue registers) -/
def QUEUE_CTL.off (i : Nat) : Nat := 0x00100018 + i * 0x40
def QUEUE_CTL.ENABLE (i : Nat) : Fld := ⟨QUEUE_CTL.off i, 0, 1⟩
def QUEUE_CTL.RESUME (i : Nat) : Fld := ⟨QUEUE_CTL.off i, 1, 1⟩
def QUEUE_CTL.NEXT_SEQ (i : Nat) : Fld := ⟨QUEUE_CTL.off i, 16, 16⟩
def QUEUE_CTL.HEAD (i : Nat) : Fld := ⟨QUEUE_CTL.off i, 32, 32⟩
def QUEUE_CTL.row : RegRow := ⟨1048600, 4096, 1, 64, 0, 1, 0, 0x1, 0x0, 0x0, 0xFFFFFFFFFFFF0002, 0x0, .queue⟩

/-! QUEUE_STATUS (Per-queue registers) -/
def QUEUE_STATUS.off (i : Nat) : Nat := 0x00100020 + i * 0x40
def QUEUE_STATUS.STATE (i : Nat) : Fld := ⟨QUEUE_STATUS.off i, 0, 3⟩
def QUEUE_STATUS.DB_PENDING (i : Nat) : Fld := ⟨QUEUE_STATUS.off i, 3, 1⟩
def QUEUE_STATUS.ENABLE_RESULT (i : Nat) : Fld := ⟨QUEUE_STATUS.off i, 4, 2⟩
def QUEUE_STATUS.ACTIVE (i : Nat) : Fld := ⟨QUEUE_STATUS.off i, 6, 10⟩
def QUEUE_STATUS.NEXT_SEQ (i : Nat) : Fld := ⟨QUEUE_STATUS.off i, 16, 16⟩
def QUEUE_STATUS.HEAD (i : Nat) : Fld := ⟨QUEUE_STATUS.off i, 32, 32⟩
def QUEUE_STATUS.row : RegRow := ⟨1048608, 4096, 1, 64, 0, 1, 0, 0x0, 0x0, 0x0, 0x0, 0x0, .none⟩

/-! QUEUE_TAIL (Per-queue registers) -/
def QUEUE_TAIL.off (i : Nat) : Nat := 0x00100028 + i * 0x40
def QUEUE_TAIL.TAIL (i : Nat) : Fld := ⟨QUEUE_TAIL.off i, 0, 32⟩
def QUEUE_TAIL.DONE_SEQ (i : Nat) : Fld := ⟨QUEUE_TAIL.off i, 32, 16⟩
def QUEUE_TAIL.row : RegRow := ⟨1048616, 4096, 1, 64, 0, 1, 0, 0x0, 0x0, 0x0, 0x0, 0x0, .none⟩

/-! QUEUE_ABORT (Per-queue registers) -/
def QUEUE_ABORT.off (i : Nat) : Nat := 0x00100030 + i * 0x40
def QUEUE_ABORT.SEQ (i : Nat) : Fld := ⟨QUEUE_ABORT.off i, 0, 16⟩
def QUEUE_ABORT.row : RegRow := ⟨1048624, 4096, 1, 64, 0, 1, 0, 0x0, 0x0, 0x0, 0xFFFF, 0x0, .queue⟩

/-! QUEUE_ABORT_STATUS (Per-queue registers) -/
def QUEUE_ABORT_STATUS.off (i : Nat) : Nat := 0x00100038 + i * 0x40
def QUEUE_ABORT_STATUS.RESULT (i : Nat) : Fld := ⟨QUEUE_ABORT_STATUS.off i, 0, 2⟩
def QUEUE_ABORT_STATUS.SEQ (i : Nat) : Fld := ⟨QUEUE_ABORT_STATUS.off i, 16, 16⟩
def QUEUE_ABORT_STATUS.PROGRESS (i : Nat) : Fld := ⟨QUEUE_ABORT_STATUS.off i, 32, 32⟩
def QUEUE_ABORT_STATUS.row : RegRow := ⟨1048632, 4096, 1, 64, 0, 1, 0, 0x0, 0x0, 0x0, 0x0, 0x0, .none⟩

/-! FE_STATUS (Front-end, fault-ring and graph registers) -/
def FE_STATUS.off : Nat := 0x00180000
def FE_STATUS.CONTEXTS : Fld := ⟨FE_STATUS.off, 0, 10⟩
def FE_STATUS.GRAPH_LAUNCHES : Fld := ⟨FE_STATUS.off, 10, 9⟩
def FE_STATUS.row : RegRow := ⟨1572864, 1, 1, 0, 0, 1, 0, 0x0, 0x0, 0x0, 0x0, 0x0, .none⟩

/-! FE_STATS (Front-end, fault-ring and graph registers) -/
def FE_STATS.off : Nat := 0x00180008
def FE_STATS.DB_FOREIGN : Fld := ⟨FE_STATS.off, 0, 16⟩
def FE_STATS.FAULT_LOST : Fld := ⟨FE_STATS.off, 16, 16⟩
def FE_STATS.EMPTY_VISITS : Fld := ⟨FE_STATS.off, 32, 32⟩
def FE_STATS.row : RegRow := ⟨1572872, 1, 1, 0, 0, 1, 0, 0x0, 0x0, 0xFFFFFFFFFFFFFFFF, 0x0, 0x0, .dev⟩

/-! FE_POOL_BASE (Front-end, fault-ring and graph registers) -/
def FE_POOL_BASE.off : Nat := 0x00180010
def FE_POOL_BASE.BASE : Fld := ⟨FE_POOL_BASE.off, 12, 52⟩
def FE_POOL_BASE.row : RegRow := ⟨1572880, 1, 1, 0, 0, 1, 0, 0xFFFFFFFFFFFFF000, 0x0, 0x0, 0x0, 0x0, .dev⟩

/-! FE_POOL_SIZE (Front-end, fault-ring and graph registers) -/
def FE_POOL_SIZE.off : Nat := 0x00180018
def FE_POOL_SIZE.SIZE : Fld := ⟨FE_POOL_SIZE.off, 12, 28⟩
def FE_POOL_SIZE.row : RegRow := ⟨1572888, 1, 1, 0, 0, 1, 0, 0xFFFFFFF000, 0x0, 0x0, 0x0, 0x0, .dev⟩

/-! FE_FAULT_BASE (Front-end, fault-ring and graph registers) -/
def FE_FAULT_BASE.off (i : Nat) : Nat := 0x00181000 + i * 0x20
def FE_FAULT_BASE.BASE (i : Nat) : Fld := ⟨FE_FAULT_BASE.off i, 12, 52⟩
def FE_FAULT_BASE.row : RegRow := ⟨1576960, 32, 1, 32, 0, 1, 0, 0xFFFFFFFFFFFFF000, 0x0, 0x0, 0x0, 0x0, .own⟩

/-! FE_FAULT_CTL (Front-end, fault-ring and graph registers) -/
def FE_FAULT_CTL.off (i : Nat) : Nat := 0x00181008 + i * 0x20
def FE_FAULT_CTL.SIZE (i : Nat) : Fld := ⟨FE_FAULT_CTL.off i, 0, 5⟩
def FE_FAULT_CTL.ENABLE (i : Nat) : Fld := ⟨FE_FAULT_CTL.off i, 5, 1⟩
def FE_FAULT_CTL.DEVICE (i : Nat) : Fld := ⟨FE_FAULT_CTL.off i, 6, 1⟩
def FE_FAULT_CTL.row : RegRow := ⟨1576968, 32, 1, 32, 0, 1, 0, 0x7F, 0x0, 0x0, 0x0, 0x2, .own⟩

/-! FE_FAULT_PROD (Front-end, fault-ring and graph registers) -/
def FE_FAULT_PROD.off (i : Nat) : Nat := 0x00181010 + i * 0x20
def FE_FAULT_PROD.PROD (i : Nat) : Fld := ⟨FE_FAULT_PROD.off i, 0, 32⟩
def FE_FAULT_PROD.row : RegRow := ⟨1576976, 32, 1, 32, 0, 1, 0, 0x0, 0x0, 0x0, 0x0, 0x0, .own⟩

/-! FE_FAULT_CONS (Front-end, fault-ring and graph registers) -/
def FE_FAULT_CONS.off (i : Nat) : Nat := 0x00181018 + i * 0x20
def FE_FAULT_CONS.CONS (i : Nat) : Fld := ⟨FE_FAULT_CONS.off i, 0, 32⟩
def FE_FAULT_CONS.row : RegRow := ⟨1576984, 32, 1, 32, 0, 1, 0, 0xFFFFFFFF, 0x0, 0x0, 0x0, 0x0, .own⟩

/-! GRAPH_OWNER (Front-end, fault-ring and graph registers) -/
def GRAPH_OWNER.off (i : Nat) : Nat := 0x00190000 + i * 0x8
def GRAPH_OWNER.PART (i : Nat) : Fld := ⟨GRAPH_OWNER.off i, 0, 5⟩
def GRAPH_OWNER.row : RegRow := ⟨1638400, 1024, 1, 8, 0, 1, 0, 0x1F, 0x0, 0x0, 0x0, 0x1F, .dev⟩

/-! GRAPH_INFO (Front-end, fault-ring and graph registers) -/
def GRAPH_INFO.off (i : Nat) : Nat := 0x00192000 + i * 0x8
def GRAPH_INFO.VERSION (i : Nat) : Fld := ⟨GRAPH_INFO.off i, 0, 32⟩
def GRAPH_INFO.NODES (i : Nat) : Fld := ⟨GRAPH_INFO.off i, 32, 17⟩
def GRAPH_INFO.PINNED (i : Nat) : Fld := ⟨GRAPH_INFO.off i, 49, 9⟩
def GRAPH_INFO.row : RegRow := ⟨1646592, 1024, 1, 8, 0, 1, 0, 0x0, 0x0, 0x0, 0x0, 0x0, .none⟩

/-! EVQ_DATA (Event FIFO registers) -/
def EVQ_DATA.off (i : Nat) : Nat := 0x02800000 + i * 0x100
def EVQ_DATA.WORD (i : Nat) : Fld := ⟨EVQ_DATA.off i, 0, 64⟩
def EVQ_DATA.row : RegRow := ⟨41943040, 35, 1, 256, 0, 1, 0, 0x0, 0x0, 0x0, 0x0, 0x0, .reader⟩

/-! EVQ_STATUS (Event FIFO registers) -/
def EVQ_STATUS.off (i : Nat) : Nat := 0x02800008 + i * 0x100
def EVQ_STATUS.WORDS (i : Nat) : Fld := ⟨EVQ_STATUS.off i, 0, 17⟩
def EVQ_STATUS.PKTS (i : Nat) : Fld := ⟨EVQ_STATUS.off i, 17, 17⟩
def EVQ_STATUS.LAST_END (i : Nat) : Fld := ⟨EVQ_STATUS.off i, 34, 1⟩
def EVQ_STATUS.UNDERRUN (i : Nat) : Fld := ⟨EVQ_STATUS.off i, 35, 1⟩
def EVQ_STATUS.WORD_ERR (i : Nat) : Fld := ⟨EVQ_STATUS.off i, 36, 1⟩
def EVQ_STATUS.row : RegRow := ⟨41943048, 35, 1, 256, 0, 1, 0, 0x0, 0x1800000000, 0x0, 0x0, 0x0, .reader⟩

/-! EVQ_LOST (Event FIFO registers) -/
def EVQ_LOST.off (i : Nat) : Nat := 0x02800010 + i * 0x100
def EVQ_LOST.COUNT (i : Nat) : Fld := ⟨EVQ_LOST.off i, 0, 32⟩
def EVQ_LOST.row : RegRow := ⟨41943056, 35, 1, 256, 0, 1, 0, 0x0, 0x0, 0xFFFFFFFF, 0x0, 0x0, .reader⟩

/-! EVQ_CTL (Event FIFO registers) -/
def EVQ_CTL.off (i : Nat) : Nat := 0x02800018 + i * 0x100
def EVQ_CTL.VECTOR (i : Nat) : Fld := ⟨EVQ_CTL.off i, 0, 11⟩
def EVQ_CTL.IRQ_EN (i : Nat) : Fld := ⟨EVQ_CTL.off i, 11, 1⟩
def EVQ_CTL.REARM (i : Nat) : Fld := ⟨EVQ_CTL.off i, 12, 1⟩
def EVQ_CTL.FLUSH (i : Nat) : Fld := ⟨EVQ_CTL.off i, 13, 1⟩
def EVQ_CTL.THRESH (i : Nat) : Fld := ⟨EVQ_CTL.off i, 14, 17⟩
def EVQ_CTL.row : RegRow := ⟨41943064, 35, 1, 256, 0, 1, 0, 0x7FFFCFFF, 0x0, 0x0, 0x3000, 0x0, .reader⟩

/-! EVQ_CFG (Event FIFO registers) -/
def EVQ_CFG.off (i : Nat) : Nat := 0x02800020 + i * 0x100
def EVQ_CFG.PART_MASK (i : Nat) : Fld := ⟨EVQ_CFG.off i, 0, 16⟩
def EVQ_CFG.row : RegRow := ⟨41943072, 35, 1, 256, 0, 1, 0, 0xFFFF, 0x0, 0x0, 0x0, 0x0, .dev⟩

/-! EVQ_INFO (Event FIFO registers) -/
def EVQ_INFO.off (i : Nat) : Nat := 0x02800028 + i * 0x100
def EVQ_INFO.CAPACITY (i : Nat) : Fld := ⟨EVQ_INFO.off i, 0, 17⟩
def EVQ_INFO.ORG (i : Nat) : Fld := ⟨EVQ_INFO.off i, 17, 1⟩
def EVQ_INFO.PTR_RESETS (i : Nat) : Fld := ⟨EVQ_INFO.off i, 32, 16⟩
def EVQ_INFO.row : RegRow := ⟨41943080, 35, 1, 256, 0, 1, 0, 0x0, 0x0, 0xFFFF00000000, 0x0, 0x0, .reader⟩

/-! PHY_CFG (Port registers) -/
def PHY_CFG.off (i : Nat) : Nat := 0x01000000 + i * 0x10000
def PHY_CFG.BREAKOUT (i : Nat) : Fld := ⟨PHY_CFG.off i, 0, 2⟩
def PHY_CFG.AN_EN (i : Nat) : Fld := ⟨PHY_CFG.off i, 2, 1⟩
def PHY_CFG.row : RegRow := ⟨16777216, 48, 1, 65536, 0, 1, 0, 0x7, 0x0, 0x0, 0x0, 0x4, .dev⟩

/-! PHY_STATUS (Port registers) -/
def PHY_STATUS.off (i : Nat) : Nat := 0x01000008 + i * 0x10000
def PHY_STATUS.LANE_LOCK (i : Nat) : Fld := ⟨PHY_STATUS.off i, 0, 4⟩
def PHY_STATUS.row : RegRow := ⟨16777224, 48, 1, 65536, 0, 1, 0, 0x0, 0x0, 0x0, 0x0, 0x0, .none⟩

/-! LP_CFG (Port registers) -/
def LP_CFG.off (i : Nat) : Nat := 0x01000100 + i / 4 * 0x10000 + i % 4 * 0x100
def LP_CFG.ENABLE (i : Nat) : Fld := ⟨LP_CFG.off i, 0, 1⟩
def LP_CFG.PFC_EN (i : Nat) : Fld := ⟨LP_CFG.off i, 1, 1⟩
def LP_CFG.PRIO_DATA (i : Nat) : Fld := ⟨LP_CFG.off i, 2, 3⟩
def LP_CFG.PRIO_CTL (i : Nat) : Fld := ⟨LP_CFG.off i, 5, 3⟩
def LP_CFG.VLAN_EN (i : Nat) : Fld := ⟨LP_CFG.off i, 8, 1⟩
def LP_CFG.VID (i : Nat) : Fld := ⟨LP_CFG.off i, 9, 12⟩
def LP_CFG.DSCP (i : Nat) : Fld := ⟨LP_CFG.off i, 21, 6⟩
def LP_CFG.DIRECT (i : Nat) : Fld := ⟨LP_CFG.off i, 27, 1⟩
def LP_CFG.row : RegRow := ⟨16777472, 192, 4, 65536, 256, 1, 0, 0xFFFFFFF, 0x0, 0x0, 0x0, 0xCC, .dev⟩

/-! LP_STATUS (Port registers) -/
def LP_STATUS.off (i : Nat) : Nat := 0x01000108 + i / 4 * 0x10000 + i % 4 * 0x100
def LP_STATUS.LINK_UP (i : Nat) : Fld := ⟨LP_STATUS.off i, 0, 1⟩
def LP_STATUS.NBR_KIND (i : Nat) : Fld := ⟨LP_STATUS.off i, 1, 2⟩
def LP_STATUS.NBR_ID (i : Nat) : Fld := ⟨LP_STATUS.off i, 3, 20⟩
def LP_STATUS.ID_CONFLICT (i : Nat) : Fld := ⟨LP_STATUS.off i, 23, 1⟩
def LP_STATUS.row : RegRow := ⟨16777480, 192, 4, 65536, 256, 1, 0, 0x0, 0x0, 0x0, 0x0, 0x0, .dev⟩

/-! LP_MAC (Port registers) -/
def LP_MAC.off (i : Nat) : Nat := 0x01000110 + i / 4 * 0x10000 + i % 4 * 0x100
def LP_MAC.MAC (i : Nat) : Fld := ⟨LP_MAC.off i, 0, 48⟩
def LP_MAC.row : RegRow := ⟨16777488, 192, 4, 65536, 256, 1, 0, 0xFFFFFFFFFFFF, 0x0, 0x0, 0x0, 0x0, .dev⟩

/-! LP_NEXTHOP (Port registers) -/
def LP_NEXTHOP.off (i : Nat) : Nat := 0x01000118 + i / 4 * 0x10000 + i % 4 * 0x100
def LP_NEXTHOP.MAC (i : Nat) : Fld := ⟨LP_NEXTHOP.off i, 0, 48⟩
def LP_NEXTHOP.row : RegRow := ⟨16777496, 192, 4, 65536, 256, 1, 0, 0xFFFFFFFFFFFF, 0x0, 0x0, 0x0, 0x0, .dev⟩

/-! LP_FEC (Port registers) -/
def LP_FEC.off (i : Nat) : Nat := 0x01000120 + i / 4 * 0x10000 + i % 4 * 0x100
def LP_FEC.CORRECTED (i : Nat) : Fld := ⟨LP_FEC.off i, 0, 32⟩
def LP_FEC.UNCORRECTABLE (i : Nat) : Fld := ⟨LP_FEC.off i, 32, 32⟩
def LP_FEC.row : RegRow := ⟨16777504, 192, 4, 65536, 256, 1, 0, 0x0, 0x0, 0xFFFFFFFFFFFFFFFF, 0x0, 0x0, .dev⟩

/-! LP_ERRS (Port registers) -/
def LP_ERRS.off (i : Nat) : Nat := 0x01000128 + i / 4 * 0x10000 + i % 4 * 0x100
def LP_ERRS.FCS (i : Nat) : Fld := ⟨LP_ERRS.off i, 0, 32⟩
def LP_ERRS.PAUSED (i : Nat) : Fld := ⟨LP_ERRS.off i, 32, 32⟩
def LP_ERRS.row : RegRow := ⟨16777512, 192, 4, 65536, 256, 1, 0, 0x0, 0x0, 0xFFFFFFFFFFFFFFFF, 0x0, 0x0, .dev⟩

/-! LP_NEIGHBOUR (Port registers) -/
def LP_NEIGHBOUR.off (i : Nat) (j : Nat) : Nat := 0x01000130 + i / 4 * 0x10000 + i % 4 * 0x100 + j * 0x8
def LP_NEIGHBOUR.CHASSIS (i : Nat) (j : Nat) : Fld := ⟨LP_NEIGHBOUR.off i j, 0, 64⟩
def LP_NEIGHBOUR.PORT (i : Nat) (j : Nat) : Fld := ⟨LP_NEIGHBOUR.off i j, 0, 64⟩
def LP_NEIGHBOUR.CHASSIS_LEN (i : Nat) (j : Nat) : Fld := ⟨LP_NEIGHBOUR.off i j, 0, 8⟩
def LP_NEIGHBOUR.CHASSIS_SUBTYPE (i : Nat) (j : Nat) : Fld := ⟨LP_NEIGHBOUR.off i j, 8, 8⟩
def LP_NEIGHBOUR.PORT_LEN (i : Nat) (j : Nat) : Fld := ⟨LP_NEIGHBOUR.off i j, 16, 8⟩
def LP_NEIGHBOUR.PORT_SUBTYPE (i : Nat) (j : Nat) : Fld := ⟨LP_NEIGHBOUR.off i j, 24, 8⟩
def LP_NEIGHBOUR.row : RegRow := ⟨16777520, 192, 4, 65536, 256, 3, 8, 0x0, 0x0, 0x0, 0x0, 0x0, .none⟩

/-! FAB_ID (Fabric-wide registers) -/
def FAB_ID.off : Nat := 0x01008000
def FAB_ID.ID : Fld := ⟨FAB_ID.off, 0, 20⟩
def FAB_ID.row : RegRow := ⟨16809984, 1, 1, 0, 0, 1, 0, 0xFFFFF, 0x0, 0x0, 0x0, 0x0, .dev⟩

/-! FAB_CTL (Fabric-wide registers) -/
def FAB_CTL.off : Nat := 0x01008008
def FAB_CTL.ENABLE : Fld := ⟨FAB_CTL.off, 0, 1⟩
def FAB_CTL.IPV4 : Fld := ⟨FAB_CTL.off, 1, 1⟩
def FAB_CTL.UDP_PORT : Fld := ⟨FAB_CTL.off, 2, 16⟩
def FAB_CTL.PEER_TIMEOUT_MS : Fld := ⟨FAB_CTL.off, 18, 7⟩
def FAB_CTL.row : RegRow := ⟨16809992, 1, 1, 0, 0, 1, 0, 0x1FFFFFF, 0x0, 0x0, 0x0, 0x1302A0, .dev⟩

/-! FAB_CC (Fabric-wide registers) -/
def FAB_CC.off : Nat := 0x01008020
def FAB_CC.TARGET_DELAY_US : Fld := ⟨FAB_CC.off, 0, 8⟩
def FAB_CC.AI_BYTES : Fld := ⟨FAB_CC.off, 8, 17⟩
def FAB_CC.BETA16 : Fld := ⟨FAB_CC.off, 25, 5⟩
def FAB_CC.RTO_MIN_US : Fld := ⟨FAB_CC.off, 30, 10⟩
def FAB_CC.INIT_CWND : Fld := ⟨FAB_CC.off, 40, 23⟩
def FAB_CC.row : RegRow := ⟨16810016, 1, 1, 0, 0, 1, 0, 0x7FFFFFFFFFFFFFFF, 0x0, 0x0, 0x0, 0x40000041A200005, .dev⟩

/-! FAB_RT_CMD (Fabric-wide registers) -/
def FAB_RT_CMD.off : Nat := 0x01008028
def FAB_RT_CMD.INDEX : Fld := ⟨FAB_RT_CMD.off, 0, 16⟩
def FAB_RT_CMD.WRITE : Fld := ⟨FAB_RT_CMD.off, 16, 1⟩
def FAB_RT_CMD.BUSY : Fld := ⟨FAB_RT_CMD.off, 17, 1⟩
def FAB_RT_CMD.row : RegRow := ⟨16810024, 1, 1, 0, 0, 1, 0, 0x0, 0x0, 0x0, 0x1FFFF, 0x0, .dev⟩

/-! FAB_STATS (Fabric-wide registers) -/
def FAB_STATS.off : Nat := 0x01008040
def FAB_STATS.RETX : Fld := ⟨FAB_STATS.off, 0, 16⟩
def FAB_STATS.DEAD : Fld := ⟨FAB_STATS.off, 16, 16⟩
def FAB_STATS.REFUSED : Fld := ⟨FAB_STATS.off, 32, 16⟩
def FAB_STATS.MALFORMED : Fld := ⟨FAB_STATS.off, 48, 16⟩
def FAB_STATS.row : RegRow := ⟨16810048, 1, 1, 0, 0, 1, 0, 0x0, 0x0, 0xFFFFFFFFFFFFFFFF, 0x0, 0x0, .dev⟩

/-! FAB_BUDDY (Fabric-wide registers) -/
def FAB_BUDDY.off : Nat := 0x01008048
def FAB_BUDDY.BUDDY_ID : Fld := ⟨FAB_BUDDY.off, 0, 20⟩
def FAB_BUDDY.RECOVERY : Fld := ⟨FAB_BUDDY.off, 20, 1⟩
def FAB_BUDDY.OWN_STATE : Fld := ⟨FAB_BUDDY.off, 21, 2⟩
def FAB_BUDDY.BUDDY_STATE : Fld := ⟨FAB_BUDDY.off, 23, 2⟩
def FAB_BUDDY.MIRROR_HELD : Fld := ⟨FAB_BUDDY.off, 25, 1⟩
def FAB_BUDDY.row : RegRow := ⟨16810056, 1, 1, 0, 0, 1, 0, 0x100000, 0x0, 0x0, 0x0, 0x200000, .dev⟩

/-! FAB_COLL_BASE (Fabric-wide registers) -/
def FAB_COLL_BASE.off : Nat := 0x01008050
def FAB_COLL_BASE.BASE : Fld := ⟨FAB_COLL_BASE.off, 12, 52⟩
def FAB_COLL_BASE.row : RegRow := ⟨16810064, 1, 1, 0, 0, 1, 0, 0xFFFFFFFFFFFFF000, 0x0, 0x0, 0x0, 0x0, .dev⟩

/-! FAB_COLL_ARM (Fabric-wide registers) -/
def FAB_COLL_ARM.off : Nat := 0x01008058
def FAB_COLL_ARM.CTX : Fld := ⟨FAB_COLL_ARM.off, 0, 8⟩
def FAB_COLL_ARM.DISARM : Fld := ⟨FAB_COLL_ARM.off, 8, 1⟩
def FAB_COLL_ARM.row : RegRow := ⟨16810072, 1, 1, 0, 0, 1, 0, 0x0, 0x0, 0x0, 0x1FF, 0x0, .dev⟩

/-! FAB_PTP (Fabric-wide registers) -/
def FAB_PTP.off : Nat := 0x01008060
def FAB_PTP.DOMAIN : Fld := ⟨FAB_PTP.off, 0, 8⟩
def FAB_PTP.PORTS : Fld := ⟨FAB_PTP.off, 8, 8⟩
def FAB_PTP.row : RegRow := ⟨16810080, 1, 1, 0, 0, 1, 0, 0xFFFF, 0x0, 0x0, 0x0, 0x0, .dev⟩

/-! FAB_PREFIX (Fabric-wide registers) -/
def FAB_PREFIX.off (j : Nat) : Nat := 0x01008010 + j * 0x8
def FAB_PREFIX.HIGH (j : Nat) : Fld := ⟨FAB_PREFIX.off j, 0, 64⟩
def FAB_PREFIX.row : RegRow := ⟨16810000, 1, 1, 0, 0, 2, 8, 0xFFFFFFFFFFFFFFFF, 0x0, 0x0, 0x0, 0x0, .dev⟩

/-! FAB_RT_DATA (Fabric-wide registers) -/
def FAB_RT_DATA.off (j : Nat) : Nat := 0x01008030 + j * 0x8
def FAB_RT_DATA.DATA (j : Nat) : Fld := ⟨FAB_RT_DATA.off j, 0, 64⟩
def FAB_RT_DATA.row : RegRow := ⟨16810032, 1, 1, 0, 0, 2, 8, 0xFFFFFFFFFFFFFFFF, 0x0, 0x0, 0x0, 0x0, .dev⟩

/-! FAB_PART_TAG (Fabric-wide registers) -/
def FAB_PART_TAG.off (i : Nat) : Nat := 0x01008100 + i * 0x8
def FAB_PART_TAG.TAG (i : Nat) : Fld := ⟨FAB_PART_TAG.off i, 0, 16⟩
def FAB_PART_TAG.row : RegRow := ⟨16810240, 16, 1, 8, 0, 1, 0, 0xFFFF, 0x0, 0x0, 0x0, 0x0, .dev⟩

/-! FAB_TENANT (Fabric-wide registers) -/
def FAB_TENANT.off (i : Nat) : Nat := 0x01008200 + i * 0x8
def FAB_TENANT.TAG (i : Nat) : Fld := ⟨FAB_TENANT.off i, 0, 16⟩
def FAB_TENANT.PART (i : Nat) : Fld := ⟨FAB_TENANT.off i, 16, 5⟩
def FAB_TENANT.VALID (i : Nat) : Fld := ⟨FAB_TENANT.off i, 21, 1⟩
def FAB_TENANT.row : RegRow := ⟨16810496, 64, 1, 8, 0, 1, 0, 0x3FFFFF, 0x0, 0x0, 0x0, 0x1F0000, .dev⟩

/-! COLL_STATUS (Fabric-wide registers) -/
def COLL_STATUS.off (i : Nat) : Nat := 0x01008400 + i * 0x8
def COLL_STATUS.ARM_RESULT (i : Nat) : Fld := ⟨COLL_STATUS.off i, 0, 2⟩
def COLL_STATUS.STOP (i : Nat) : Fld := ⟨COLL_STATUS.off i, 2, 2⟩
def COLL_STATUS.ROUND (i : Nat) : Fld := ⟨COLL_STATUS.off i, 4, 8⟩
def COLL_STATUS.DISCARDS (i : Nat) : Fld := ⟨COLL_STATUS.off i, 12, 16⟩
def COLL_STATUS.row : RegRow := ⟨16811008, 256, 1, 8, 0, 1, 0, 0x0, 0x0, 0xFFFF000, 0x0, 0x0, .dev⟩

/-! GLOBAL_OWNER (GLOBAL_OWNER and GLOBAL_RESET) -/
def GLOBAL_OWNER.off : Nat := 0x00000200
def GLOBAL_OWNER.OWNER : Fld := ⟨GLOBAL_OWNER.off, 0, 2⟩
def GLOBAL_OWNER.CLAIM : Fld := ⟨GLOBAL_OWNER.off, 2, 1⟩
def GLOBAL_OWNER.RELEASE : Fld := ⟨GLOBAL_OWNER.off, 3, 1⟩
def GLOBAL_OWNER.RESULT0 : Fld := ⟨GLOBAL_OWNER.off, 4, 3⟩
def GLOBAL_OWNER.RESULT1 : Fld := ⟨GLOBAL_OWNER.off, 7, 3⟩
def GLOBAL_OWNER.SEQ : Fld := ⟨GLOBAL_OWNER.off, 16, 16⟩
def GLOBAL_OWNER.REFUSED0 : Fld := ⟨GLOBAL_OWNER.off, 32, 16⟩
def GLOBAL_OWNER.REFUSED1 : Fld := ⟨GLOBAL_OWNER.off, 48, 16⟩
def GLOBAL_OWNER.row : RegRow := ⟨512, 1, 1, 0, 0, 1, 0, 0x0, 0x0, 0x0, 0xC, 0x3, .none⟩

/-! GLOBAL_RESET (GLOBAL_OWNER and GLOBAL_RESET) -/
def GLOBAL_RESET.off : Nat := 0x00000208
def GLOBAL_RESET.WARM : Fld := ⟨GLOBAL_RESET.off, 0, 1⟩
def GLOBAL_RESET.row : RegRow := ⟨520, 1, 1, 0, 0, 1, 0, 0x0, 0x0, 0x0, 0x1, 0x0, .dev⟩

/-! HOST_PORT (Per-port and per-function registers in HOST) -/
def HOST_PORT.off (i : Nat) : Nat := 0x01400000 + i * 0x1000
def HOST_PORT.LINK_UP (i : Nat) : Fld := ⟨HOST_PORT.off i, 0, 1⟩
def HOST_PORT.RATE (i : Nat) : Fld := ⟨HOST_PORT.off i, 1, 2⟩
def HOST_PORT.WIDTH (i : Nat) : Fld := ⟨HOST_PORT.off i, 3, 2⟩
def HOST_PORT.row : RegRow := ⟨20971520, 2, 1, 4096, 0, 1, 0, 0x0, 0x0, 0x0, 0x0, 0x0, .none⟩

/-! HOST_WIN (Per-port and per-function registers in HOST) -/
def HOST_WIN.off (i : Nat) : Nat := 0x01400008 + i * 0x1000
def HOST_WIN.ENABLE (i : Nat) : Fld := ⟨HOST_WIN.off i, 0, 1⟩
def HOST_WIN.BASE (i : Nat) : Fld := ⟨HOST_WIN.off i, 40, 24⟩
def HOST_WIN.row : RegRow := ⟨20971528, 2, 1, 4096, 0, 1, 0, 0xFFFFFF0000000001, 0x0, 0x0, 0x0, 0x0, .dev⟩

/-! HOST_FUNC (Per-port and per-function registers in HOST) -/
def HOST_FUNC.off (i : Nat) : Nat := 0x01410000 + i * 0x100
def HOST_FUNC.PART (i : Nat) : Fld := ⟨HOST_FUNC.off i, 0, 5⟩
def HOST_FUNC.BIND_REFUSED (i : Nat) : Fld := ⟨HOST_FUNC.off i, 5, 1⟩
def HOST_FUNC.BAR4_BASE (i : Nat) : Fld := ⟨HOST_FUNC.off i, 30, 34⟩
def HOST_FUNC.row : RegRow := ⟨21037056, 32, 1, 256, 0, 1, 0, 0xFFFFFFFFC000001F, 0x20, 0x0, 0x0, 0x1F, .own⟩

/-! HOST_RESET_LAST (Per-port and per-function registers in HOST) -/
def HOST_RESET_LAST.off (i : Nat) : Nat := 0x01410008 + i * 0x100
def HOST_RESET_LAST.RECORD (i : Nat) : Fld := ⟨HOST_RESET_LAST.off i, 0, 64⟩
def HOST_RESET_LAST.row : RegRow := ⟨21037064, 32, 1, 256, 0, 1, 0, 0x0, 0x0, 0x0, 0x0, 0x0, .none⟩

/-! PART_CTL (Partition registers in GLOBAL) -/
def PART_CTL.off : Nat := 0x00001000
def PART_CTL.OP : Fld := ⟨PART_CTL.off, 0, 2⟩
def PART_CTL.PART : Fld := ⟨PART_CTL.off, 2, 4⟩
def PART_CTL.SECTIONS : Fld := ⟨PART_CTL.off, 6, 16⟩
def PART_CTL.TIMEOUT_US : Fld := ⟨PART_CTL.off, 22, 16⟩
def PART_CTL.row : RegRow := ⟨4096, 1, 1, 0, 0, 1, 0, 0x0, 0x0, 0x0, 0x3FFFFFFFFF, 0x0, .dev⟩

/-! PART_STATUS (Partition registers in GLOBAL) -/
def PART_STATUS.off : Nat := 0x00001008
def PART_STATUS.STATE : Fld := ⟨PART_STATUS.off, 0, 1⟩
def PART_STATUS.RESULT : Fld := ⟨PART_STATUS.off, 1, 3⟩
def PART_STATUS.SEQ : Fld := ⟨PART_STATUS.off, 16, 16⟩
def PART_STATUS.ELAPSED_US : Fld := ⟨PART_STATUS.off, 32, 32⟩
def PART_STATUS.row : RegRow := ⟨4104, 1, 1, 0, 0, 1, 0, 0x0, 0x0, 0x0, 0x0, 0x0, .none⟩

/-! PART_CFG (Partition registers in GLOBAL) -/
def PART_CFG.off (i : Nat) : Nat := 0x00001100 + i * 0x8
def PART_CFG.SECTIONS (i : Nat) : Fld := ⟨PART_CFG.off i, 0, 16⟩
def PART_CFG.STATE (i : Nat) : Fld := ⟨PART_CFG.off i, 16, 2⟩
def PART_CFG.SHARES (i : Nat) : Fld := ⟨PART_CFG.off i, 18, 8⟩
def PART_CFG.row : RegRow := ⟨4352, 16, 1, 8, 0, 1, 0, 0x0, 0x0, 0x0, 0x0, 0x0, .none⟩

/-! SHARE_HANDOVER (Share registers in MEMORY) -/
def SHARE_HANDOVER.off : Nat := 0x00C50000
def SHARE_HANDOVER.FIRST : Fld := ⟨SHARE_HANDOVER.off, 0, 7⟩
def SHARE_HANDOVER.COUNT : Fld := ⟨SHARE_HANDOVER.off, 7, 8⟩
def SHARE_HANDOVER.NEW_OWNER : Fld := ⟨SHARE_HANDOVER.off, 15, 5⟩
def SHARE_HANDOVER.row : RegRow := ⟨12910592, 1, 1, 0, 0, 1, 0, 0x0, 0x0, 0x0, 0xFFFFF, 0x0, .dev⟩

/-! SHARE_HANDOVER_STATUS (Share registers in MEMORY) -/
def SHARE_HANDOVER_STATUS.off : Nat := 0x00C50008
def SHARE_HANDOVER_STATUS.STATE : Fld := ⟨SHARE_HANDOVER_STATUS.off, 0, 2⟩
def SHARE_HANDOVER_STATUS.RESULT : Fld := ⟨SHARE_HANDOVER_STATUS.off, 2, 3⟩
def SHARE_HANDOVER_STATUS.ZEROED : Fld := ⟨SHARE_HANDOVER_STATUS.off, 5, 1⟩
def SHARE_HANDOVER_STATUS.SEQ : Fld := ⟨SHARE_HANDOVER_STATUS.off, 16, 16⟩
def SHARE_HANDOVER_STATUS.ELAPSED_US : Fld := ⟨SHARE_HANDOVER_STATUS.off, 32, 32⟩
def SHARE_HANDOVER_STATUS.row : RegRow := ⟨12910600, 1, 1, 0, 0, 1, 0, 0x0, 0x0, 0x0, 0x0, 0x0, .none⟩

/-! SHARE_OWN (Share registers in MEMORY) -/
def SHARE_OWN.off (i : Nat) : Nat := 0x00C50100 + i * 0x8
def SHARE_OWN.OWNER (i : Nat) : Fld := ⟨SHARE_OWN.off i, 0, 5⟩
def SHARE_OWN.REGION (i : Nat) : Fld := ⟨SHARE_OWN.off i, 5, 4⟩
def SHARE_OWN.CLEAN (i : Nat) : Fld := ⟨SHARE_OWN.off i, 9, 1⟩
def SHARE_OWN.PENDING (i : Nat) : Fld := ⟨SHARE_OWN.off i, 10, 1⟩
def SHARE_OWN.row : RegRow := ⟨12910848, 128, 1, 8, 0, 1, 0, 0x0, 0x0, 0x0, 0x0, 0x1F, .none⟩

/-! CR_CFG (Common-region registers in MEMORY, region r at 0x00C5_1000 + r × 0x20) -/
def CR_CFG.off (i : Nat) : Nat := 0x00C51000 + i * 0x20
def CR_CFG.FIRST (i : Nat) : Fld := ⟨CR_CFG.off i, 0, 7⟩
def CR_CFG.COUNT (i : Nat) : Fld := ⟨CR_CFG.off i, 7, 8⟩
def CR_CFG.OWNER (i : Nat) : Fld := ⟨CR_CFG.off i, 15, 5⟩
def CR_CFG.MIRROR (i : Nat) : Fld := ⟨CR_CFG.off i, 20, 2⟩
def CR_CFG.VALID (i : Nat) : Fld := ⟨CR_CFG.off i, 22, 1⟩
def CR_CFG.row : RegRow := ⟨12914688, 16, 1, 32, 0, 1, 0, 0x7FFFFF, 0x0, 0x0, 0x0, 0x0, .dev⟩

/-! CR_READERS (Common-region registers in MEMORY, region r at 0x00C5_1000 + r × 0x20) -/
def CR_READERS.off (i : Nat) : Nat := 0x00C51008 + i * 0x20
def CR_READERS.MASK (i : Nat) : Fld := ⟨CR_READERS.off i, 0, 16⟩
def CR_READERS.row : RegRow := ⟨12914696, 16, 1, 32, 0, 1, 0, 0xFFFF, 0x0, 0x0, 0x0, 0x0, .dev⟩

/-! CR_MIRROR (Common-region registers in MEMORY, region r at 0x00C5_1000 + r × 0x20) -/
def CR_MIRROR.off (i : Nat) : Nat := 0x00C51010 + i * 0x20
def CR_MIRROR.ADDR (i : Nat) : Fld := ⟨CR_MIRROR.off i, 0, 64⟩
def CR_MIRROR.row : RegRow := ⟨12914704, 16, 1, 32, 0, 1, 0, 0xFFFFFFFFFFFFFFFF, 0x0, 0x0, 0x0, 0x0, .dev⟩

/-! CR_STATUS (Common-region registers in MEMORY, region r at 0x00C5_1000 + r × 0x20) -/
def CR_STATUS.off (i : Nat) : Nat := 0x00C51018 + i * 0x20
def CR_STATUS.RESULT (i : Nat) : Fld := ⟨CR_STATUS.off i, 0, 3⟩
def CR_STATUS.REPAIRED (i : Nat) : Fld := ⟨CR_STATUS.off i, 16, 16⟩
def CR_STATUS.DAMAGED (i : Nat) : Fld := ⟨CR_STATUS.off i, 32, 16⟩
def CR_STATUS.SAME_STACK (i : Nat) : Fld := ⟨CR_STATUS.off i, 48, 16⟩
def CR_STATUS.row : RegRow := ⟨12914712, 16, 1, 32, 0, 1, 0, 0x0, 0x0, 0xFFFFFFFFFFFF0000, 0x0, 0x0, .dev⟩

/-! MGMT_POWER (MGMT registers) -/
def MGMT_POWER.off : Nat := 0x01800000
def MGMT_POWER.HOST_CAP : Fld := ⟨MGMT_POWER.off, 0, 16⟩
def MGMT_POWER.BMC_CAP : Fld := ⟨MGMT_POWER.off, 16, 16⟩
def MGMT_POWER.OVERLAY_CAP : Fld := ⟨MGMT_POWER.off, 32, 16⟩
def MGMT_POWER.EFFECTIVE : Fld := ⟨MGMT_POWER.off, 48, 16⟩
def MGMT_POWER.row : RegRow := ⟨25165824, 1, 1, 0, 0, 1, 0, 0xFFFF, 0x0, 0x0, 0x0, 0x0, .dev⟩

/-! MGMT_POWER_STATUS (MGMT registers) -/
def MGMT_POWER_STATUS.off : Nat := 0x01800008
def MGMT_POWER_STATUS.PACKAGE_W : Fld := ⟨MGMT_POWER_STATUS.off, 0, 16⟩
def MGMT_POWER_STATUS.TARGET_MHZ : Fld := ⟨MGMT_POWER_STATUS.off, 16, 10⟩
def MGMT_POWER_STATUS.UNMET_MS : Fld := ⟨MGMT_POWER_STATUS.off, 26, 32⟩
def MGMT_POWER_STATUS.row : RegRow := ⟨25165832, 1, 1, 0, 0, 1, 0, 0x0, 0x0, 0x3FFFFFFFC000000, 0x0, 0x3200000, .dev⟩

/-! MGMT_BOOT (MGMT registers) -/
def MGMT_BOOT.off : Nat := 0x01800010
def MGMT_BOOT.OVERLAY : Fld := ⟨MGMT_BOOT.off, 0, 4⟩
def MGMT_BOOT.OVERRIDE : Fld := ⟨MGMT_BOOT.off, 4, 1⟩
def MGMT_BOOT.row : RegRow := ⟨25165840, 1, 1, 0, 0, 1, 0, 0x1F, 0x0, 0x0, 0x0, 0x0, .dev⟩

/-! MGMT_MAINT (MGMT registers) -/
def MGMT_MAINT.off : Nat := 0x01800018
def MGMT_MAINT.ENTER : Fld := ⟨MGMT_MAINT.off, 0, 1⟩
def MGMT_MAINT.LEAVE : Fld := ⟨MGMT_MAINT.off, 1, 1⟩
def MGMT_MAINT.ACTIVE : Fld := ⟨MGMT_MAINT.off, 2, 1⟩
def MGMT_MAINT.RESULT : Fld := ⟨MGMT_MAINT.off, 3, 2⟩
def MGMT_MAINT.row : RegRow := ⟨25165848, 1, 1, 0, 0, 1, 0, 0x0, 0x0, 0x0, 0x3, 0x0, .dev⟩

/-! MGMT_STAGE_CTL (MGMT registers) -/
def MGMT_STAGE_CTL.off : Nat := 0x01800020
def MGMT_STAGE_CTL.OP : Fld := ⟨MGMT_STAGE_CTL.off, 0, 2⟩
def MGMT_STAGE_CTL.TARGET : Fld := ⟨MGMT_STAGE_CTL.off, 2, 2⟩
def MGMT_STAGE_CTL.INDEX : Fld := ⟨MGMT_STAGE_CTL.off, 4, 4⟩
def MGMT_STAGE_CTL.PAGE : Fld := ⟨MGMT_STAGE_CTL.off, 8, 6⟩
def MGMT_STAGE_CTL.row : RegRow := ⟨25165856, 1, 1, 0, 0, 1, 0, 0x0, 0x0, 0x0, 0x3FFF, 0x0, .dev⟩

/-! MGMT_STAGE_ADDR (MGMT registers) -/
def MGMT_STAGE_ADDR.off : Nat := 0x01800028
def MGMT_STAGE_ADDR.ADDR : Fld := ⟨MGMT_STAGE_ADDR.off, 0, 64⟩
def MGMT_STAGE_ADDR.row : RegRow := ⟨25165864, 1, 1, 0, 0, 1, 0, 0xFFFFFFFFFFFFFFFF, 0x0, 0x0, 0x0, 0x0, .dev⟩

/-! MGMT_STAGE_STATUS (MGMT registers) -/
def MGMT_STAGE_STATUS.off : Nat := 0x01800030
def MGMT_STAGE_STATUS.STATE : Fld := ⟨MGMT_STAGE_STATUS.off, 0, 2⟩
def MGMT_STAGE_STATUS.RESULT : Fld := ⟨MGMT_STAGE_STATUS.off, 2, 4⟩
def MGMT_STAGE_STATUS.BYTES : Fld := ⟨MGMT_STAGE_STATUS.off, 32, 32⟩
def MGMT_STAGE_STATUS.row : RegRow := ⟨25165872, 1, 1, 0, 0, 1, 0, 0x0, 0x0, 0x0, 0x0, 0x0, .dev⟩

/-! MGMT_LEDGER_STATUS (MGMT registers) -/
def MGMT_LEDGER_STATUS.off : Nat := 0x01800088
def MGMT_LEDGER_STATUS.BAD : Fld := ⟨MGMT_LEDGER_STATUS.off, 0, 32⟩
def MGMT_LEDGER_STATUS.DROPPED : Fld := ⟨MGMT_LEDGER_STATUS.off, 32, 32⟩
def MGMT_LEDGER_STATUS.row : RegRow := ⟨25165960, 1, 1, 0, 0, 1, 0, 0x0, 0x0, 0xFFFFFFFFFFFFFFFF, 0x0, 0x0, .dev⟩

/-! MGMT_AUTO (MGMT registers) -/
def MGMT_AUTO.off : Nat := 0x01800200
def MGMT_AUTO.ACTS : Fld := ⟨MGMT_AUTO.off, 0, 32⟩
def MGMT_AUTO.DEFERRED : Fld := ⟨MGMT_AUTO.off, 32, 6⟩
def MGMT_AUTO.row : RegRow := ⟨25166336, 1, 1, 0, 0, 1, 0, 0x0, 0x0, 0xFFFFFFFF, 0x0, 0x0, .dev⟩

/-! MGMT_LEDGER_IDX (MGMT registers) -/
def MGMT_LEDGER_IDX.off : Nat := 0x01800040
def MGMT_LEDGER_IDX.SEQ : Fld := ⟨MGMT_LEDGER_IDX.off, 0, 32⟩
def MGMT_LEDGER_IDX.FOUND : Fld := ⟨MGMT_LEDGER_IDX.off, 32, 1⟩
def MGMT_LEDGER_IDX.row : RegRow := ⟨25165888, 1, 1, 0, 0, 1, 0, 0xFFFFFFFF, 0x0, 0x0, 0x0, 0x0, .bank⟩

/-! MGMT_LEDGER_DATA (MGMT registers) -/
def MGMT_LEDGER_DATA.off (j : Nat) : Nat := 0x01800048 + j * 0x8
def MGMT_LEDGER_DATA.WORD (j : Nat) : Fld := ⟨MGMT_LEDGER_DATA.off j, 0, 64⟩
def MGMT_LEDGER_DATA.row : RegRow := ⟨25165896, 1, 1, 0, 0, 8, 8, 0x0, 0x0, 0x0, 0x0, 0x0, .bank⟩

/-! MGMT_SECTION (MGMT registers) -/
def MGMT_SECTION.off (i : Nat) : Nat := 0x01800100 + i * 0x8
def MGMT_SECTION.MHZ (i : Nat) : Fld := ⟨MGMT_SECTION.off i, 0, 10⟩
def MGMT_SECTION.TEMP (i : Nat) : Fld := ⟨MGMT_SECTION.off i, 10, 8⟩
def MGMT_SECTION.THERM_MHZ (i : Nat) : Fld := ⟨MGMT_SECTION.off i, 18, 10⟩
def MGMT_SECTION.GATED (i : Nat) : Fld := ⟨MGMT_SECTION.off i, 28, 1⟩
def MGMT_SECTION.row : RegRow := ⟨25166080, 16, 1, 8, 0, 1, 0, 0x0, 0x0, 0x0, 0x0, 0xC800320, .none⟩

/-! METER_NONCE (MGMT_METER_REQ at MGMT +0x300) -/
def METER_NONCE.off (j : Nat) : Nat := 0x01800300 + j * 0x8
def METER_NONCE.NONCE (j : Nat) : Fld := ⟨METER_NONCE.off j, 0, 64⟩
def METER_NONCE.row : RegRow := ⟨25166592, 1, 1, 0, 0, 2, 8, 0xFFFFFFFFFFFFFFFF, 0x0, 0x0, 0x0, 0x0, .bank⟩

/-! METER_REQ (MGMT_METER_REQ at MGMT +0x300) -/
def METER_REQ.off : Nat := 0x01800310
def METER_REQ.ACCOUNT : Fld := ⟨METER_REQ.off, 0, 5⟩
def METER_REQ.GO : Fld := ⟨METER_REQ.off, 5, 1⟩
def METER_REQ.row : RegRow := ⟨25166608, 1, 1, 0, 0, 1, 0, 0x0, 0x0, 0x0, 0x3F, 0x0, .bank⟩

/-! METER_REQ_STATUS (MGMT_METER_REQ at MGMT +0x300) -/
def METER_REQ_STATUS.off : Nat := 0x01800318
def METER_REQ_STATUS.RESULT : Fld := ⟨METER_REQ_STATUS.off, 0, 2⟩
def METER_REQ_STATUS.row : RegRow := ⟨25166616, 1, 1, 0, 0, 1, 0, 0x0, 0x0, 0x0, 0x0, 0x0, .bank⟩

/-! REC_CTL (Recorder global registers) -/
def REC_CTL.off : Nat := 0x02000000
def REC_CTL.ENABLE : Fld := ⟨REC_CTL.off, 0, 1⟩
def REC_CTL.KIND_MASK : Fld := ⟨REC_CTL.off, 1, 15⟩
def REC_CTL.PART_MASK : Fld := ⟨REC_CTL.off, 16, 17⟩
def REC_CTL.PC_INTERVAL : Fld := ⟨REC_CTL.off, 33, 16⟩
def REC_CTL.CLEAR : Fld := ⟨REC_CTL.off, 49, 1⟩
def REC_CTL.row : RegRow := ⟨33554432, 1, 1, 0, 0, 1, 0, 0x1FFFFFFFFFFFF, 0x0, 0x0, 0x2000000000000, 0x0, .dev⟩

/-! REC_CLEAR_CORES (Recorder global registers) -/
def REC_CLEAR_CORES.off (j : Nat) : Nat := 0x02000008 + j * 0x8
def REC_CLEAR_CORES.CORES (j : Nat) : Fld := ⟨REC_CLEAR_CORES.off j, 0, 64⟩
def REC_CLEAR_CORES.row : RegRow := ⟨33554440, 1, 1, 0, 0, 2, 8, 0xFFFFFFFFFFFFFFFF, 0x0, 0x0, 0x0, 0x0, .dev⟩

/-! REC_STATUS (Recorder global registers) -/
def REC_STATUS.off : Nat := 0x02000018
def REC_STATUS.ENABLE_RESULT : Fld := ⟨REC_STATUS.off, 0, 1⟩
def REC_STATUS.THROTTLED : Fld := ⟨REC_STATUS.off, 1, 63⟩
def REC_STATUS.row : RegRow := ⟨33554456, 1, 1, 0, 0, 1, 0, 0x0, 0x0, 0xFFFFFFFFFFFFFFFE, 0x0, 0x0, .dev⟩

/-! REC_RING_BASE (Recorder global registers) -/
def REC_RING_BASE.off (i : Nat) : Nat := 0x02000100 + i * 0x20
def REC_RING_BASE.BASE (i : Nat) : Fld := ⟨REC_RING_BASE.off i, 12, 52⟩
def REC_RING_BASE.row : RegRow := ⟨33554688, 2, 1, 32, 0, 1, 0, 0xFFFFFFFFFFFFF000, 0x0, 0x0, 0x0, 0x0, .dev⟩

/-! REC_RING_SIZE (Recorder global registers) -/
def REC_RING_SIZE.off (i : Nat) : Nat := 0x02000108 + i * 0x20
def REC_RING_SIZE.SIZE (i : Nat) : Fld := ⟨REC_RING_SIZE.off i, 0, 5⟩
def REC_RING_SIZE.row : RegRow := ⟨33554696, 2, 1, 32, 0, 1, 0, 0x1F, 0x0, 0x0, 0x0, 0xA, .dev⟩

/-! REC_RING_PROD (Recorder global registers) -/
def REC_RING_PROD.off (i : Nat) : Nat := 0x02000110 + i * 0x20
def REC_RING_PROD.PROD (i : Nat) : Fld := ⟨REC_RING_PROD.off i, 0, 32⟩
def REC_RING_PROD.row : RegRow := ⟨33554704, 2, 1, 32, 0, 1, 0, 0x0, 0x0, 0x0, 0x0, 0x0, .dev⟩

/-! REC_RING_CONS (Recorder global registers) -/
def REC_RING_CONS.off (i : Nat) : Nat := 0x02000118 + i * 0x20
def REC_RING_CONS.CONS (i : Nat) : Fld := ⟨REC_RING_CONS.off i, 0, 32⟩
def REC_RING_CONS.row : RegRow := ⟨33554712, 2, 1, 32, 0, 1, 0, 0xFFFFFFFF, 0x0, 0x0, 0x0, 0x0, .dev⟩

/-! CNT_CLASS (Per-core Recorder registers at 0x0201_0000 + c × 0x200) -/
def CNT_CLASS.off (i : Nat) (j : Nat) : Nat := 0x02010000 + i * 0x200 + j * 0x8
def CNT_CLASS.COUNT (i : Nat) (j : Nat) : Fld := ⟨CNT_CLASS.off i j, 0, 64⟩
def CNT_CLASS.row : RegRow := ⟨33619968, 128, 1, 512, 0, 14, 8, 0x0, 0x0, 0x0, 0x0, 0x0, .none⟩

/-! CNT_MX (Per-core Recorder registers at 0x0201_0000 + c × 0x200) -/
def CNT_MX.off (i : Nat) (j : Nat) : Nat := 0x02010080 + i * 0x200 + j * 0x8
def CNT_MX.COUNT (i : Nat) (j : Nat) : Fld := ⟨CNT_MX.off i j, 0, 64⟩
def CNT_MX.row : RegRow := ⟨33620096, 128, 1, 512, 0, 9, 8, 0x0, 0x0, 0x0, 0x0, 0x0, .none⟩

/-! CNT_DUMMY (Per-core Recorder registers at 0x0201_0000 + c × 0x200) -/
def CNT_DUMMY.off (i : Nat) : Nat := 0x020100C8 + i * 0x200
def CNT_DUMMY.COUNT (i : Nat) : Fld := ⟨CNT_DUMMY.off i, 0, 64⟩
def CNT_DUMMY.row : RegRow := ⟨33620168, 128, 1, 512, 0, 1, 0, 0x0, 0x0, 0x0, 0x0, 0x0, .none⟩

/-! PMC_SEL (Per-core Recorder registers at 0x0201_0000 + c × 0x200) -/
def PMC_SEL.off (i : Nat) (j : Nat) : Nat := 0x02010100 + i * 0x200 + j * 0x8
def PMC_SEL.EVENT (i : Nat) (j : Nat) : Fld := ⟨PMC_SEL.off i j, 0, 8⟩
def PMC_SEL.QMASK (i : Nat) (j : Nat) : Fld := ⟨PMC_SEL.off i j, 8, 4⟩
def PMC_SEL.PART_MASK (i : Nat) (j : Nat) : Fld := ⟨PMC_SEL.off i j, 12, 17⟩
def PMC_SEL.row : RegRow := ⟨33620224, 128, 1, 512, 0, 8, 8, 0x1FFFFFFF, 0x0, 0x0, 0x0, 0x0, .dev⟩

/-! PMC (Per-core Recorder registers at 0x0201_0000 + c × 0x200) -/
def PMC.off (i : Nat) (j : Nat) : Nat := 0x02010140 + i * 0x200 + j * 0x8
def PMC.COUNT (i : Nat) (j : Nat) : Fld := ⟨PMC.off i j, 0, 64⟩
def PMC.row : RegRow := ⟨33620288, 128, 1, 512, 0, 8, 8, 0x0, 0x0, 0x0, 0x0, 0x0, .none⟩

/-! TRACE_STATUS (Per-core Recorder registers at 0x0201_0000 + c × 0x200) -/
def TRACE_STATUS.off (i : Nat) : Nat := 0x02010180 + i * 0x200
def TRACE_STATUS.HELD (i : Nat) : Fld := ⟨TRACE_STATUS.off i, 0, 11⟩
def TRACE_STATUS.DROPS (i : Nat) : Fld := ⟨TRACE_STATUS.off i, 32, 32⟩
def TRACE_STATUS.row : RegRow := ⟨33620352, 128, 1, 512, 0, 1, 0, 0x0, 0x0, 0xFFFFFFFF00000000, 0x0, 0x0, .dev⟩

/-! GLOBAL_STATUS (GLOBAL_STATUS (R486)) -/
def GLOBAL_STATUS.off : Nat := 0x00000020
def GLOBAL_STATUS.READY : Fld := ⟨GLOBAL_STATUS.off, 0, 1⟩
def GLOBAL_STATUS.CFG_DEFAULTED : Fld := ⟨GLOBAL_STATUS.off, 1, 1⟩
def GLOBAL_STATUS.CFG_FAIL_IMAGE : Fld := ⟨GLOBAL_STATUS.off, 2, 2⟩
def GLOBAL_STATUS.CFG_FAIL_REASON : Fld := ⟨GLOBAL_STATUS.off, 4, 4⟩
def GLOBAL_STATUS.OVERLAY : Fld := ⟨GLOBAL_STATUS.off, 8, 4⟩
def GLOBAL_STATUS.RECOVERY : Fld := ⟨GLOBAL_STATUS.off, 12, 1⟩
def GLOBAL_STATUS.MODE : Fld := ⟨GLOBAL_STATUS.off, 13, 3⟩
def GLOBAL_STATUS.BUDDY_EN : Fld := ⟨GLOBAL_STATUS.off, 16, 1⟩
def GLOBAL_STATUS.MAINT : Fld := ⟨GLOBAL_STATUS.off, 17, 1⟩
def GLOBAL_STATUS.FATAL_HELD : Fld := ⟨GLOBAL_STATUS.off, 18, 1⟩
def GLOBAL_STATUS.INCARNATION : Fld := ⟨GLOBAL_STATUS.off, 32, 32⟩
def GLOBAL_STATUS.row : RegRow := ⟨32, 1, 1, 0, 0, 1, 0, 0x0, 0x0, 0x0, 0x0, 0x0, .none⟩

/-- Rows of the register maps, part 0. -/
def regRows0 : List RegRow :=
  [ARRAY_MASK.row, ARRAY_INFO.row, ARRAY_STATUS.row, ARRAY_ACTIVE.row, ARRAY_FREEZE.row, ARRAY_DUMMY.row, ARRAY_DISCARDS.row, EDU_STATUS.row, EDU_STRAY.row, EDU_NAN.row, EDU_LATE.row, EDU_GRANTED.row, EDU_DROPPED.row, CTX_STATE.row, CTX_OWNER.row, CTX_COUNTS.row, SP_HANDOVER.row, SP_HANDOVER_STATUS.row, SP_STATUS.row, SP_ECC.row, SP_MARCH_RESULT.row, SP_PORT.row, SP_OWN.row, L1_HITS.row, L1_MISSES.row, L1_STATS.row, L1_INVAL.row]

/-- Rows of the register maps, part 1. -/
def regRows1 : List RegRow :=
  [L2_STATUS.row, L2_ECC.row, L2_HITS.row, L2_MISSES.row, L2_PART_WAYS.row, HBM_CAPACITY.row, HBM_MAP.row, HBM_RETIRE.row, HBM_QOS.row, HBM_CH_STATUS.row, HBM_CH_ECC.row, HBM_CH_DROPPED.row, HBM_CH_BYTES_LC.row, HBM_CH_BYTES_NORMAL.row, HBM_CH_BYTES_BULK.row, HBM_CH_LC_CAPPED.row, HBM_CH_MARGIN.row, SYNC_STATUS.row, SYNC_OPS.row, SYNC_WAKES.row, SYNC_EXC.row, SYNC_MISC.row, SYNC_OWN.row, SYNC_HANDOVER.row, SYNC_HANDOVER_STATUS.row, DMA_STATUS.row, DMA_CURRENT.row]

/-- Rows of the register maps, part 2. -/
def regRows2 : List RegRow :=
  [DMA_BYTES.row, DMA_ENDS.row, RT_CTL.row, RT_STATUS.row, RT_STATS.row, RT_RING_BASE.row, RT_RING_CTL.row, RT_RING_PROD.row, RT_RING_CONS.row, RT_REPLY_STATUS.row, RT_INVAL.row, RT_INVAL_STATUS.row, RT_REPLY.row, RT_ASID.row, QUEUE_CFG.row, QUEUE_RING.row, QUEUE_COMPL.row, QUEUE_CTL.row, QUEUE_STATUS.row, QUEUE_TAIL.row, QUEUE_ABORT.row, QUEUE_ABORT_STATUS.row, FE_STATUS.row, FE_STATS.row, FE_POOL_BASE.row, FE_POOL_SIZE.row, FE_FAULT_BASE.row]

/-- Rows of the register maps, part 3. -/
def regRows3 : List RegRow :=
  [FE_FAULT_CTL.row, FE_FAULT_PROD.row, FE_FAULT_CONS.row, GRAPH_OWNER.row, GRAPH_INFO.row, EVQ_DATA.row, EVQ_STATUS.row, EVQ_LOST.row, EVQ_CTL.row, EVQ_CFG.row, EVQ_INFO.row, PHY_CFG.row, PHY_STATUS.row, LP_CFG.row, LP_STATUS.row, LP_MAC.row, LP_NEXTHOP.row, LP_FEC.row, LP_ERRS.row, LP_NEIGHBOUR.row, FAB_ID.row, FAB_CTL.row, FAB_CC.row, FAB_RT_CMD.row, FAB_STATS.row, FAB_BUDDY.row, FAB_COLL_BASE.row]

/-- Rows of the register maps, part 4. -/
def regRows4 : List RegRow :=
  [FAB_COLL_ARM.row, FAB_PTP.row, FAB_PREFIX.row, FAB_RT_DATA.row, FAB_PART_TAG.row, FAB_TENANT.row, COLL_STATUS.row, GLOBAL_OWNER.row, GLOBAL_RESET.row, HOST_PORT.row, HOST_WIN.row, HOST_FUNC.row, HOST_RESET_LAST.row, PART_CTL.row, PART_STATUS.row, PART_CFG.row, SHARE_HANDOVER.row, SHARE_HANDOVER_STATUS.row, SHARE_OWN.row, CR_CFG.row, CR_READERS.row, CR_MIRROR.row, CR_STATUS.row, MGMT_POWER.row, MGMT_POWER_STATUS.row, MGMT_BOOT.row, MGMT_MAINT.row]

/-- Rows of the register maps, part 5. -/
def regRows5 : List RegRow :=
  [MGMT_STAGE_CTL.row, MGMT_STAGE_ADDR.row, MGMT_STAGE_STATUS.row, MGMT_LEDGER_STATUS.row, MGMT_AUTO.row, MGMT_LEDGER_IDX.row, MGMT_LEDGER_DATA.row, MGMT_SECTION.row, METER_NONCE.row, METER_REQ.row, METER_REQ_STATUS.row, REC_CTL.row, REC_CLEAR_CORES.row, REC_STATUS.row, REC_RING_BASE.row, REC_RING_SIZE.row, REC_RING_PROD.row, REC_RING_CONS.row, CNT_CLASS.row, CNT_MX.row, CNT_DUMMY.row, PMC_SEL.row, PMC.row, TRACE_STATUS.row, GLOBAL_STATUS.row]

/-- Every register of the maps. -/
def regRows : List RegRow := regRows0 ++ regRows1 ++ regRows2 ++ regRows3 ++ regRows4 ++ regRows5

/-- The row and the index pair of an offset; none for a reserved offset (R28, R31). -/
def findReg (off : Nat) : List RegRow → Option (RegRow × Nat × Nat)
  | [] => Option.none
  | r :: t =>
    match r.index off with
    | some (i, j) => some (r, i, j)
    | Option.none => findReg off t

/-- The row that covers an offset. -/
def regAt (off : Nat) : Option (RegRow × Nat × Nat) := findReg off regRows

/-- What a register holds at reset (R8): the reset column of its map; 0 where no register lies. -/
def regReset (off : Nat) : DWord :=
  match regAt (off % 0x10000000) with
  | some (r, _, _) => BitVec.ofNat 64 r.reset
  | Option.none => 0

end Sys2Proof.Machine
end

