-- ==== Sys2Proof/Machine/Sparse.lean ====
section
/-! DEFINITION. Sparse tables: a list of (key, value) pairs with keys strictly rising and no entry equal to what an
unlisted key reads as, so that equal tables are equal lists. `d` says what an unlisted key reads as. -/

namespace Sys2Proof.Machine

/-- A table from keys to values. -/
abbrev Sparse (α : Type) := List (Nat × α)

/-- The value at a key. -/
def Sparse.get {α : Type} (d : Nat → α) : Sparse α → Nat → α
  | [], k => d k
  | (k', v) :: t, k => if k < k' then d k else if k = k' then v else Sparse.get d t k

/-- The table with a value put at a key; putting the default removes the entry. -/
def Sparse.set {α : Type} [DecidableEq α] (d : Nat → α) : Sparse α → Nat → α → Sparse α
  | [], k, v => if v = d k then [] else [(k, v)]
  | (k', v') :: t, k, v =>
    if k < k' then (if v = d k then (k', v') :: t else (k, v) :: (k', v') :: t)
    else if k = k' then (if v = d k then t else (k, v) :: t)
    else (k', v') :: Sparse.set d t k v

/-- The table with a value put at a key, kept even where it is the default: reading it back needs no canonical form. -/
def Sparse.put {α : Type} : Sparse α → Nat → α → Sparse α
  | [], k, v => [(k, v)]
  | (k', v') :: t, k, v =>
    if k < k' then (k, v) :: (k', v') :: t
    else if k = k' then (k, v) :: t
    else (k', v') :: Sparse.put t k v

/-- The value at a key, the type's default where the key is not listed. -/
def Sparse.look {α : Type} [Inhabited α] (t : Sparse α) (k : Nat) : α := t.get (fun _ => default) k

/-- Every key of the table is above `lo`. -/
def Sparse.above {α : Type} (lo : Nat) : Sparse α → Bool
  | [] => true
  | (k, _) :: _ => decide (lo < k)

/-- The canonical form: keys strictly rising, no entry equal to the default. -/
def Sparse.wf {α : Type} [DecidableEq α] (d : Nat → α) : Sparse α → Bool
  | [] => true
  | (k, v) :: t => decide (v ≠ d k) && Sparse.above k t && Sparse.wf d t

/-- The table without the keys from `lo` up to but not at `hi`. -/
def Sparse.clearRange {α : Type} (t : Sparse α) (lo hi : Nat) : Sparse α :=
  t.filter (fun e => !(decide (lo ≤ e.1) && decide (e.1 < hi)))

/-- The table without the keys a test holds of. -/
def Sparse.clearIf {α : Type} (t : Sparse α) (p : Nat → Bool) : Sparse α :=
  t.filter (fun e => !p e.1)

/-- Replaces the element at a position. -/
def setAt {α : Type} : List α → Nat → α → List α
  | [], _, _ => []
  | _ :: t, 0, v => v :: t
  | h :: t, n + 1, v => h :: setAt t n v

/-- Removes the element at a position. -/
def removeAt {α : Type} : List α → Nat → List α
  | [], _ => []
  | _ :: t, 0 => t
  | h :: t, n + 1 => h :: removeAt t n

end Sys2Proof.Machine
end

