-- ==== Sys2Proof/Machine/StAcorn.lean ====
section
/-! DEFINITION. State of Acorn, the sealed meter (R489-R514). -/

namespace Sys2Proof.Machine

/-- An account (R493): 0-15 partitions, 16 the device. -/
structure Account where
  session : Nat
  active : Bool          -- its session is open
  energy : Nat           -- uJ
  work : List Nat        -- multiply-adds by WFMT 0-8
  dummy : Nat
  start : Nat            -- Acorn time at session start
  gap : Bool
  unclosed : Bool
deriving DecidableEq, Repr, Inhabited

/-- A bank image in the non-volatile cells (R502). -/
structure NvImage where
  valid : Bool           -- its CRC holds
  loss : Bool            -- written at a supply loss
  seq : Nat
  rails : Sparse Nat
  accounts : Sparse Account
  readingSeq : Nat
  logSeq : Nat
  time : Nat
  cycles : Nat
deriving DecidableEq, Repr, Inhabited

/-- A requested reading that waits (R510). -/
structure MeterReq where
  f : Nat
  account : Nat
  nonce : Nat
deriving DecidableEq, Repr, Inhabited

/-- Writes of one function to one offset of the METER window that await their merged record (R32, R507). -/
structure Attempt where
  f : Nat
  off : Nat
  since : Nat              -- Acorn time of the first
  deviceTs : Nat           -- its timestamp
  count : Nat
deriving DecidableEq, Repr, Inhabited

/-- Acorn, the sealed meter: its totals, accounts, boundaries, log, banks and readings (R489-R513). -/
structure AcornSys where
  powered : Bool
  serial : Nat
  fwVersion : Nat
  fwSum : Nat
  fwSm3 : Nat
  cert : List Byte
  time : Nat                  -- us
  frac : Sparse Nat           -- remainder below 1 uJ per rail, in nJ
  rails : Sparse Nat          -- lifetime energy, uJ
  accounts : Sparse Account
  sections : Sparse Nat       -- sections held, per account
  bankSets : Sparse Nat
  shares : Sparse Nat
  regions : Sparse Nat        -- region: its owner plus one
  reports : List (Nat × AcornMsg) -- received in this interval, with their device timestamps
  frames : List (List ActivityRow)
  slip : Option (List Nat)    -- rail energies of one interval without a frame (R501)
  gapFirst : Nat              -- first interval of the gap in progress, by Acorn time in ms
  gapCount : Nat              -- its intervals; 0 no gap is in progress
  inSeq : Nat                 -- frame sequence number expected next
  rejects : Nat               -- ACORN_STATUS.INPUT_REJECTS
  log : Sparse (List Byte)    -- slot: record
  logSeq : Nat                -- newest record
  logWraps : Nat
  attempts : List Attempt
  readingSeq : Nat            -- newest reading
  periodic : Sparse (List Byte)
  close : Sparse (List Byte)
  requested : Sparse (List Byte)
  requests : List MeterReq    -- in arrival order
  refLost : Bool
  notLegal : Bool
  holdupFail : Bool
  cycles : Nat                -- power cycles
  deviceTs : Nat              -- latest device timestamp received
  bankA : NvImage
  bankB : NvImage
  nvSlot : Nat                -- wear-levelling slot used last (R502)
deriving DecidableEq, Repr, Inhabited

end Sys2Proof.Machine
end

