-- ==== Sys2Proof/Machine/StArray.lean ====
section
/-! DEFINITION. State of the matrix arrays (R103-R139). -/

namespace Sys2Proof.Machine

/-- An entry of an array's command queue (R103, R104). -/
inductive ArrCmd where
  | mode (word : Nat)
  | tile (gid : Gid) (block : Nat) (pc : DWord) (tag a b c : Nat) (force : Bool)
  | drain (gid : Gid) (dest desc : Nat) (toEdu : Bool) (sb : Nat)
deriving DecidableEq, Repr, Inhabited

/-- The current states of R134. -/
inductive ArrState where
  | off | run | freeze | idleGap | rampDown | rampUp
deriving DecidableEq, Repr, Inhabited

/-- Poison an array has consumed and not yet reported (R99, R131). -/
structure ArrPoison where
  gid : Gid
  block : Nat
  pc : DWord
  tag : Nat
deriving DecidableEq, Repr, Inhabited

/-- A drain that has swapped the banks: it writes the bank that does not accumulate, or its scores wait for the intake of the
Expert Dispatch Unit (R104, R123, R173). -/
structure ArrDrain where
  dest : Nat
  desc : Nat
  mode : Nat        -- the mode word under which it swapped
  toEdu : Bool
  sb : Nat          -- its scoreboard entry
  tiles : Nat       -- tiles executed before the swap (R124)
deriving DecidableEq, Repr, Inhabited

/-- A matrix array: its queue, mode words, banks, operand and weight registers and current state (R103, R104, R110, R120-R136). -/
structure Arr where
  queue : List ArrCmd
  modeIssue : Option Nat        -- the core's copy at issue (R121)
  modeNow : Option Nat          -- the mode word in force
  bank : Nat                    -- accumulating bank, 0 or 1
  acc : List (Sparse Word)      -- the two banks
  holds : List Bool             -- holds a sum not drained
  poison : List Bool
  bufTag : Option (Nat × Nat × Nat) -- offset, length, mode word (R110)
  buf : List Byte
  bufPoison : Bool
  issued : Nat                  -- MX.TILE instructions since kernel start
  executed : Nat                -- of those, executed
  level : Nat
  st : ArrState
  since : Nat                   -- quarters of an ACLK cycle at the last change of the current state
  clockFreeze : Bool            -- frozen for a section clock switch (R135)
  reports : List ArrPoison
  draining : Option ArrDrain
  midTile : Bool                -- the tile at the head has executed K-steps before the freeze (R135)
  feed : List Byte              -- the prefetch buffer of the weight feeder: the last 64 KiB read (R103, R111)
  wregs : List (List Byte)      -- the two broad weight registers, older block first (R103, R118)
  launch : Nat                  -- the kernel that uses the array, 0 none
deriving DecidableEq, Repr, Inhabited

/-- The matrix arrays that have left their reset state, by core (R103). -/
structure ArraySys where
  arrs : Sparse Arr
deriving DecidableEq, Repr, Inhabited

end Sys2Proof.Machine
end

