-- ==== Sys2Proof/Machine/StCore.lean ====
section
/-! DEFINITION. State of the cores: groups with their registers and reconvergence stacks (R35, R48, R69, R74-R76),
accesses in flight (R540), blocks and launches (R35, R350), L1 and Husk (R227-R235), function tables (R77), trace buffers
(R515). -/

namespace Sys2Proof.Machine

/-- An entry of the reconvergence stack (R48). -/
structure RecEntry where
  rpc : DWord
  pendPc : DWord
  pendMask : BitVec 32
  waitMask : BitVec 32
  bar : Option (Bool × Nat)   -- the pending path waits at this barrier (cluster barrier or not, ID; R60)
deriving DecidableEq, Repr, Inhabited

/-- What an access in flight still waits for: a fill of its core, a request at an L2 slice, a landing-zone write, an
operation at a Sesame store, or an answer of a peer. -/
inductive Wait where
  | fill (id seen : Nat)   -- `seen`: stores recorded against the fill when the load attached
  | l2 (id : Nat)
  | lz (id : Nat)
  | sesame (id : Nat)
  | fabric (id : Nat)
  | remote (core : Nat)    -- a scratchpad whose section is in a clock switch (R20)
deriving DecidableEq, Repr

/-- What an answered access writes. -/
inductive AccKind where
  | zeroExt | signExt | atom
deriving DecidableEq, Repr, Inhabited

/-- A load or returning atomic that has issued and is not yet answered (R540). -/
structure Access where
  id : Nat
  pc : DWord
  kind : AccKind
  size : Nat                   -- bytes
  d : Nat                      -- destination code
  lanes : List (Nat × Nat)     -- lane and 64-bit address
  bytes : Sparse Byte          -- 16 * lane + i: byte i bound for the lane
  waits : List (Wait × List (Nat × Nat × Nat))
      -- what is awaited, and for each: lane * 16 + i of the first byte, byte offset at the home, byte count
  poison : BitVec 32           -- lanes whose data returned poisoned
  acq : Nat                    -- scope of an acquire to run at the answer; 0 none
  host : List (Nat × Nat)      -- lanes that read a host window, and its port
deriving DecidableEq, Repr, Inhabited

/-- What a group is doing (R39, R97, R100). -/
inductive GState where
  | run
  | barrier (clu : Bool) (id : Nat)  -- arrived at a block or cluster barrier
  | sesame                           -- parked at a store of this device, or held until a peer's store answers
  | asked                            -- held until a store of this device answers; it has no entry in a list (R298, R308)
  | acquire (acc : Nat)              -- held until an acquiring access is answered
  | translate                        -- parked on a range request
  | halted                           -- after an exception
  | stopped                          -- by an abort
deriving DecidableEq, Repr, Inhabited

/-- One resident group. -/
structure Group where
  live : Bool
  launch : Nat
  block : Nat              -- identity of its block
  index : Nat              -- ID.GROUP
  pc : DWord
  mask : BitVec 32
  exited : BitVec 32
  stack : List RecEntry    -- top first, at most 32
  v : Sparse Word          -- 32 * register + lane
  u : Sparse Word
  p : Sparse (BitVec 32)   -- predicate: a bit per lane
  alloc : Nat              -- allocated v registers (R43)
  flags : BitVec 5         -- R76
  fabStat : BitVec 18      -- R287
  st : GState
  accs : List Access       -- oldest first
  start : Nat              -- quarter ACLK cycles at start (R96)
  reqId : Nat              -- the range request it waits on
  denied : Option (Nat × Nat) -- a page whose request was refused, and the request (R336)
  stall : Nat               -- what the next instruction was last seen to wait for: 0 nothing, 9 a scoreboard, 12 a release or acquire,
                            -- 1 anything else (R524)
deriving DecidableEq, Repr, Inhabited

/-- A resident block (R35). -/
structure Block where
  id : Nat
  launch : Nat
  core : Nat
  index : Nat               -- ID.BLOCK
  rank : Nat
  cluster : Nat
  area : Nat                -- offset in the scratchpad
  groups : List (Nat × Nat) -- quarter, slot in ID.GROUP order
  ended : Bool              -- every group has ended; its area stays until the cluster ends (R56)
deriving DecidableEq, Repr, Inhabited

/-- The capture of an exception (R97). -/
structure Capture where
  code : Nat
  gid : Gid
  lanes : BitVec 32
  trap : Nat
  pc : DWord
  addr : Nat
  owner : Option Nat    -- tag, packed as OWNER of R367
  mxTag : Nat
  reqId : Nat
  tilePc : DWord
  mask : BitVec 32
  depth : Nat
  time : Nat
  counts : Option (Nat × Nat) -- PRODUCED and CONSUMED that the check of a counter saw (R308)
  head : Nat                  -- HEAD and TAIL of the queue (R367)
  tail : Nat
  array : Nat                 -- ARRAY_STATUS of the core
deriving DecidableEq, Repr, Inhabited

/-- A launch in progress (R350). -/
structure Launch where
  id : Nat
  live : Bool
  ctx : Nat
  queue : Nat
  seq : Nat
  part : Nat
  kernel : Bool
  asid : Nat
  code : DWord
  phys : Bool
  gridX : Nat
  gridY : Nat
  gridZ : Nat
  threads : Nat
  cluster : Nat
  regs : Nat
  tables : Nat
  array : Bool
  args : List Byte
  w : Nat
  pool : Nat
  poolBase : Nat
  sections : Nat
  tabAddr : List Nat
  next : Nat             -- next block to place
  ended : Nat            -- blocks ended
  stopping : Bool        -- being aborted
  aborted : Bool         -- by the host or a graph, not by an exception
  exc : Option Capture
  further : Nat
  ending : Bool          -- the end release runs
  startedOn : List Nat   -- cores on which it has started (R272)
deriving DecidableEq, Repr, Inhabited

/-- The states of an L1 sector (R229). -/
inductive L1State where
  | invalid | pending | valid
deriving DecidableEq, Repr, Inhabited

/-- A line of an L1 way or of Husk: line number (address / 128) and its four sectors. -/
structure L1Line where
  line : Nat
  st : List L1State
  data : List Sector
deriving DecidableEq, Repr, Inhabited

/-- An outstanding fill of a core (R229-R232, R235). -/
structure Fill where
  id : Nat
  core : Nat
  sector : Nat               -- address / 32
  install : Bool             -- false after an invalidation, or where no way was free
  attach : Bool              -- later loads may still attach
  stores : List (Nat × Nat × Byte) -- recorded bytes, oldest first: group's key, offset in the sector, value
  data : Option (Sector × Bool)  -- from L2, with its poison mark
deriving DecidableEq, Repr, Inhabited

/-- A function-table slot of a core (R77, R78). -/
structure FTab where
  loaded : Bool
  busy : Bool               -- a load is in progress
  coef : List Word          -- 1,024 coefficients
  next : List Word          -- those of the load in progress
deriving DecidableEq, Repr, Inhabited

/-- A trace packet (R515) as its two words. -/
structure Trace where
  w0 : DWord
  w1 : DWord
  part : Nat                -- the partition its kernel acts for, 31 none (R516, R522)
deriving DecidableEq, Repr, Inhabited

/-- Recorder state of a core (R515-R518). -/
structure TraceBuf where
  packets : List Trace      -- oldest first
  lost : Nat                -- drops not yet reported by a LOST packet
  quarter : Nat             -- quarter to sample next
  slots : List Nat          -- slot sampled last, per quarter, plus one; 0 none
  sampled : Nat             -- quarters of an ACLK cycle of the section at the last sample (R516)
deriving DecidableEq, Repr, Inhabited

/-- A registered repair of a core's scratchpad (R219): rows remapped as (bank, row), the bank replaced. -/
structure Repair where
  rows : List (Nat × Nat)
  bank : Option Nat
  failed : Bool             -- the core has failed
deriving DecidableEq, Repr, Inhabited

/-- The cores: groups, blocks, launches, caches, function tables and trace buffers (R35-R39, R66, R77, R227-R236, R515). -/
structure CoreSys where
  groups : Sparse Group
  blocks : List Block
  nextBlock : Nat
  launches : List Launch
  nextLaunch : Nat
  l1 : Sparse L1Line        -- (core * 128 + set) * 16 + way
  plru : Sparse Nat         -- core * 128 + set: the 15 tree bits
  husk : Sparse (List L1Line) -- core: oldest first, at most 32
  fills : List Fill
  nextId : Nat              -- identities of accesses, fills and requests
  ftab : Sparse FTab        -- core * 4 + slot
  icache : Sparse DWord     -- instruction words fetched since the last kernel start, by launch, core and address (R66, R274)
  turn : Sparse (Nat × Nat) -- core * 4 + quarter: the slot that issued last and its run of issues, 16 for 16 or more (R39)
  trace : Sparse TraceBuf
  drainLast : List Nat      -- core served last by the drain engine of each half
  drainUsed : List Nat      -- bytes used of the window of each half (R521)
  drainWin : List Nat       -- the window each half's count belongs to
  repair : Sparse Repair
  parity : Sparse (Nat × Nat)  -- second, parity refetches counted in it (R236)
deriving DecidableEq, Repr, Inhabited

end Sys2Proof.Machine
end

