-- ==== Sys2Proof/Machine/StFab.lean ====
section
/-! DEFINITION. State of the Kamulail fabric (R386-R428): the routing table, send and receive flows, peers, collective
contexts, buddy mirroring, precision time. -/

namespace Sys2Proof.Machine

/-- Who sent a reliable packet, and so what its acknowledgement, refusal or loss means (R404, R285). -/
inductive FabOwner where
  | store (gs : List (Gid × Nat))            -- stores, with the group's block; non-returning atomics, SEM.ADD and SEM.SUB of groups
  | load (g : Gid) (wait : Nat)              -- a READ or a returning ATOMIC of an access
  | sem (op : Nat)                           -- a waiting SEM form
  | dma (e run lo : Nat)                     -- a WRITE of a descriptor's run on an engine: first byte in descriptor order
  | row (c t : Nat)                          -- a DSP_WRITE: context, 8 * token + rank
  | eduWrite (c e : Nat)                     -- the count word of an expert; 1024: the records and output of a context
  | ret (id : Nat)                           -- a DSP_RETURN
  | coll (c : Nat)
  | mirror (iseq : Nat)
  | repair (sector : Nat)                    -- a READ of a buddy mirror (R451)
  | response                                 -- READ_RESP, ATOMIC_RESP, SEM_RESP
  | bind (id : Nat)                          -- a READ of an engine or unit that waits for the data
  | cmd (c : Nat)                            -- a write or semaphore operation of a command context
  | other
deriving DecidableEq, Repr, Inhabited

/-- A reliable packet of a send flow. -/
structure Sent where
  owner : FabOwner
  pkt : Packet
  core : Option Nat      -- the issuing core, for merging (R410)
  part : Nat             -- the partition whose agent sent it, 31 none (R281)
  sent : Bool
  acked : Bool           -- acknowledged, its response awaited
  first : Nat            -- time of the first transmission
  last : Nat
  port : Nat             -- logical port of the last transmission
  tries : Nat            -- retransmissions
  busy : Bool            -- answered NAK BUSY: repeated after RTO_MIN_US
deriving DecidableEq, Repr, Inhabited

/-- A send flow (R400-R405): its packets in PSN order, those sent and those waiting. -/
structure SendFlow where
  live : Bool
  epoch : Nat
  nextPsn : Nat
  pkts : List Sent
  count : Nat            -- packets sent, for the source port (R389)
  cwnd : Nat
  baseRtt : Nat
  rtts : List (Nat × Nat)  -- (time, rtt) of the last 10 ms
  srtt : Nat
  rttvar : Nat
  lastCut : Nat
  idle : Nat             -- time of the last acknowledgement
deriving DecidableEq, Repr, Inhabited

/-- A receive flow (R400, R401). -/
structure RecvFlow where
  live : Bool
  src : Nat
  epoch : Nat
  cum : Nat              -- every PSN below has been performed
  done : List Nat        -- PSNs above performed
  newPkts : Nat          -- performed since the last ACK
  firstNew : Nat         -- time at which the oldest of those was performed
  newest : Nat           -- TSTAMP of the newest packet
  opened : List Nat      -- PSNs accepted and not yet performed
deriving DecidableEq, Repr, Inhabited

/-- A peer device. -/
structure Peer where
  dead : Bool
  wasDead : Bool
  incarnation : Nat
  probe : Option Nat     -- time of the oldest PROBE not answered
  probed : Nat           -- time of the last PROBE
  joined : Bool
deriving DecidableEq, Repr, Inhabited

/-- A collective context beside its status register (R413). -/
structure Coll where
  armed : Bool
  round : Nat               -- rounds completed since arming; the register holds it modulo 256
  record : List Byte
  sentRound : Option Nat    -- the round whose contributions have been sent
  counts : Sparse Nat       -- contributions per chunk of the current round
  doneChunks : List Nat
  disarming : Bool
  posted : Option Nat       -- round in which COLL_DISCARD was posted
deriving DecidableEq, Repr, Inhabited

/-- A mirror item (R423). -/
structure MirrorItem where
  kind : Nat
  state : Nat
  count : Nat
  iseq : Nat
  incarnation : Nat
  entries : List Byte
deriving DecidableEq, Repr, Inhabited

/-- What the device holds of its buddy (R421-R424). -/
structure Mirror where
  digest : List Byte
  ledger : List (List Byte)
  queues : Sparse DWord
  graphs : Sparse DWord
  sems : Sparse DWord
  iseqs : Sparse Nat        -- kind * 65536 + index: the item that last set the entry
  incarnation : Nat         -- of the pairing whose items these are
deriving DecidableEq, Repr, Inhabited

/-- The pairing with the buddy: what each has sent and been sent (R421-R425). -/
structure Buddy where
  start : Bool              -- START
  tests : Nat               -- self-tests running
  peerState : Nat
  nextIseq : Nat
  held : Mirror             -- mirror of the buddy
  fragileHeld : Bool        -- taken while the buddy was fragile
  peerSerial : Nat
  sentQueues : Sparse DWord   -- what the buddy has been sent, in the entry layouts of R423
  sentGraphs : Sparse DWord
  sentSems : Sparse DWord
  sentDigest : Bool
  ledgerAcked : Nat         -- newest ledger SEQ the buddy holds
  ledgerSent : List (Nat × Nat) -- items carrying ledger records: ISEQ, newest SEQ
  resume : Nat              -- 0 none, 1 asked, 2 receiving, 3 resumed, 4 cold
  incoming : Mirror         -- items of a resume transfer, applied at END
  resumeItems : Nat         -- items of it received
  resumeWant : Option Nat   -- items that follow the RESUME_RESP
  resumeEnd : Bool          -- END has arrived
deriving DecidableEq, Repr, Inhabited

/-- The fabric: ports, routes, send and receive state for each peer, collectives (R386-R428). -/
structure FabSys where
  route : Sparse (DWord × DWord)   -- the routing table (R398)
  send : Sparse SendFlow           -- per peer ID
  recv : Sparse RecvFlow           -- per source ID [15:0]
  peers : Sparse Peer
  colls : Sparse Coll
  buddy : Buddy
  ptpState : Nat                   -- 0 free-running, 1 locking, 2 locked
  ptpPort : Option Nat
  ptpOffset : Int
  ptpSlew : Int                    -- ns still to be slewed out of the counter
  ptpLast : Nat                    -- time of the last slewed ns
  ptpStateAt : Nat                 -- time of the last PTP_STATE
  lldpAt : Sparse Nat              -- per logical port: time of the last LLDP frame, plus one; 0 one is due
  helloAt : Sparse Nat             -- the same of the last HELLO
  paused : Sparse (BitVec 8)       -- priorities paused, per logical port
  pausedAt : Sparse Nat
  refusedMs : Sparse Nat           -- peer * 8 + reason: millisecond of the last KLP_REFUSED, plus one
deriving DecidableEq, Repr, Inhabited

end Sys2Proof.Machine
end

