-- ==== Sys2Proof/Machine/StEdu.lean ====
section
/-! DEFINITION. State of the Expert Dispatch Unit (R167-R193): tickets, descriptor queues, routing contexts with their
tokens, assignments, experts and combine accumulators, the score intakes and the rows returned. -/

namespace Sys2Proof.Machine

/-- A ticket-table entry (R170, R171), at 256 * unit + entry. -/
structure Ticket where
  seq : Nat
  state : Nat
  gen : Nat
  fault : Nat
deriving DecidableEq, Repr, Inhabited

/-- A queued descriptor (R170). -/
structure EduDesc where
  bytes : List Byte
  ticket : Nat        -- the ticket word of R170
  kernel : Bool
  part : Nat
  owner : Nat         -- the owner of its context when it was submitted, 31 none (R193)
  stamp : Nat         -- order of arrival among descriptors and scores
deriving DecidableEq, Repr, Inhabited

/-- A score on its way into an instance (R173, R174). `core`: the draining core, none from memory. -/
structure Score where
  ctx : Nat
  expert : Nat
  token : Nat
  value : Word
  kernel : Bool
  part : Nat
  core : Option Nat
  stamp : Nat
deriving DecidableEq, Repr, Inhabited

/-- Per-token state (R167). -/
structure Token where
  count : Nat
  best : List (Nat × Word)   -- expert and score, best first, at most k + 1
  max : Word
  sum : Word
  started : Bool             -- a first score has set the maximum
  done : Bool
  second : Bool              -- its second choice is used
deriving DecidableEq, Repr, Inhabited

/-- An assignment of (token, rank): key 8 * token + rank. Status: 0 not granted, 1 granted, 2 granted as second choice,
3 overflowed or dropped, 4 lost to a dead peer. -/
structure Assign where
  expert : Nat
  slot : Nat
  status : Nat
  weight : Word
  acked : Bool
  combined : Bool
deriving DecidableEq, Repr, Inhabited

/-- An expert of a context: its table entry as read at the first grant, slots granted, and its closing. -/
structure Expert where
  read : Bool
  entry : List Byte
  slots : Nat
  closing : Bool     -- the count word is written, its acknowledgement awaited
  closed : Bool
deriving DecidableEq, Repr, Inhabited

/-- A routing context beside its registers. -/
structure EduCtx where
  desc : List Byte
  kernel : Bool
  part : Nat                 -- the owner at its ROUTE, 31 none (R193)
  ticket : Nat               -- the ticket word of its ROUTE
  tokens : Sparse Token
  assigns : Sparse Assign
  experts : Sparse Expert
  acc : Sparse Word          -- 16384 * token + element
  poisonTok : List Nat
  store : Nat                -- accumulators held
  granted : Bool             -- no further grant is possible
  ended : Option Nat         -- ticket state that ends it: 2 done, 3 faulted, 4 aborted
  fault : Nat
  faultAddr : Nat
  written : Bool             -- records and output are written, their acknowledgement awaited
  strayPosted : Bool
  latePosted : Bool
deriving DecidableEq, Repr, Inhabited

/-- A row returned to an instance (R186, R412). -/
structure RetRow where
  ctx : Nat
  gen : Nat
  token : Nat
  rank : Nat
  fp32 : Bool
  width : Nat
  data : List Byte
  poison : Bool
  origin : Nat      -- the device that sent it
  ret : Option Nat    -- a RETURN of this device, by its identity
  psns : List Nat     -- the packets of another device that carried it
deriving DecidableEq, Repr, Inhabited

/-- Segments of a returned row still arriving: the row's first fields, and (segment, bytes). -/
structure Staging where
  peer : Nat
  row : RetRow
  segs : Nat
  got : List (Nat × List Byte)
deriving DecidableEq, Repr, Inhabited

/-- A RETURN in progress (R185). -/
structure EduRet where
  id : Nat
  ticket : Nat
  left : Nat        -- rows and packets not yet acknowledged
  fault : Nat
  doneSem : Nat
  part : Nat
  kernel : Bool
deriving DecidableEq, Repr, Inhabited

/-- Work of an instance's movers, in order (R167, R322; log entry 94): the row of a granted assignment with its slot record, at
8 * token + rank, still to be read; or bytes to be written, each with its mark of poison. -/
inductive EduJob where
  | row (c k : Nat)
  | write (own : FabOwner) (kernel : Bool) (part addr : Nat) (data : List (Byte × Bool))
deriving DecidableEq, Repr, Inhabited

/-- The two instances of the Expert Dispatch Unit (R167-R193). -/
structure EduSys where
  tickets : Sparse Ticket
  nextEntry : Sparse Nat     -- per instance
  nextSeq : Sparse Nat       -- per instance
  queue : Sparse (List EduDesc)
  scores : Sparse (List Score)
  ctxs : Sparse EduCtx
  rows : Sparse (List RetRow)
  staging : List Staging
  rets : List EduRet
  nextRet : Nat
  jobs : Sparse (List EduJob)
  tokens : Sparse Nat        -- intake tokens held, at 128 * unit + core (R322)
deriving DecidableEq, Repr, Inhabited

end Sys2Proof.Machine
end

