-- ==== Sys2Proof/Machine/StSync.lean ====
section
/-! DEFINITION. State of Sesame (R289-R314), of the DMA engines (R315-R326) and of range translation (R327-R338). -/

namespace Sys2Proof.Machine

/-- Who sent an operation to a Sesame store (R301). -/
inductive SesSrc where
  | group (g : Gid) (launch : Nat) (acc : Nat)
  | engine (e : Nat)
  | edu (u : Nat)
  | chanter (ctx : Nat)
  | bassoon
  | peer (id lport psn : Nat)
  | coll (c : Nat)
deriving DecidableEq, Repr, Inhabited

/-- The operations of a store. -/
inductive SesKind where
  | wait | take | add | sub | set | lock | unlock | arrive | prod | cons | load
deriving DecidableEq, Repr, Inhabited

/-- A lane of a lock or unlock: the lane and its owner tag as packed in R367. -/
structure LockLane where
  lane : Nat
  addr : Nat
  tag : Nat
deriving DecidableEq, Repr, Inhabited

/-- An operation on its way to a store, or parked there. -/
structure SesOp where
  id : Nat
  src : SesSrc
  kind : SesKind
  addr : Nat               -- local offset of the word
  n : DWord
  scope : Nat
  pd : Nat                 -- predicate written at the end
  pc : DWord
  timeout : Nat            -- us; 0 none
  deadline : Option Nat
  lanes : List LockLane
  mask : Nat               -- lanes that execute it (R70)
  check : Bool             -- a lock that only asks what its lanes would raise (R64; log entry 85)
  held : Bool              -- an arrival held for the next round
  again : Bool             -- refused an entry, repeats (R298)
  part : Nat := 31         -- the partition of an agent that is no group, 31 none (R281)
deriving DecidableEq, Repr, Inhabited

/-- A wake on its way: the operation that ended and the predicate value. -/
structure Wake where
  store : Nat
  op : SesOp
  ok : Bool
deriving DecidableEq, Repr, Inhabited

/-- A recorded lock tag (R294). -/
structure LockTag where
  addr : Nat
  tag : Nat
  launch : Nat             -- 0 for a tag of a peer
deriving DecidableEq, Repr, Inhabited

/-- A lock of a peer that lanes of a SEM.LOCK name: the operation at the peer, the lanes in ascending order, the first one asking for
all; whether it won (R63, R65). -/
structure FarLock where
  id : Nat
  peer : Nat
  lanes : List LockLane
  won : Bool
deriving DecidableEq, Repr, Inhabited

/-- A SEM.LOCK of a group whose lanes are not all answered (R63, R64): the operations awaited, the lanes that won, the exceptions found
as lane, code, address and tag; its local lanes, and its locks at peers. With both, it asks first what the local lanes would raise
(`phase` 0), then for the locks at the peers (1), and takes the local locks last (2; log entry 85). -/
structure LockWait where
  g : Gid
  left : List Nat
  won : Nat
  excs : List (Nat × Nat × Nat × Option Nat)
  mask : Nat
  pd : Nat
  next : DWord
  scope : Nat
  near : List LockLane
  far : List FarLock
  phase : Nat
deriving DecidableEq, Repr, Inhabited

/-- The two Sesame stores (R289-R314). -/
structure SesSys where
  words : Sparse DWord     -- local offset / 8, above 0xD0_0000_0000
  poison : Sparse Bool
  queue : List SesOp       -- on their way, in order
  parked : List SesOp      -- in order of arrival
  wakes : List Wake
  tags : List LockTag
  remote : List (Nat × SesOp)  -- operations of this device waiting at a peer (R309)
  locks : List LockWait
  satMs : List (Option Nat)  -- per store: the millisecond of the last SEM_SATURATED
deriving DecidableEq, Repr, Inhabited

/-- A descriptor queued on an engine (R316). -/
structure DmaEntry where
  addr : Nat               -- of the descriptor
  ctx : Nat                -- command context
  part : Nat
  asid : Nat
  kernel : Bool
  done : Nat               -- descriptors of the chain completed
  aborted : Bool           -- its command was aborted before the engine took it up
deriving DecidableEq, Repr, Inhabited

/-- The state of an engine (R338). -/
inductive DmaState where
  | idle | waitSem | waitBoard | moving | draining | waitTrans
deriving DecidableEq, Repr, Inhabited

/-- A READ of an engine at a peer: its first byte in descriptor order, and the answer (data and its poison mark, or a fault). -/
structure DmaRead where
  id : Nat
  pos : Nat
  len : Nat
  data : Option (List Byte × Bool)
  fault : Nat
deriving DecidableEq, Repr, Inhabited

/-- How a descriptor ends whose moves have been issued: STATE, FAULT, PROGRESS, POISON, REQ_ID (R317). -/
structure DmaOut where
  state : Nat
  fault : Nat
  progress : Nat
  poison : Bool
  reqId : Nat
deriving DecidableEq, Repr, Inhabited

/-- A descriptor whose last write has been issued, in queue order: it completes once its writes are performed and those before it have
completed (R316, R319). -/
structure DmaEnd where
  entry : DmaEntry
  run : Nat
  desc : List Byte
  out : DmaOut
  lost : Option (Nat × Nat)
  readable : Bool
  aborted : Bool
deriving DecidableEq, Repr, Inhabited

/-- A DMA engine: its queue and the descriptor it runs (R315-R326). -/
structure Engine where
  queue : List DmaEntry    -- the running one first
  ends : List DmaEnd
  run : Nat                -- names the packets and scoreboard entries of the running descriptor
  pos : Nat                -- bytes moved, in descriptor order
  poison : Bool            -- some of them were poisoned
  barred : List (Nat × Nat) -- core and bank set: sets in a handover when the descriptor started, which refuse it (R205)
  endReq : Nat             -- the range request that the STATUS of the oldest in `ends` waits on
  endDenied : Bool
  st : DmaState
  desc : List Byte         -- the running descriptor, empty before it is read
  started : Bool           -- it has passed the scoreboard
  semOk : Option Bool      -- how its WAITSEM wait ended
  aborted : Bool
  reqId : Nat
  denied : Nat             -- 0, 3 refused, 4 timed out
  tokens : Sparse Nat      -- intake tokens held, per core
  reads : List DmaRead
  lost : Option (Nat × Nat)  -- a write not performed: its first byte in descriptor order, and the fault
  semPeer : Option Nat     -- the peer of its WAITSEM
deriving DecidableEq, Repr, Inhabited

/-- The DMA engines, and the cores' intake tokens (R315, R322). -/
structure DmaSys where
  engines : Sparse Engine
  tokenReq : List (Nat × Nat)  -- requests for intake tokens: mover, core
deriving DecidableEq, Repr, Inhabited

/-- A range entry (R327). -/
structure Range where
  vstart : Nat
  len : Nat
  pstart : Nat
  asid : Nat
  r : Bool
  w : Bool
  x : Bool
  cls : Nat
  pin : Bool
deriving DecidableEq, Repr, Inhabited

/-- Who waits on a range request. -/
inductive Waiter where
  | group (g : Gid)
  | engine (e : Nat)
  | chanter (ctx : Nat)
deriving DecidableEq, Repr, Inhabited

/-- A pending range request (R332, R335). -/
structure RangeReq where
  id : Nat
  f : Nat
  asid : Nat
  page : Nat
  addr : Nat
  kinds : Nat
  srcKind : Nat
  srcIndex : Nat
  time : Nat
  waiters : List Waiter
  stale : Bool
  written : Bool
  counted : Bool          -- its wait for ring room has been counted
deriving DecidableEq, Repr, Inhabited

/-- An invalidation, running or waiting (R337). `f`: the function whose register was written, 32 for a rebinding. -/
structure RtInvalidation where
  f : Nat
  asid : Nat
  rebind : Option DWord   -- the RT_ASID value to install after it
  begun : Bool
  ids : List Nat          -- accesses and requests in flight when it began
  pkts : List (Nat × Nat) -- packets in flight when it began: peer and PSN
deriving DecidableEq, Repr, Inhabited

/-- Range translation: caches, requests and invalidations (R327-R338). -/
structure RtSys where
  device : List Range                 -- most recently used first
  caches : Sparse (List Range)        -- most recently used first: core c, engine 256 + e
  reqs : List RangeReq
  nextReq : Nat
  inval : List RtInvalidation         -- first runs
  reply : Sparse DWord                -- f * 4 + word
  bound : Sparse DWord                -- the binding of an ASID in force, as RT_ASID (R331)
deriving DecidableEq, Repr, Inhabited

end Sys2Proof.Machine
end

