-- ==== Sys2Proof/Machine/StFront.lean ====
section
/-! DEFINITION. State of Chanter (R339-R372), of the event FIFOs (R373-R384), of the host interface (R429-R441) and of
partition teardown (R446). -/

namespace Sys2Proof.Machine

/-- A terminal state of a command (R354, R355). -/
inductive Terminal where
  | done | faulted | aborted | deferred
deriving DecidableEq, Repr, Inhabited

/-- The data of a fault (R367) beside what its context holds. -/
structure FaultData where
  kind : Nat
  code : Nat
  node : Nat
  nodeCode : Nat
  addr : Nat
  reqId : Nat
  engine : Option Nat
  descAddr : Nat
  descStatus : Nat
  descProgress : Nat
deriving DecidableEq, Repr, Inhabited

/-- Where a command in a context stands (R344). -/
inductive CtxState where
  | fetched      -- checked, not yet started
  | started
  | ending       -- its effects are performed; the completion has not been admitted
  | terminal (t : Terminal)   -- admitted, not yet reported in order
deriving DecidableEq, Repr, Inhabited

/-- One command context (R345). -/
structure Ctx where
  live : Bool
  queue : Nat
  seq : Nat
  bytes : List Byte      -- the command's slots
  addr : Nat             -- of its first slot
  head : Nat             -- queue HEAD and TAIL, and the time, at the capture of its fault (R367)
  tail : Nat
  capTime : Nat
  began : Bool           -- it had started when it came to its end (R371)
  st : CtxState
  progress : Nat
  fault : Option FaultData
  outcome : Option Terminal   -- how it will end, once ending
  launch : Option Nat
  engine : Option Nat
  run : Option Nat            -- graph run
  node : Option (Nat × Nat)   -- graph run and node it serves
  abortReq : Bool
  reqId : Nat                 -- the range request it waits or waited on
  denied : List (Nat × Nat)   -- pages whose requests were refused, and those requests (R336)
  reads : List DmaRead        -- what it has read of memory, and its READs of a peer's
deriving DecidableEq, Repr, Inhabited

/-- The schedule and the edges of a stored node (R358). -/
structure GNode where
  first : Nat
  outEdges : Nat
  inDeg : Nat
  cmd : List Byte
  record : Nat          -- identity of its 320-byte record, for sharing (R362)
deriving DecidableEq, Repr, Inhabited

/-- An edge of a graph (R358). -/
structure GEdge where
  signal : Bool
  target : Nat
  sem : Nat
deriving DecidableEq, Repr, Inhabited

/-- A version of a stored graph (R359, R362). -/
structure GVersion where
  graph : Nat
  number : Nat
  nodes : List GNode
  edges : List GEdge
  edgeRec : Nat
  priv : Bool
  current : Bool
  pins : Nat
deriving DecidableEq, Repr, Inhabited

/-- A graph launch in progress (R360). -/
structure GRun where
  id : Nat
  live : Bool
  ctx : Nat
  graph : Nat
  number : Nat
  counts : List Nat       -- edges still awaited, per node
  started : List Nat
  ended : List Nat
  doneCount : Nat
  fault : Option (Nat × Nat)  -- node, its fault code
  aborting : Bool
deriving DecidableEq, Repr, Inhabited

/-- A queue's part that is not in its registers. -/
structure Queue where
  tailSeen : Nat
  completed : Nat         -- completions since enable
  order : List Nat        -- its contexts, in ring order
  stopFault : Bool
  disabling : Bool
deriving DecidableEq, Repr, Inhabited

/-- Chanter: queues, contexts of commands, graphs and their launches, event FIFOs apart (R339-R371). -/
structure FeSys where
  queues : Sparse Queue
  ctxs : Sparse Ctx       -- 0-511 commands of queues, above: nodes of graph runs
  nextNodeCtx : Nat
  versions : List GVersion
  lastNumber : Sparse Nat -- per graph: number of its last version
  nextRec : Nat
  runs : List GRun
  nextRun : Nat
  lastQueue : Sparse Nat  -- per priority level: queue served last
  visits : Nat            -- position in the round of 15 visits
  recSeq : Sparse Nat     -- per function: last fault record number
deriving DecidableEq, Repr, Inhabited

/-- A stored word of an event FIFO (R375). -/
structure EvqWord where
  data : DWord
  fin : Bool              -- end mark
  bad : Bool              -- fails its check
deriving DecidableEq, Repr, Inhabited

/-- An event FIFO (R373-R384). Its pointers are one bit wider than the word address (R378) and kept once in the model; a mismatch of
the two copies is the event EVQ_PTR_FAULT (R379). -/
structure Evq where
  words : List EvqWord    -- oldest first
  rp : Nat                -- read pointer
  wp : Nat                -- write pointer
  rseq : Nat
  last : DWord            -- word popped last
  lastEnd : Bool
  underrun : Bool
  wordErr : Bool
  lost : Nat
  resets : Nat
  armed : Bool
deriving DecidableEq, Repr, Inhabited

/-- What the device answers or sends to the outside (the model's own record). -/
inductive Out where
  | value (f : Nat) (v : DWord)         -- a read completion
  | done (f : Nat)                      -- a write completion
  | ur (f : Nat)                        -- Unsupported Request
  | ep (f : Nat)                        -- completion with the EP bit
  | crs (f : Nat)                       -- Configuration Request Retry Status
  | crsVendor (f : Nat)                 -- the same for the Vendor ID: 0x0001 with CRS Software Visibility
  | msix (f vector : Nat)
  | klp (l : Nat) (p : Packet)
  | hello (l : Nat) (m : HelloMsg)
  | lldp (l : Nat)
  | pfc (l : Nat) (prios : BitVec 8) (pause : Bool)
  | mctp (data : List Byte)             -- a PLDM, SPDM or platform event message
  | vdd (half mv : Nat)                 -- a set point sent to a regulator
deriving DecidableEq, Repr

/-- A frame sent to Acorn's input port (R18): an ACTIVITY frame (R494), a Bassoon report (R499), a REQUEST (R510). -/
inductive AcornFrame where
  | activity (time : Nat) (rows : List ActivityRow)
  | report (time : Nat) (m : AcornMsg)
  | request (time f account nonce : Nat)
deriving DecidableEq, Repr

/-- The two PCIe ports and their functions (R429-R441, R531). -/
structure HostSys where
  crs : Sparse Bool         -- per port: configuration requests answer CRS
  crsAt : Sparse Nat        -- per port: ns at which its CRS window of 20 ms began
  perst : Sparse Bool       -- per port: PERST# asserted
  cfg : Sparse Word         -- f * 1024 + register: configuration space writes
  msix : Sparse DWord       -- f * 0x1000 + word: MSI-X table words
  pba : Sparse DWord        -- f * 32 + word: pending bits
  refusedMs : Sparse Nat    -- per function: millisecond of its last NOT_OWNER_WRITE, plus one
deriving DecidableEq, Repr, Inhabited

/-- A teardown in progress or stopped (R446, R448). -/
structure Teardown where
  part : Nat
  step : Nat
  limit : Nat
  start : Nat
  position : Nat            -- section of step 4 or share of step 7
  since : Nat               -- time at which its handover began
deriving DecidableEq, Repr, Inhabited

/-- An ASSIGN whose bank sets are being handed over (R445). -/
structure Assigning where
  part : Nat
  sections : Nat
  left : List Nat           -- sections still to hand over
  start : Nat
deriving DecidableEq, Repr, Inhabited

/-- What an ASSIGN and a teardown have still to do (R444-R446). -/
structure PartSys where
  assign : Option Assigning
  teardown : Option Teardown
  torn : Sparse Bool        -- core * 16 + set: owned by MARCH, its prior owner torn down (R446)
  stoppedAt : Sparse Nat    -- partition: step and position where its teardown stopped, step * 1024 + position
deriving DecidableEq, Repr, Inhabited

end Sys2Proof.Machine
end

