-- ==== Sys2Proof/Machine/StMem.lean ====
section
/-! DEFINITION. State of the memories: the bytes of HBM and of the scratchpads (R21, R194, R241), poison marks (R218,
R453), the L2 (R237-R240), landing zones, credits, scoreboards and handovers (R204-R217), HBM channels and scans
(R249-R254), host memory behind the windows. -/

namespace Sys2Proof.Machine

/-- Who sent a request to an L2 slice. -/
inductive MemSrc where
  | core (c : Nat)
  | engine (e : Nat)
  | mover (u : Nat)
  | chanter
  | port (n : Nat)
  | fabric (peer : Nat)
deriving DecidableEq, Repr, Inhabited

/-- An atomic bound for one home: operation, size in bytes, offset at the home, operands, lane (R87). -/
structure AtomReq where
  op : Nat
  size : Nat
  off : Nat
  signed : Bool
  b : DWord
  c : DWord
  lane : Nat
deriving DecidableEq, Repr, Inhabited

/-- What a request to a sector does. -/
inductive L2Op where
  | fill                              -- a load through the L1
  | read                              -- a load that reads around the L1
  | write (bytes : List (Nat × Byte)) -- offset in the sector, value
  | atom (a : AtomReq)
deriving DecidableEq, Repr, Inhabited

/-- A request in the queue of a slice (R238). -/
structure L2Req where
  id : Nat
  returns : Bool   -- an access waits for it
  src : MemSrc
  gid : Option Gid
  part : Nat
  sector : Nat
  op : L2Op
  lc : Nat       -- HBM class (R247)
deriving DecidableEq, Repr, Inhabited

/-- A sector held by the L2. -/
structure L2Sector where
  held : Bool
  dirty : Bool
  poison : Bool
  data : Sector
deriving DecidableEq, Repr, Inhabited

/-- A write or atomic of one 64-byte span on its way to another section's scratchpad (R210-R212). -/
structure LzEntry where
  id : Nat
  gid : Gid
  part : Nat
  sender : Nat
  receiver : Nat
  bytes : List (Nat × Byte)       -- local offset, value
  atoms : List AtomReq            -- in lane order; their offsets are local offsets
  returns : Bool                  -- an access waits for the old values
deriving DecidableEq, Repr, Inhabited

/-- Landing-zone credits of one sender for one receiver (R210). -/
structure Credit where
  held : Nat
  asked : Nat
  last : Nat      -- time of the last write
deriving DecidableEq, Repr, Inhabited

/-- An entry of a core's range scoreboard (R214). -/
structure SbEntry where
  id : Nat        -- who holds it
  core : Nat
  lo : Nat        -- first byte offset, of a row
  hi : Nat        -- one past the last
  write : Bool
deriving DecidableEq, Repr, Inhabited

/-- One that waits for a free entry of a core's scoreboard: an MX.DRAIN of a group at an address, or an engine (R216). -/
structure SbWait where
  core : Nat
  drain : Option (Gid × DWord)
  engine : Nat
deriving DecidableEq, Repr, Inhabited

/-- A handover of bank sets in progress (R205). -/
structure Handover where
  sect : Nat
  cores : Nat
  sets : Nat
  owner : Nat
  limit : Nat     -- drain limit in us
  start : Nat
  zeroing : Bool
  by_ : Nat        -- 0 SP_HANDOVER, 1 a teardown, 2 an ASSIGN
deriving DecidableEq, Repr, Inhabited

/-- A share handover in progress (R447). -/
structure ShareHandover where
  first : Nat
  count : Nat
  owner : Nat
  start : Nat
deriving DecidableEq, Repr, Inhabited

/-- A march run in progress on a core (R220, R221). -/
structure MarchRun where
  core : Nat
  alg : Nat
  preserve : Bool
  fix : Bool
  sets : Nat
  boot : Bool
  ctx : Option Nat   -- the command that asked
  entry : Option Nat -- or the deferred request
deriving DecidableEq, Repr, Inhabited

/-- A margin scan, waiting or running (R249-R251). -/
structure Scan where
  ch : Nat
  kind : Nat         -- 0 live, 1 full, 2 boot training
  start : Nat
  ctx : Option Nat
  entry : Option Nat
deriving DecidableEq, Repr, Inhabited

/-- What happened to sectors of HBM since the first destructive scan, newest first (R249). -/
inductive Touch where
  | scan (ch n : Nat)     -- a full scan wrote every bank of a channel; the number of its open contents
  | zero (lo hi : Nat)    -- a range of addresses was zeroed
  | write (sector : Nat)  -- a sector was written
deriving DecidableEq, Repr, Inhabited

/-- A line of the L2 (R237, R239): its way; `old`: a bulk fill put it there as the next victim and nothing has touched it since. -/
structure L2Line where
  way : Nat
  old : Bool
deriving DecidableEq, Repr, Inhabited

/-- A write of a core through a host window that the port has not accepted: bytes, or an atomic whose old value is not awaited (R22,
R259). -/
structure HostStore where
  port : Nat
  core : Nat
  part : Nat
  bus : Nat
  bytes : List Byte
  atom : Option AtomReq
deriving DecidableEq, Repr, Inhabited

/-- Memory: bytes, poison, the L2, queues of slices and ports, landing zones, scoreboards, handovers, tests and channels (R194-R226,
R237-R256). -/
structure MemSys where
  cells : List Host.Cell        -- local offset, byte: HBM and scratchpads
  poison : Sparse Bool          -- local offset / 8
  l2 : Sparse L2Sector          -- address / 32
  l2lines : Sparse L2Line       -- address / 128: the lines that hold a way
  upsets : List Upset           -- errors in the memories that nothing has met yet
  l2q : List L2Req              -- requests of every slice, in arrival order
  host : Sparse Byte            -- port * 2^64 + bus address: the hosts' memory
  hostq : List HostStore        -- in the order issued
  lz : List LzEntry             -- in landing zones, in the order sent
  port : List LzEntry           -- at senders' ports, waiting for credit
  credit : Sparse Credit        -- sender * 128 + receiver
  askq : List (Nat × Nat)       -- batch requests waiting: sender, receiver
  sb : List SbEntry
  sbq : List SbWait             -- in the order of request
  hand : Option Handover
  share : Option ShareHandover
  march : List MarchRun
  scanAt : Sparse Nat           -- per channel: time of its last scheduled scan, plus one
  scanRun : List Scan
  scanSeq : Sparse Nat          -- per channel
  below : Sparse Nat            -- successive scans below floor, per channel (R253)
  ueTimes : Sparse (List Nat)   -- times of uncorrectable errors, per channel
  failed : List Nat             -- sectors whose HBM copy was found uncorrectable (R240, R245)
  repairs : List Nat            -- sectors being read from the buddy mirror (R451)
  retired : Nat                 -- channels marked under MAX_RETIRE since boot
  chanMap : List Nat            -- MAP (R242)
  touched : List Touch          -- empty until a full scan
deriving DecidableEq, Repr, Inhabited

end Sys2Proof.Machine
end

