-- ==== Sys2Proof/Machine/StMgmt.lean ====
section
/-! DEFINITION. State of Bassoon (R456-R488) and of the supply pins (R527-R535), and what the fuses hold (R3, R138,
R484). -/

namespace Sys2Proof.Machine

/-- A record of the life ledger (R480) before its encoding. -/
structure LedgerRec where
  seq : Nat
  type : Nat
  die : Nat
  incarnation : Nat
  synced : Bool
  time : Nat
  payload : List DWord     -- bytes 0x18-0x37
  bad : Bool               -- fails its CRC
deriving DecidableEq, Repr, Inhabited

/-- The applied configuration (R463) beside what stands in registers. -/
structure Config where
  cap : Nat
  gateIdleMs : Nat
  scanIntervalH : Nat
  maxRetire : Nat
  cePerS : Nat
  retrainPerH : Nat
  fatalAction : Nat
  buddyId : Nat
  buddyPorts : List Nat
  buddyMask : Nat
  buddyPresent : Bool
  floors : List Nat        -- margin floors, in the order of PC0 of R252
  retireCount : Nat
  retireHours : Nat
  bulkWeight : Nat
  busI3c : Bool
  busAddr : Nat
  mctpVdm : Bool
  ptpPorts : List Nat      -- logical ports for PTP (R426)
deriving DecidableEq, Repr, Inhabited

/-- A section of a configuration image (R463). -/
inductive CfgSection where
  | power (cap : Nat)
  | autonomy (gateIdleMs scanIntervalH maxRetire cePerS retrainPerH fatalAction : Nat)
  | fabric (regs : List (Nat × Nat)) (ptpPorts : List Nat)    -- register offset and value
  | buddy (id : Nat) (ports : List Nat) (mask : Nat)
  | hbm (floors : List Nat) (retireCount retireHours bulkWeight : Nat)
  | bus (i3c : Bool) (addr : Nat) (vdm : Bool)
  | other (id : Nat)
deriving DecidableEq, Repr, Inhabited

/-- A configuration image in flash (R461, R462). -/
structure CfgImage where
  fail : Nat               -- 0: header, sections and signature pass, else the reason of R486 (1 to 3, 7)
  keySlot : Nat
  keyDigest : Nat          -- SM3 digest of KEY
  bytes : List Byte
  sections : List CfgSection
deriving DecidableEq, Repr, Inhabited

/-- The ID of a section. -/
def CfgSection.id : CfgSection → Nat
  | .power _ => 1
  | .autonomy _ _ _ _ _ _ => 2
  | .fabric _ _ => 3
  | .buddy _ _ _ => 4
  | .hbm _ _ _ _ => 5
  | .bus _ _ _ => 6
  | .other n => n

/-- What the payload of a section says: the manual does not lay payloads out (R463; log entry 63). -/
opaque cfgSection : Nat → List Byte → CfgSection

/-- The firmware image in flash (R462, R465). -/
structure FwImage where
  ok : Bool
  version : Nat
  bytes : List Byte
deriving DecidableEq, Repr, Inhabited

/-- The thermal state of a section (R471), times in ns plus one. -/
structure Therm where
  hot : Nat                -- since when at 100 degrees or above, or under a hot stack, in steps of 1 ms taken; 0 not
  cool : Nat               -- since when below 97 degrees, in steps of 10 ms taken; 0 not
  hotAt : Nat              -- since when at 105 degrees or above; 0 not
  held : Bool              -- held at 200 MHz
deriving DecidableEq, Repr, Inhabited

/-- A deferred or waiting self-test (R477, R478). -/
structure Deferred where
  queue : Nat              -- 4096: of Bassoon itself
  func : Nat
  part : Nat
  seq : Nat
  target : Nat
  param : Nat
  deadline : Nat           -- ns of the time
  running : Bool
deriving DecidableEq, Repr, Inhabited

/-- An ACLK switch of a section (R19, R135). -/
structure ClockSwitch where
  new : Nat
  begun : Bool
deriving DecidableEq, Repr, Inhabited

/-- Staging of an image (R466). -/
structure Stage where
  target : Nat
  index : Nat
  page : Nat               -- window page
deriving DecidableEq, Repr, Inhabited

/-- Bassoon: boot, images, power, clocks, self-tests and the life ledger (R456-R488, R527-R535). -/
structure MgmtSys where
  power : Bool             -- PWRGD
  mode : BitVec 3          -- MODE pins
  buddyEn : Bool           -- BUDDY_EN pin
  bootStep : Nat           -- boot step in progress, 6 service, 0 none
  bootAt : Nat             -- ns: PWRGD rising, the WARM write or the fatal decision (R542)
  cause : Nat              -- 0 power-on, 1 warm reset by owner, 2 fatal, 3 watchdog, 4 THERMTRIP#
  cfg : Config
  flashFw : FwImage
  flashBase : CfgImage
  flashOverlay : Sparse CfgImage
  digests : Sparse Nat     -- SM3 digests of the running boot: 0 firmware, 1 base, 2 configuration, 3 overlay
  fwVersion : Nat          -- of the running firmware
  stage : Option Stage
  programming : Option (Nat × Nat × List Byte) -- target, index and image being programmed
  alert : Bool             -- ALERT# asserted
  thermtrip : Bool         -- THERMTRIP# asserted
  clocksOff : Bool         -- every clock but SCLK, FCLK and RCLK stopped
  restartAt : Nat          -- ns of the last watchdog expiry, plus one (R476)
  therm : Sparse Therm     -- per section
  stackHot : Sparse Bool   -- at or above 95 degrees, until below 90
  refresh2 : Sparse Bool   -- refresh doubled
  reached200 : Bool        -- the target reached 200 MHz in the current 10 ms window
  unmetAt : Nat            -- ns of the last POWER_CAP_UNMET, plus one
  calib : Nat              -- input power last reported
  idleSince : Sparse Nat   -- per section: ns of the last block's end, plus one
  gateAt : Sparse Nat      -- per section: ns of its gating, plus one; 0 its drain has ended
  switch : Sparse (Option ClockSwitch)
  lastSwitch : Nat         -- ns of the last switch start, plus one (R475)
  lastGate : Nat           -- ns of the last gating or ungating, plus one
  deferred : List Deferred
  ledger : List LedgerRec  -- in flash
  wait : List LedgerRec    -- created, not yet written
  nextSeq : Nat
  committing : Bool        -- a flash commit runs
  acts : Sparse Nat        -- per kind: acts of the running second
  actLow : Nat
  actHigh : Nat
  retune : Sparse Nat      -- per logical port: ns of the last retune, plus one
  retrain : Sparse (List Nat) -- per logical port: ns of its retrains
  fecAt : Sparse (List Nat)   -- per logical port: ns of its uncorrectable codewords in the last second (R468)
  portHeld : Sparse Bool   -- stays down until LP_CFG is rewritten
  eid : Nat
  spdm : Nat               -- 0 no version, 1 version answered, 2 capabilities, 3 algorithms
  vddSet : Sparse Nat      -- per half: ACLK in MHz for which VDD_CORE is set
  vddOk : Sparse Nat       -- per half: the last one confirmed
  vrHeld : Sparse Bool
  onAt : Nat               -- ns of the last PWRGD rise
  onNs : Nat               -- time powered before it, in ns (R481)
  stepAt : Nat             -- ns at which the boot step in progress began
  mapMade : Bool           -- MAP has been built since power-on
  tripCount : Nat
  fatalCount : Nat
  checks : List Nat        -- SEQs of the checkpoints
  retireMap : List Nat     -- channels the ledger records as retire-pending
  chanRegs : Sparse DWord  -- channel * 16 + word: counts of the last boot in which the channel was mapped (R256)
  incarnation : Nat
  collectAt : Nat          -- ns of the count collector's last frame (R494)
  collectCyc : Sparse Nat  -- per section: quarters of a cycle counted in its frames
  meterPending : List Nat  -- functions whose requested reading has not yet come (R511)
deriving DecidableEq, Repr, Inhabited

/-- What the fuses of the package hold: burned once (R3, R137, R462, R484, R430). -/
structure Chip where
  arrays : Nat             -- enabled arrays, bit c (R138)
  grade : Nat              -- 0 ZD8128, 1 ZD8112
  serial : Nat
  fwKey : Nat              -- SM3 digest of the firmware key
  cfgKey : Nat             -- SM3 digest of the Odkel configuration key
  chain : List Byte        -- the certificate chain of the identity area
  keyDigest : List Nat     -- operator key slots 0-3
  keyProg : List Bool
  keyRevoked : List Bool
deriving DecidableEq, Repr, Inhabited

end Sys2Proof.Machine
end

