-- ==== Sys2Proof/Machine/State.lean ====
section
/-! DEFINITION. The whole state of the block: the device with its registers, memories and units; the sealed meter Acorn
with its own state (R489, R490); the timestamp counter (R17); the fuses; and the queue of waiting commands. -/

namespace Sys2Proof.Machine

/-- The device: everything but Acorn, the timestamp counter and the fuses. A register of BAR0 has its one home in
`regs`, by offset; a register banked per function lies at its offset + 0x1000_0000 * (f + 1) (R432). -/
structure Dev where
  regs : Sparse DWord
  latch : Sparse (Option DWord)  -- f * 2^32 + offset: high half latched by a 4-byte read (R30)
  written : Sparse DWord         -- last value written to a register that acts on its whole value (R30)
  evq : Sparse Evq
  core : CoreSys
  mem : MemSys
  array : ArraySys
  ses : SesSys
  dma : DmaSys
  rt : RtSys
  fe : FeSys
  edu : EduSys
  fab : FabSys
  host : HostSys
  part : PartSys
  mgmt : MgmtSys
  cyc : Sparse Nat               -- per section: quarters of an ACLK cycle since reset (R17, R96)
  free : Nat                     -- the model's own counter of open values
  out : List Out                 -- the model's own record of what leaves the device
  act : Sparse ActivityRow       -- counts of the count collector since its last frame, per account; moved data in bytes (R494)
  toAcorn : List AcornFrame      -- the model's own record of frames sent to Acorn's input port (R18)
deriving DecidableEq, Repr, Inhabited

/-- What a command of the device reads and never writes: the timestamp counter and the fuses. -/
structure Env where
  time : Nat
  chip : Chip
deriving DecidableEq, Repr, Inhabited

/-- The machine: the device, Acorn beside it, the timestamp counter, the chip's fuses and the commands that wait (R17, R137, R489). -/
structure State where
  dev : Dev
  acorn : AcornSys
  time : DWord
  chip : Chip
  pending : List Instr
deriving DecidableEq, Repr

/-- No command of the table ends in a fault: an access to an address that names no resource has the outcome of R27. The
constructor is never raised; safe. -/
inductive Fault where
  | none
deriving DecidableEq, Repr

/-- Refusals. `notModelled`: raised by the dispatch alone, for a command with no meaning yet; safe. -/
inductive Refusal where
  | notModelled (mnemonic : String)
deriving DecidableEq, Repr

/-- The fuses of a ZD8128 whose operator key slots are not programmed (log entry 6). -/
def Chip.reset : Chip :=
  { arrays := 2 ^ 128 - 1, grade := 0, serial := 0, fwKey := 0, cfgKey := 0, chain := [],
    keyDigest := [0, 0, 0, 0], keyProg := [false, false, false, false], keyRevoked := [false, false, false, false] }

/-- The factory defaults of R464. -/
def Config.defaults : Config :=
  { cap := 900, gateIdleMs := 10, scanIntervalH := 24, maxRetire := 4, cePerS := 1000000, retrainPerH := 6,
    fatalAction := 1, buddyId := 0, buddyPorts := [], buddyMask := 0, buddyPresent := false,
    floors := [4, 4, 4, 4, 4, 4, 4, 4], retireCount := 8, retireHours := 72, bulkWeight := 4,
    busI3c := false, busAddr := 0x4C, mctpVdm := true, ptpPorts := [] }

/-- A base image that holds the factory defaults and passes (log entry 6). -/
def CfgImage.shipped : CfgImage :=
  { fail := 0, keySlot := 15, keyDigest := 0, bytes := [],
    sections := [.power 900, .autonomy 10 24 4 1000000 6 1, .fabric [] [], .buddy 0 [] 0, .hbm [4, 4, 4, 4, 4, 4, 4, 4] 8 72 4,
                 .bus false 0x4C true] }

/-- An overlay that replaces nothing and passes: what an overlay area holds where nothing else is listed (log entry 6). -/
def CfgImage.empty : CfgImage := { fail := 0, keySlot := 15, keyDigest := 0, bytes := [], sections := [] }

/-- An empty L1, no group, nothing in flight. -/
def CoreSys.reset : CoreSys :=
  { (default : CoreSys) with
    nextBlock := 1, nextLaunch := 1, nextId := 1, drainLast := [63, 127], drainUsed := [0, 0], drainWin := [0, 0] }

/-- Memory with nothing listed. -/
def MemSys.reset : MemSys := default

/-- Empty stores. -/
def SesSys.reset : SesSys := { (default : SesSys) with satMs := [Option.none, Option.none] }

/-- No entry, no request; the first request is number 1 (R332). -/
def RtSys.reset : RtSys := { (default : RtSys) with nextReq := 1 }

/-- No command, no graph. -/
def FeSys.reset : FeSys := { (default : FeSys) with nextNodeCtx := 512, nextRec := 1, nextRun := 1 }

/-- Both ports with PERST# asserted and CRS in force (log entry 7). -/
def HostSys.reset : HostSys :=
  { (default : HostSys) with crs := [(0, true), (1, true)], perst := [(0, true), (1, true)] }

/-- Bassoon before power-on: the factory defaults of R464, an empty ledger whose first record is number 1 (R480), a
flash whose images pass (log entry 6). -/
def MgmtSys.reset : MgmtSys :=
  { (default : MgmtSys) with
    cfg := Config.defaults, nextSeq := 1, flashFw := { ok := true, version := 0, bytes := [] }, flashBase := CfgImage.shipped,
    actLow := 800, actHigh := 800, vddSet := [(0, 800), (1, 800)], vddOk := [(0, 800), (1, 800)] }

/-- The device as it stands before PWRGD rises: every register at its reset value. -/
def Dev.reset : Dev :=
  { regs := [], latch := [], written := [], evq := [], core := CoreSys.reset, mem := MemSys.reset, array := default,
    ses := SesSys.reset, dma := default, rt := RtSys.reset, fe := FeSys.reset, edu := default, fab := default,
    host := HostSys.reset, part := default, mgmt := MgmtSys.reset, cyc := [], free := 0, out := [], act := [], toAcorn := [] }

/-- The machine right after reset, before PWRGD rises (R530). -/
def State.reset : State :=
  { dev := Dev.reset, acorn := default, time := 0, chip := Chip.reset, pending := [] }

end Sys2Proof.Machine
end

