-- ==== Sys2Proof/Machine/Ops.lean ====
section
/-! DEFINITION. Named operations every family uses: register access (R8-R10), event records (R374-R383), MSI-X (R434),
autonomous acts (R468), trace packets (R515-R518), frames to Acorn (R18). -/

namespace Sys2Proof.Machine

/-! Registers. -/

/-- The whole register at an offset. -/
def Dev.reg (d : Dev) (off : Nat) : Nat := (d.regs.get regReset off).toNat

/-- Stores a whole register. -/
def Dev.setReg (d : Dev) (off v : Nat) : Dev := { d with regs := d.regs.put off (BitVec.ofNat 64 v) }

/-- A named field. -/
def Dev.get (d : Dev) (f : Fld) : Nat := bits (d.reg f.off) f.lo f.w

/-- Stores a named field; the other fields of its register keep their values. -/
def Dev.put (d : Dev) (f : Fld) (v : Nat) : Dev := d.setReg f.off (setBits (d.reg f.off) f.lo f.w v)

/-- Adds to a counter that holds at its largest value. -/
def Dev.bump (d : Dev) (f : Fld) (n : Nat) : Dev := d.put f (satAdd f.w (d.get f) n)

/-- Adds to a counter that wraps. -/
def Dev.incr (d : Dev) (f : Fld) : Dev := d.put f (d.get f + 1)

/-- A field of a register banked per function, in function f's copy (R432). -/
def Fld.bank (x : Fld) (f : Nat) : Fld := { x with off := x.off + 0x10000000 * (f + 1) }

/-- A fresh open value; the counter advances (log entry 10). -/
def Dev.fresh (d : Dev) : Nat × Dev := (Config.freeNat d.free, { d with free := d.free + 1 })

/-! What leaves the device. -/

/-- Records something sent to the outside. -/
def Dev.emit (d : Dev) (o : Out) : Dev := { d with out := d.out ++ [o] }

/-- Vectors of a function (R434). -/
def vectors (f : Nat) : Nat := if f % 16 = 0 then 2048 else 64

/-- A word of a function's MSI-X table, two to a vector; an unwritten entry is masked (R434; log entry 76). -/
def Dev.msixWord (d : Dev) (f w : Nat) : DWord :=
  d.host.msix.get (fun k => if k % 2 = 1 then BitVec.ofNat 64 (2 ^ 32) else 0) (f * 0x1000 + w)

/-- A function's vector is masked: bit 0 of the last dword of its entry. -/
def Dev.msixMasked (d : Dev) (f vector : Nat) : Bool := (d.msixWord f (2 * vector + 1)).getLsbD 32

/-- Raises an MSI-X vector, or leaves it pending where it is masked; one beyond the function's table raises nothing (R434). -/
def Dev.msix (d : Dev) (f vector : Nat) : Dev :=
  if vector < vectors f then
    if d.msixMasked f vector then
      let k := f * 32 + vector / 64
      { d with host := { d.host with pba := d.host.pba.put k (d.host.pba.look k ||| BitVec.ofNat 64 (2 ^ (vector % 64))) } }
    else d.emit (.msix f vector)
  else d

/-- A PlatformEventMessage of Bassoon over MCTP (R483): the record's code and its payload word (log entry 22). -/
def Dev.platformEvent (d : Dev) (code payload : Nat) : Dev := d.emit (.mctp (BitVec.ofNat 8 code :: leBytes 8 payload))

/-! Event FIFOs. -/

/-- An empty FIFO. -/
def Evq.empty : Evq := default

/-- FIFO i. -/
def Dev.fifo (d : Dev) (i : Nat) : Evq := d.evq.look i

/-- Replaces FIFO i. -/
def Dev.setFifo (d : Dev) (i : Nat) (q : Evq) : Dev := { d with evq := d.evq.put i q }

/-- Capacity in words (R373). -/
def evqCapacity (i : Nat) : Nat := if i < 32 then 256 else if i < 34 then 1024 else 16384

/-- The number of FIFOs (R373). -/
def evqCount : Nat := 35

/-- Whole records held: the end marks (R376). -/
def Evq.pkts (q : Evq) : Nat := (q.words.filter (fun w => w.fin)).length

/-- The physical function of the control-owner port, if a port owns control (R435). -/
def Dev.ownerFunc (d : Dev) : Option Nat :=
  match d.get GLOBAL_OWNER.OWNER with
  | 0 => some 0
  | 1 => some 16
  | _ => Option.none

/-- The reader of FIFO i (R373). -/
def Dev.evqReader (d : Dev) (i : Nat) : Option Nat :=
  if i < 32 then some i else if i = 32 then some 0 else if i = 33 then some 16 else d.ownerFunc

/-- Discards whole records from the front until at most `room` words are held; the count of records discarded
(R380). `mid`: inside a record that is being discarded. -/
def makeRoom (room : Nat) : Bool → List EvqWord → Nat × List EvqWord
  | _, [] => (0, [])
  | mid, w :: t =>
    if !mid && decide ((w :: t).length ≤ room) then (0, w :: t)
    else
      let r := makeRoom room (!w.fin) t
      (r.1 + b2n w.fin, r.2)

/-- The interrupt threshold of FIFO i (R383). -/
def Dev.evqThresh (d : Dev) (i : Nat) : Nat := max 1 (d.get (EVQ_CTL.THRESH i))

/-- Raises the FIFO's vector when it is armed, enabled and at its threshold, and disarms it (R383). -/
def Dev.evqInterrupt (d : Dev) (i : Nat) : Dev :=
  let q := d.fifo i
  if q.armed && d.get (EVQ_CTL.IRQ_EN i) == 1 && decide (d.evqThresh i ≤ q.pkts) then
    let d := d.setFifo i { q with armed := false }
    match d.evqReader i with
    | some f => d.msix f (d.get (EVQ_CTL.VECTOR i))
    | Option.none => d
  else d

/-- The words of a record: header, timestamp, payload (R375). -/
def recordWords (code rseq func part time : Nat) (payload : List Nat) : List Nat :=
  (code + payload.length.succ * 0x100 + (rseq % 65536) * 0x10000 + (func % 32) * 0x100000000 + (part % 32) * 0x2000000000)
    :: time :: payload

/-- The last word of a list of data words carries the end mark. -/
def markEnd : List Nat → List EvqWord
  | [] => []
  | [x] => [{ data := BitVec.ofNat 64 x, fin := true, bad := false }]
  | x :: y :: t => { data := BitVec.ofNat 64 x, fin := false, bad := false } :: markEnd (y :: t)

/-- A FIFO after a record of the given payload is written (R375, R380). -/
def Evq.write (q : Evq) (cap code func part time : Nat) (payload : List Nat) : Evq :=
  let ws := markEnd (recordWords code q.rseq func part time payload)
  let r := makeRoom (cap - ws.length) false q.words
  { q with
    words := r.2 ++ ws
    rp := (q.rp + (q.words.length - r.2.length)) % (2 * cap)
    wp := (q.wp + ws.length) % (2 * cap)
    rseq := (q.rseq + 1) % 65536
    lost := satAdd 32 q.lost r.1 }

/-- Writes one record into FIFO i (R375, R380, R383). -/
def Dev.evqWrite (e : Env) (d : Dev) (i code func part : Nat) (payload : List Nat) : Dev :=
  (d.setFifo i ((d.fifo i).write (evqCapacity i) code func part e.time payload)).evqInterrupt i

/-- Writes a record into each of several FIFOs, each copy independently (R374). -/
def Dev.evqWriteAll (e : Env) (d : Dev) (is : List Nat) (code func part : Nat) (payload : List Nat) : Dev :=
  is.foldl (fun d i => d.evqWrite e i code func part payload) d

/-- The function FIFOs whose PART_MASK includes partition p (R374). -/
def Dev.partFifos (d : Dev) (p : Nat) : List Nat :=
  (List.range 32).filter (fun f => bit (d.get (EVQ_CFG.PART_MASK f)) p)

/-- Class F: to the function's FIFO. -/
def Dev.postF (e : Env) (d : Dev) (code f part : Nat) (payload : List Nat) : Dev :=
  d.evqWrite e f code f part payload

/-- Class P: to every function that serves the partition; with no partition concerned, to both error FIFOs. -/
def Dev.postP (e : Env) (d : Dev) (code part : Nat) (payload : List Nat) : Dev :=
  if part < 16 then d.evqWriteAll e (d.partFifos part) code 31 part payload
  else d.evqWriteAll e [32, 33] code 31 31 payload

/-- Class D: to both error FIFOs. -/
def Dev.postD (e : Env) (d : Dev) (code func part : Nat) (payload : List Nat) : Dev :=
  d.evqWriteAll e [32, 33] code func part payload

/-- Class DA: to both error FIFOs and every function FIFO whose PART_MASK is not 0. -/
def Dev.postDA (e : Env) (d : Dev) (code : Nat) (payload : List Nat) : Dev :=
  d.evqWriteAll e ([32, 33] ++ (List.range 32).filter (fun f => d.get (EVQ_CFG.PART_MASK f) != 0)) code 31 31 payload

/-- Class T: to the telemetry FIFO. -/
def Dev.postT (e : Env) (d : Dev) (code func part : Nat) (payload : List Nat) : Dev :=
  d.evqWrite e 34 code func part payload

/-! Autonomous acts. -/

/-- An autonomous act: AUTO_ACT to the telemetry FIFO, MGMT_AUTO.ACTS, and the count of the running second (R468). -/
def Dev.autoAct (e : Env) (d : Dev) (kind index old new cause : Nat) : Dev :=
  let d := d.postT e 0x80 31 31
    [kind + (index % 256) * 0x100 + (old % 65536) * 0x10000 + (new % 65536) * 0x100000000 + (cause % 256) * 0x1000000000000]
  let d := d.bump MGMT_AUTO.ACTS 1
  { d with mgmt := { d.mgmt with acts := d.mgmt.acts.put kind (d.mgmt.acts.look kind + 1) } }

/-- Sends a frame to Acorn's input port (R18, R499). -/
def Dev.sendAcorn (d : Dev) (i : AcornFrame) : Dev := { d with toAcorn := d.toAcorn ++ [i] }

/-- Bassoon's report of a partition or configuration change (R499). -/
def Dev.report (e : Env) (d : Dev) (m : AcornMsg) : Dev :=
  d.sendAcorn (.report e.time m)

/-! Activity counts for Acorn (R494, R495, R498). -/

/-- The account of a partition: 16 is the device account (R493). -/
def acctOf (part : Nat) : Nat := if part < 16 then part else 16

/-- Changes the counts of an account in the interval in progress. -/
def Dev.charge (d : Dev) (part : Nat) (f : ActivityRow → ActivityRow) : Dev :=
  { d with act := d.act.put (acctOf part) (f (d.act.look (acctOf part))) }

/-- Bytes moved for a partition over the scratchpads, the L2 and the network-on-chip. -/
def Dev.moved (d : Dev) (part n : Nat) : Dev := d.charge part (fun r => { r with moved128 := r.moved128 + n })

/-- HBM sectors moved for a partition. -/
def Dev.sectors (d : Dev) (part n : Nat) : Dev := d.charge part (fun r => { r with sectors := r.sectors + n })

/-- Bytes sent or received over the fabric under a partition's tag. -/
def Dev.fabMoved (d : Dev) (part n : Nat) : Dev := d.charge part (fun r => { r with fabric64 := r.fabric64 + n })

/-- A list of k counts with n added at a place. -/
def addAt (k : Nat) (l : List Nat) (i n : Nat) : List Nat := (List.range k).map (fun j => l.getD j 0 + (if j = i then n else 0))

/-! Cores. -/

/-- The key of a group's place (R12, R38). -/
def gidKey (g : Gid) : Nat := g.core * 64 + g.quarter * 16 + g.slot

/-- The place of a key. -/
def gidOf (k : Nat) : Gid := { core := k / 64, quarter := k / 16 % 4, slot := k % 16 }

/-- The group at a place. -/
def Dev.grp (d : Dev) (g : Gid) : Group := d.core.groups.look (gidKey g)

/-- Replaces the group at a place. -/
def Dev.setGrp (d : Dev) (g : Gid) (x : Group) : Dev :=
  { d with core := { d.core with groups := d.core.groups.put (gidKey g) x } }

/-- The section of a core (R12). -/
def sectOf (c : Nat) : Nat := c / 8

/-- The half of a core (R12). -/
def halfOf (c : Nat) : Nat := c / 64

/-- A launch by its identity. -/
def Dev.launchOf (d : Dev) (id : Nat) : Launch := (d.core.launches.find? (fun l => l.id == id)).getD default

/-- Replaces a launch. -/
def Dev.setLaunch (d : Dev) (l : Launch) : Dev :=
  { d with core := { d.core with launches := d.core.launches.map (fun x => if x.id == l.id then l else x) } }

/-- The owner of a section: a partition, or 31 (R443). -/
def Dev.sectOwner (d : Dev) (s : Nat) : Nat :=
  ((List.range 16).find? (fun p => bit (d.get (PART_CFG.SECTIONS p)) s)).getD 31

/-- Counts a programmable event for a quarter (none: for the core) and a partition (R524). -/
def Dev.pmc (d : Dev) (core : Nat) (quarter : Option Nat) (part code n : Nat) : Dev :=
  (List.range 8).foldl (fun d i =>
    let pm := d.get (PMC_SEL.PART_MASK core i)
    let qm := d.get (PMC_SEL.QMASK core i)
    let pbit := if part < 16 then part else 16
    let here := match quarter with
      | some q => bit qm q
      | Option.none => true
    if d.get (PMC_SEL.EVENT core i) == code && bit pm pbit && here then d.bump (PMC.COUNT core i) n else d) d

/-- A packet that finds no free slot beside the LOST slot is dropped and counted; a pending LOST goes in first (R518). -/
def TraceBuf.pushIn (b : TraceBuf) (p : Trace) (lostPkt : Nat → Trace) : TraceBuf × Nat :=
  if b.lost = 0 then
    if b.packets.length < 1023 then ({ b with packets := b.packets ++ [p] }, 0)
    else ({ b with lost := 1 }, 1)
  else if b.packets.length < 1022 then
    ({ b with packets := b.packets ++ [lostPkt b.lost, p], lost := 0 }, 0)
  else ({ b with lost := satAdd 32 b.lost 1 }, 1)

/-- Word 0 of a trace packet (R515). -/
def traceW0 (kind : Nat) (g : Gid) (payload : Nat) : DWord :=
  BitVec.ofNat 64 (kind + g.quarter * 16 + g.slot * 64 + g.core * 1024 + (payload % 2 ^ 32) * 2 ^ 32)

/-- A core emits a packet of a kind for a partition, under the masks of REC_CTL (R515-R518). -/
def Dev.trace (e : Env) (d : Dev) (kind : Nat) (g : Gid) (part payload : Nat) : Dev :=
  let pbit := if part < 16 then part else 16
  if d.get REC_CTL.ENABLE == 1 && bit (d.get REC_CTL.KIND_MASK) (kind - 1) && bit (d.get REC_CTL.PART_MASK) pbit then
    let ts := BitVec.ofNat 64 e.time
    let r := (d.core.trace.look g.core).pushIn { w0 := traceW0 kind g payload, w1 := ts, part := part }
      (fun n => { w0 := traceW0 0 { core := g.core, quarter := 0, slot := 0 } n, w1 := ts, part := 31 })
    let d := { d with core := { d.core with trace := d.core.trace.put g.core r.1 } }
    d.bump (TRACE_STATUS.DROPS g.core) r.2
  else d

/-- Packets of a core's buffer are discarded: counted in DROPS and reported by the next LOST (R522; log entry 70). -/
def Dev.traceDiscard (d : Dev) (c : Nat) (p : Trace → Bool) : Dev :=
  let b := d.core.trace.look c
  let n := (b.packets.filter p).length
  if n = 0 then d
  else
    let b := { b with packets := b.packets.filter (fun t => !p t), lost := satAdd 32 b.lost n }
    ({ d with core := { d.core with trace := d.core.trace.put c b } } : Dev).bump (TRACE_STATUS.DROPS c) n

/-- Elapsed quarters of an ACLK cycle of a section. -/
def Dev.cycles (d : Dev) (s : Nat) : Nat := d.cyc.look s

end Sys2Proof.Machine
end

