-- ==== Sys2Proof/Machine/Operands.lean ====
section
/-! DEFINITION. Operand specifiers of the Atper instruction set (R69, R72-R74): reading, writing and checking the operands
of one instruction of a group. -/

namespace Sys2Proof.Machine

/-- Code of vZ. -/
def vZ : Nat := 0xFF
/-- Code of IMM. -/
def immCode : Nat := 0x1FF

/-- A v register of a lane. -/
def Group.rv (x : Group) (r lane : Nat) : Nat := (x.v.look (32 * r + lane)).toNat
/-- A u register. -/
def Group.ru (x : Group) (r : Nat) : Nat := (x.u.look r).toNat
/-- Writes a v register of a lane. -/
def Group.setV (x : Group) (r lane v : Nat) : Group := { x with v := x.v.put (32 * r + lane) (BitVec.ofNat 32 v) }
/-- Writes a u register. -/
def Group.setU (x : Group) (r v : Nat) : Group := { x with u := x.u.put r (BitVec.ofNat 32 v) }
/-- A predicate as a mask of lanes. -/
def Group.predMask (x : Group) (p : Nat) : Nat := (x.p.look p).toNat
/-- Writes a predicate in the lanes of a mask (R75). -/
def Group.setPred (x : Group) (p mask v : Nat) : Group :=
  let old := x.predMask p
  { x with p := x.p.put p (BitVec.ofNat 32 ((old - (old &&& mask)) + (v &&& mask))) }

/-- Reads an operand code in a lane (R69). -/
def Group.rd (x : Group) (imm : Word) (code lane : Nat) : Nat :=
  if code < 0xFF then x.rv code lane
  else if code = 0xFF then 0
  else if code < 0x140 then x.ru (code - 0x100)
  else if code = 0x1FF then imm.toNat
  else 0

/-- Writes an operand code in a lane; vZ discards (R69). -/
def Group.wr (x : Group) (code lane v : Nat) : Group :=
  if code < 0xFF then x.setV code lane v
  else if code = 0xFF then x
  else if code < 0x140 then x.setU (code - 0x100) v
  else x

/-- Reads n registers from a base as one number; vZ and IMM as a base stand for the whole operand (R73). -/
def Group.rdN (x : Group) (imm : Word) (n code lane : Nat) : Nat :=
  if code = vZ ∨ code = immCode then x.rd imm code lane
  else (List.range n).foldl (fun v i => v + x.rd imm (code + i) lane * 2 ^ (32 * i)) 0

/-- Writes n registers from a base; vZ as a base discards all (R73). -/
def Group.wrN (x : Group) (n code lane v : Nat) : Group :=
  if code = vZ then x
  else (List.range n).foldl (fun x i => x.wr (code + i) lane (bits v (32 * i) 32)) x

/-- What an operand field may name. -/
inductive OpKind where
  | any      -- a v or u register, vZ, or IMM where it is a source
  | uni      -- as any, but no v register (R92)
  | udst     -- a u register or vZ
  | pred     -- a predicate code 0-7 (R79)
  | zero     -- vZ alone
deriving DecidableEq, Repr

/-- One operand of an instruction: its code, whether it is written, its registers, and what it may name. -/
structure Opnd where
  code : Nat
  dst : Bool
  n : Nat
  kind : OpKind
deriving DecidableEq, Repr

/-- A source. -/
def src (code : BitVec 9) (n : Nat := 1) : Opnd := ⟨code.toNat, false, n, .any⟩
/-- A destination. -/
def dst (code : BitVec 9) (n : Nat := 1) : Opnd := ⟨code.toNat, true, n, .any⟩
/-- A uniform source; vZ counts as 0 (R92; for RDLANE and FTAB.LD see log entry 78). -/
def usrc (code : BitVec 9) (n : Nat := 1) : Opnd := ⟨code.toNat, false, n, .uni⟩
/-- A uniform destination. -/
def udst (code : BitVec 9) (n : Nat := 1) : Opnd := ⟨code.toNat, true, n, .udst⟩
/-- A predicate. -/
def psrc (code : BitVec 9) : Opnd := ⟨code.toNat, false, 0, .pred⟩
/-- A field that must be vZ. -/
def vzero (code : BitVec 9) : Opnd := ⟨code.toNat, false, 0, .zero⟩

/-- The code names a v register. -/
def isV (c : Nat) : Bool := decide (c < 0xFF)
/-- The code names a u register. -/
def isU (c : Nat) : Bool := decide (0x100 ≤ c) && decide (c < 0x140)

/-- The operand is well formed for an allocation of v registers (R69, R72, R73). `x`: the instruction has 128 bits. -/
def Opnd.ok (alloc : Nat) (x : Bool) (o : Opnd) : Bool :=
  match o.kind with
  | .pred => decide (o.code < 8)
  | .zero => o.code == vZ
  | _ =>
    if o.code = vZ then true
    else if isV o.code then
      o.kind == .any && o.code % o.n == 0 && decide (o.code + o.n ≤ min alloc 255)
    else if isU o.code then (o.code - 0x100) % o.n == 0 && decide (o.code - 0x100 + o.n ≤ 64)
    else if o.code = immCode then !o.dst && x && o.kind != .udst
    else false

/-- The registers an operand names, as codes. -/
def Opnd.regs (o : Opnd) : List Nat :=
  if isV o.code || isU o.code then (List.range o.n).map (fun i => o.code + i) else []

/-- A u destination with a v source (R74). -/
def mixed (os : List Opnd) : Bool :=
  os.any (fun o => o.dst && o.kind == .any && isU o.code) && os.any (fun o => !o.dst && o.kind == .any && isV o.code)

/-- Every destination and source is a u register or IMM: the instruction runs once (R74). -/
def uniform (os : List Opnd) : Bool :=
  os.all (fun o => match o.kind with
    | .any => isU o.code || o.code == immCode
    | _ => true)

/-- Registers that accesses in flight will write (R39, R540). -/
def Group.pendingRegs (x : Group) : List Nat :=
  x.accs.flatMap (fun a => if a.d = vZ then [] else (List.range ((a.size + 3) / 4)).map (fun i => a.d + i))

/-- No register of the operands waits for an access in flight. -/
def Group.regsFree (x : Group) (os : List Opnd) : Bool :=
  os.all (fun o => o.regs.all (fun r => !x.pendingRegs.contains r))

/-- The lanes that execute an instruction under its guard (R70). -/
def Group.execMask (x : Group) (guard : BitVec 5) : Nat :=
  let m := x.mask.toNat
  if guard.getLsbD 4 then
    let p := m &&& x.predMask (guard.toNat % 8)
    if guard.getLsbD 3 then m - p else p
  else m

/-- The lanes of a mask, ascending. -/
def lanesOf (m : Nat) : List Nat := maskList 32 m

/-- The lowest lane of a mask. -/
def lowLane (m : Nat) : Nat := (lanesOf m).headD 0

/-- The live lanes of a group (R36). -/
def Group.live32 (x : Group) : Nat := (~~~x.exited).toNat

end Sys2Proof.Machine
end

