-- ==== Sys2Proof/Machine/Flags.lean ====
section
/-! DEFINITION. The group flag word (R76): sticky flags, and the flags of each operation over the lanes of a group. -/

namespace Sys2Proof.Machine

/-- Sets sticky flags (R76, R149, R151). -/
def Group.addFlags (x : Group) (f : Nat) : Group := { x with flags := x.flags ||| BitVec.ofNat 5 f }

/-- Clears the flag word (R76). -/
def Group.clearFlags (x : Group) : Group := { x with flags := 0 }

/-- A per-lane result with flags. -/
abbrev LaneResult := Nat × Nat

/-- Applies an operation in the executing lanes, or once where it is uniform: every source is read before a destination
is written, and the flags of every lane are collected (R70, R74, R76). -/
def Group.mapLanes (x : Group) (em : Nat) (os : List Opnd) (n code : Nat) (f : Nat → LaneResult) : Group :=
  let ls := if uniform os then (lanesOf em).take 1 else lanesOf em
  let rs := ls.map (fun l => (l, f l))
  (rs.foldl (fun y r => y.wrN n code r.1 r.2.1) x).addFlags (rs.foldl (fun a r => a ||| r.2.2) 0)

/-- Writes a comparison into a predicate: in the executing lanes, or in every lane where it is uniform (R75). -/
def Group.compareLanes (x : Group) (em : Nat) (os : List Opnd) (pd : Nat) (f : Nat → Bool × Nat) : Group :=
  let uni := uniform os
  let ls := if uni then (lanesOf em).take 1 else lanesOf em
  let rs := ls.map (fun l => (l, f l))
  let m := maskOf ((rs.filter (fun r => r.2.1)).map (fun r => r.1))
  let y := if uni && em != 0 then x.setPred pd (2 ^ 32 - 1) (if m = 0 then 0 else 2 ^ 32 - 1) else x.setPred pd em m
  y.addFlags (rs.foldl (fun a r => a ||| r.2.2) 0)

end Sys2Proof.Machine
end

