-- ==== Sys2Proof/Machine/Mem.lean ====
section
/-! DEFINITION. Addresses, homes and ownership: the local map and the fabric form (R21-R27), the HBM interleave (R242),
shares and common regions (R243, R447-R450), the scratchpad hash and bank-set owners (R195, R201), sync blocks (R290,
R312); reading and writing bytes at their homes with their poison marks (R218, R237-R240, R245, R254, R453). -/

namespace Sys2Proof.Machine

/-! Plain bytes. Memory is a canonical list of cells; an unlisted byte reads 0 (log entry 1). -/

/-- What a byte that nothing has written reads as (log entry 1). -/
def memDefault : Nat → Byte := fun _ => 0

/-- One byte of memory. -/
def readByte (m : List Host.Cell) (a : Nat) : Byte := Sparse.get memDefault m a

/-- Memory with one byte written, in canonical form. -/
def writeByte (m : List Host.Cell) (a : Nat) (b : Byte) : List Host.Cell := Sparse.set memDefault m a b

/-- The canonical form of memory. -/
def Memory.wf (m : List Host.Cell) : Bool := Sparse.wf memDefault m

/-- The n bytes from an address. -/
def readBytes (m : List Host.Cell) (a n : Nat) : List Byte := (List.range n).map (fun i => readByte m (a + i))

/-- Memory with bytes written from an address. -/
def writeBytes (m : List Host.Cell) (a : Nat) : List Byte → List Host.Cell
  | [] => m
  | b :: t => writeBytes (writeByte m a b) (a + 1) t

/-- Memory with the listed bytes written in order. -/
def writeCells (m : List Host.Cell) : List (Nat × Byte) → List Host.Cell
  | [] => m
  | (a, b) :: t => writeCells (writeByte m a b) t

/-- Memory with the addresses from lo up to but not at hi back at what an unlisted byte reads as: zeroed. -/
def zeroRange (m : List Host.Cell) (lo hi : Nat) : List Host.Cell := Sparse.clearRange m lo hi

/-! The map. -/

def hbmEnd : Nat := 0xA000000000
def spBase : Nat := 0xC000000000
def spStride : Nat := 0x800000
def spSize : Nat := 0x600000
def sesBase : Nat := 0xD000000000
def sesBarBase : Nat := 0xD000080000
def sesEnd : Nat := 0xD0000A0000
def winBase : Nat := 0x10000000000
def shareBytes : Nat := 0x140000000

/-- What an address names (R21-R27). -/
inductive Place where
  | hbm (a : Nat)
  | sp (core off : Nat)
  | ses (a : Nat)
  | host (n x : Nat)
  | fab (id off : Nat)
  | unmapped
deriving DecidableEq, Repr, Inhabited

/-- Channels mapped, Cu (R242). -/
def Dev.cu (d : Dev) : Nat := d.get HBM_CAPACITY.CHANNELS

/-- The usable capacity (R23). -/
def Dev.capacity (d : Dev) : Nat := d.cu * shareBytes

/-- A port's window is usable: link up and ENABLE set (R22). -/
def Dev.windowUp (d : Dev) (n : Nat) : Bool :=
  d.get (HOST_PORT.LINK_UP n) == 1 && d.get (HOST_WIN.ENABLE n) == 1

/-- What a local physical address names. HBM names nothing in the maintenance state (R479), nor does a failed core's
scratchpad (R219). -/
def Dev.placeLocal (d : Dev) (a : Nat) : Place :=
  if a < hbmEnd then
    if a < d.capacity ∧ d.get MGMT_MAINT.ACTIVE = 0 then .hbm a else .unmapped
  else if spBase ≤ a ∧ a < spBase + 128 * spStride then
    let c := (a - spBase) / spStride
    let o := (a - spBase) % spStride
    if o < spSize ∧ d.get (SP_STATUS.FAILED c) = 0 then .sp c o else .unmapped
  else if sesBase ≤ a ∧ a < sesEnd then .ses a
  else if winBase ≤ a ∧ a < 3 * winBase then
    let n := a / winBase - 1
    if d.windowUp n then .host n (a % winBase) else .unmapped
  else .unmapped

/-- A valid routing entry serves the fabric ID (R398). -/
def Dev.routed (d : Dev) (id : Nat) : Bool :=
  let w := (d.fab.route.get (fun _ => (0, 0)) (id % 65536)).1.toNat
  bits w 0 20 == id && bit w 20

/-- What a 64-bit address names (R24, R25, R27, R398). -/
def Dev.place (d : Dev) (a : Nat) : Place :=
  if a.testBit 63 then
    if bits a 60 3 ≠ 0 then .unmapped
    else
      let id := bits a 40 20
      if id = 0xFFFFF then .unmapped
      else if id = 0 ∨ id = d.get FAB_ID.ID then d.placeLocal (a % 2 ^ 40)
      else if d.routed id then .fab id (a % 2 ^ 40)
      else .unmapped
  else if bits a 42 21 ≠ 0 then .unmapped
  else d.placeLocal a

/-- The local address of a scratchpad byte. -/
def spAddr (c o : Nat) : Nat := spBase + c * spStride + o

/-! The HBM interleave (R242, R243). -/

/-- The channel of a local HBM address. -/
def Dev.chanOf (d : Dev) (a : Nat) : Nat :=
  let n := a / 256
  let cu := d.cu
  if cu = 0 then 0 else (d.mem.chanMap.getD ((n + n / cu) % cu) 0)

/-- The offset of a local HBM address in its channel (R242). -/
def Dev.chanLocal (d : Dev) (a : Nat) : Nat := (a / 256 / d.cu) * 256 + a % 256

/-- The pseudo-channel of a local HBM address (R242). -/
def Dev.pseudoOf (d : Dev) (a : Nat) : Nat := a / 256 / d.cu % 2

/-- The L2 slice of a sector: the stack of its channel (R237). -/
def Dev.sliceOf (d : Dev) (sector : Nat) : Nat := d.chanOf (sector * 32) / 16

/-- The share of a local HBM address (R243). -/
def shareOf (a : Nat) : Nat := a / shareBytes

/-- The channel is down (R254). -/
def Dev.chanDown (d : Dev) (g : Nat) : Bool := d.get (HBM_CH_STATUS.STATE g) == 3

/-! Ownership (R201, R312, R444, R450). -/

/-- Who acts: from a kernel queue, for a partition (31 none), as a DMA engine, as the march test engine. -/
structure Agent where
  kernel : Bool
  part : Nat
  dma : Bool
  march : Bool
deriving DecidableEq, Repr, Inhabited

/-- Table: Bank-set owners and who reaches them (R201). -/
def Agent.reaches (g : Agent) (owner : Nat) : Bool :=
  if g.march then owner == 17
  else if owner < 16 then g.kernel || g.part == owner
  else if owner == 16 then g.kernel || g.dma
  else if owner == 31 then g.kernel
  else false

/-- The bank set of a scratchpad offset (R194, R195). -/
def bankSet (o : Nat) : Nat := (o / 2048 % 16) ^^^ (o / 524288)

/-- The bank of a scratchpad offset (R195). -/
def bankOf (o : Nat) : Nat := (o / 128 % 256) ^^^ (o / 32768)

/-- The row of a scratchpad offset in its bank (R195). -/
def rowOf (o : Nat) : Nat := o / 32768

/-- The offset of row h of bank b (R195). -/
def spOffset (b h : Nat) : Nat := h * 32768 + ((b ^^^ h) % 256) * 128

/-- OWNER of a bank set (R203). -/
def SP_OWN.OWNER (c k : Nat) : Fld := ⟨SP_OWN.off c (k / 4), 16 * (k % 4), 5⟩
/-- PRIOR of a bank set (R203). -/
def SP_OWN.PRIOR (c k : Nat) : Fld := ⟨SP_OWN.off c (k / 4), 16 * (k % 4) + 5, 5⟩
/-- PENDING of a bank set (R203). -/
def SP_OWN.PENDING (c k : Nat) : Fld := ⟨SP_OWN.off c (k / 4), 16 * (k % 4) + 10, 1⟩

/-- The bank sets that the n bytes from an offset touch. -/
def setsOf (o n : Nat) : List Nat :=
  let first := o / 2048
  let last := (o + n - 1) / 2048
  if n = 0 then [] else
  if 16 * 16 ≤ last - first then List.range 16
  else ((List.range (last - first + 1)).map (fun i => bankSet ((first + i) * 2048))).eraseDups

/-- The agent reaches every bank set that the bytes touch; a set in a handover is refused (R201, R205). -/
def Dev.spAdmits (d : Dev) (g : Agent) (c o n : Nat) : Bool :=
  (setsOf o n).all (fun k => d.get (SP_OWN.PENDING c k) == 0 && g.reaches (d.get (SP_OWN.OWNER c k)))

/-- The agent reaches an HBM byte: its share's owner admits it, or the share is of a common region that it reads
(R444, R450). -/
def Dev.hbmAdmits (d : Dev) (g : Agent) (a : Nat) (write : Bool) : Bool :=
  let i := shareOf a
  let o := d.get (SHARE_OWN.OWNER i)
  if o = 18 then
    g.kernel || (!write && decide (g.part < 16) && bit (d.get (CR_READERS.MASK (d.get (SHARE_OWN.REGION i)))) g.part)
  else if o < 16 then g.kernel || g.part == o
  else g.kernel

/-- The Sesame words (R290). -/
inductive SesWord where
  | sem (i : Nat)
  | barState (n : Nat)
  | barConfig (n : Nat)
  | produced (m : Nat)
  | consumed (m : Nat)
  | limit (m : Nat)
  | reserved (m : Nat)
deriving DecidableEq, Repr, Inhabited

/-- The word of a local Sesame address (R21, R290). -/
def sesWord (a : Nat) : SesWord :=
  if a < sesBarBase then .sem ((a - sesBase) / 8)
  else
    let st := (a - sesBarBase) / 0x10000
    let r := (a - sesBarBase) % 0x10000
    if r < 0x8000 then
      let n := st * 2048 + r / 16
      if r / 8 % 2 = 0 then .barState n else .barConfig n
    else
      let m := st * 1024 + (r - 0x8000) / 32
      match (r - 0x8000) / 8 % 4 with
      | 0 => .produced m
      | 1 => .consumed m
      | 2 => .limit m
      | _ => .reserved m

/-- The address of a Sesame word (R21, R290). -/
def sesAddr : SesWord → Nat
  | .sem i => sesBase + 8 * i
  | .barState n => sesBarBase + (n / 2048) * 0x10000 + (n % 2048) * 16
  | .barConfig n => sesBarBase + (n / 2048) * 0x10000 + (n % 2048) * 16 + 8
  | .produced m => sesBarBase + 0x8000 + (m / 1024) * 0x10000 + (m % 1024) * 32
  | .consumed m => sesBarBase + 0x8000 + (m / 1024) * 0x10000 + (m % 1024) * 32 + 8
  | .limit m => sesBarBase + 0x8000 + (m / 1024) * 0x10000 + (m % 1024) * 32 + 16
  | .reserved m => sesBarBase + 0x8000 + (m / 1024) * 0x10000 + (m % 1024) * 32 + 24

/-- The sync block of a word (R312). -/
def syncBlock (a : Nat) : Nat :=
  match sesWord a with
  | .sem i => i / 1024
  | .barState n | .barConfig n => n / 64
  | .produced m | .consumed m | .limit m | .reserved m => m / 32

/-- The store of a word (R289). -/
def sesStore (a : Nat) : Nat := syncBlock a / 32

/-- The agent reaches a Sesame word (R312). Code 17 is reserved there. -/
def Dev.sesAdmits (d : Dev) (g : Agent) (a : Nat) : Bool := g.reaches (d.get (SYNC_OWN.OWNER (syncBlock a)))

/-- The agent reaches one byte of a place; a fabric address is checked at its target, a host window is open to agents
from kernel queues only (R83, R444). -/
def Dev.admits (d : Dev) (g : Agent) (p : Place) (n : Nat) (write : Bool) : Bool :=
  match p with
  | .hbm a => d.hbmAdmits g a write && (decide (n ≤ 1) || d.hbmAdmits g (a + n - 1) write)
  | .sp c o => d.spAdmits g c o n
  | .ses a => d.sesAdmits g a
  | .host _ _ => g.kernel
  | .fab _ _ => true
  | .unmapped => false

/-! Homes. -/

/-- Poison of the 8-byte word of a local offset (R218, R453). -/
def Dev.poisoned (d : Dev) (a : Nat) : Bool := d.mem.poison.look (a / 8)

/-- Marks or clears the poison of the 8-byte words that lie in part or whole in a range. -/
def Dev.setPoison (d : Dev) (a n : Nat) (p : Bool) : Dev :=
  let first := a / 8
  let cnt := if n = 0 then 0 else (a + n - 1) / 8 - first + 1
  let marks := if p then (List.range cnt).foldl (fun t i => Sparse.put t (first + i) true) d.mem.poison
    else Sparse.clearRange d.mem.poison first (first + cnt)
  { d with mem := { d.mem with poison := marks } }

/-- Some word of a range carries poison. -/
def Dev.anyPoison (d : Dev) (a n : Nat) : Bool :=
  let first := a / 8
  let cnt := if n = 0 then 0 else (a + n - 1) / 8 - first + 1
  (List.range cnt).any (fun i => d.mem.poison.look (first + i))

/-- What happened last to a sector concerns it. -/
def Dev.concerns (d : Dev) (s : Nat) : Touch → Bool
  | .scan ch _ => d.chanOf (s * 32) == ch
  | .zero lo hi => decide (lo ≤ s * 32) && decide (s * 32 < hi)
  | .write k => k == s

/-- The bytes of a sector of HBM; after a full scan of its channel and before a write they are open (R249; log entry 48). -/
def Dev.hbmBytes (d : Dev) (s : Nat) : Sector :=
  match d.mem.touched.find? (d.concerns s) with
  | some (.scan _ n) => Config.scanSector n s
  | _ => BitVec.ofNat 256 (leOf (readBytes d.mem.cells (s * 32) 32))

/-- Something happens to sectors: kept once a full scan has left open contents. -/
def MemSys.touch (m : MemSys) (t : Touch) : MemSys := if m.touched.isEmpty then m else { m with touched := t :: m.touched }

/-- The sector of HBM itself: its bytes and its poison mark; a channel that is down gives poison (R245, R254). -/
def Dev.hbmSector (d : Dev) (s : Nat) : Sector × Bool :=
  (d.hbmBytes s,
   d.chanDown (d.chanOf (s * 32)) || d.mem.failed.contains s || d.anyPoison (s * 32) 32)

/-- The sector as its home gives it: the L2's copy if it holds one (R237, R240). -/
def Dev.homeSector (d : Dev) (s : Nat) : Sector × Bool :=
  let l := d.mem.l2.look s
  if l.held then (l.data, l.poison) else d.hbmSector s

/-- The bytes of a sector with some replaced, in order. -/
def mergeSector (v : Sector) (bs : List (Nat × Byte)) : Sector :=
  bs.foldl (fun v p => BitVec.ofNat 256 (setBits v.toNat (8 * p.1) 8 p.2.toNat)) v

/-- The n bytes of a sector from an offset. -/
def sectorBytes (v : Sector) (off n : Nat) : List Byte := (List.range n).map (fun i => BitVec.ofNat 8 (bits v.toNat (8 * (off + i)) 8))

/-- Replaces what the L2 holds of a sector. -/
def Dev.setL2 (d : Dev) (s : Nat) (l : L2Sector) : Dev := { d with mem := { d.mem with l2 := d.mem.l2.put s l } }

/-- Counts bytes moved on a channel in a class (R247). -/
def Dev.countBytes (d : Dev) (g cls n : Nat) : Dev :=
  match cls with
  | 0 => d.bump (HBM_CH_BYTES_LC.COUNT g) n
  | 2 => d.bump (HBM_CH_BYTES_BULK.COUNT g) n
  | _ => d.bump (HBM_CH_BYTES_NORMAL.COUNT g) n

/-! Errors that lie in a memory (log entry 80). -/

/-- What the check of a place will find. -/
def Dev.upset (d : Dev) (x : Site) : EccFind :=
  match d.mem.upsets.find? (fun u => u.site == x) with
  | some u => if u.bad then .uncorrectable else .corrected
  | Option.none => .clean

/-- The place has been corrected, or written. -/
def Dev.forget (d : Dev) (x : Site) : Dev :=
  if d.mem.upsets.isEmpty then d else { d with mem := { d.mem with upsets := d.mem.upsets.filter (fun u => u.site != x) } }

/-! The L2: 6,144 sets of 16 ways in each slice (R237-R240). -/

/-- The set of a line in its slice; which one is open (log entry 81). -/
def l2Set (line : Nat) : Nat := Config.l2Set line % 6144

/-- The ways in which a partition's fills are placed; an agent that acts for none uses every way (R239). -/
def Dev.l2Ways (d : Dev) (part : Nat) : List Nat :=
  if part < 16 then maskList 16 (d.get (L2_PART_WAYS.WAYS part)) else List.range 16

/-- The lines of a slice that hold a way. -/
def Dev.l2Lines (d : Dev) (slice : Nat) : List (Nat × L2Line) :=
  d.mem.l2lines.filter (fun x => d.sliceOf (x.1 * 4) == slice)

/-- The account that pays for a sector: the owner of its share, or of the common region that holds it (R255, R494). -/
def Dev.sectorOwner (d : Dev) (s : Nat) : Nat :=
  let o := d.get (SHARE_OWN.OWNER (shareOf (s * 32)))
  if o = 18 then d.get (CR_CFG.OWNER (d.get (SHARE_OWN.REGION (shareOf (s * 32))))) else o

/-- A sector is written at HBM, unless its channel is down (R240, R254). -/
def Dev.hbmWrite (d : Dev) (s : Nat) (v : Sector) (poison : Bool) : Dev :=
  let g := d.chanOf (s * 32)
  if d.chanDown g then d.bump (HBM_CH_DROPPED.WRITES g) 1
  else
    let d := ((d.countBytes g 1 32).sectors (d.sectorOwner s) 1).forget (.hbm s)
    let d := { d with mem := d.mem.touch (.write s) }
    let d := { d with mem := { d.mem with
      cells := writeBytes d.mem.cells (s * 32) (sectorBytes v 0 32), failed := d.mem.failed.filter (fun x => x != s) } }
    d.setPoison (s * 32) 32 poison

/-- A sector leaves the L2; a dirty one is written back, its words checked as they are read (R240). -/
def Dev.l2Evict (d : Dev) (s : Nat) : Dev :=
  let l := d.mem.l2.look s
  let find := d.upset (.l2 s)
  let d := ({ d with mem := { d.mem with l2 := Sparse.clearRange d.mem.l2 s (s + 1) } }).forget (.l2 s)
  if l.held && l.dirty then
    let d := match find with
      | .clean => d
      | .corrected => d.bump (L2_ECC.CE (d.sliceOf s)) 1
      | .uncorrectable => if l.poison then d else d.bump (L2_ECC.UE (d.sliceOf s)) 1
    d.hbmWrite s l.data (l.poison || find == .uncorrectable)
  else d

/-- A line leaves its way with its four sectors. -/
def Dev.l2Leave (d : Dev) (line : Nat) : Dev :=
  let d := (List.range 4).foldl (fun d i => d.l2Evict (4 * line + i)) d
  { d with mem := { d.mem with l2lines := Sparse.clearRange d.mem.l2lines line (line + 1) } }

/-- A line takes a way. -/
def Dev.l2Seat (d : Dev) (line way : Nat) (bulk : Bool) : Dev :=
  { d with mem := { d.mem with l2lines := d.mem.l2lines.put line { way := way, old := bulk } } }

/-- Something other than a bulk fill touches a line: it is no longer the next victim (R237). -/
def Dev.l2Touch (d : Dev) (line : Nat) : Dev :=
  match d.mem.l2lines.find? (fun x => x.1 == line) with
  | some x => if x.2.old then d.l2Seat line x.2.way false else d
  | Option.none => d

/-- A line gets one of some ways: a free one of its set, else that of a victim, the next victim first; `pick` says which where
the replacement leaves it open (R237, R239; log entry 81). A slice with fewer lines than ways has a free way in every set. -/
def Dev.l2Room (d : Dev) (line : Nat) (ways : List Nat) (bulk : Bool) (pick : Option Nat) : Dev :=
  if d.mem.l2lines.any (fun x => x.1 == line) then (if bulk then d else d.l2Touch line)
  else
    let lines := d.l2Lines (d.sliceOf (line * 4))
    let same := lines.filter (fun x => l2Set x.1 == l2Set line)
    let free := ways.filter (fun w => !same.any (fun x => x.2.way == w))
    if decide (lines.length < ways.length) || !free.isEmpty then d.l2Seat line (free.headD 0) bulk
    else
      let mine := same.filter (fun x => ways.contains x.2.way)
      let olds := mine.filter (fun x => x.2.old)
      let out := if olds.isEmpty then mine else olds
      let r := match pick with | some n => (n, d) | Option.none => d.fresh
      let v := out.getD (r.1 % max 1 out.length) default
      (r.2.l2Leave v.1).l2Seat line v.2.way bulk

/-- The L2 takes a sector from HBM unless it holds it; hits and misses are counted (R237). A partition whose way mask is
0 gets no allocation (R239). -/
def Dev.l2Fetch (d : Dev) (s part cls : Nat) (pick : Option Nat := Option.none) : Dev :=
  let k := d.sliceOf s
  if (d.mem.l2.look s).held then (d.bump (L2_HITS.COUNT k) 1).l2Touch (s / 4)
  else
    let d := ((d.bump (L2_MISSES.COUNT k) 1).countBytes (d.chanOf (s * 32)) cls 32).sectors part 1
    let v := d.hbmSector s
    let ways := d.l2Ways part
    if ways.isEmpty then d
    else (d.l2Room (s / 4) ways (cls == 2) pick).setL2 s { held := true, dirty := false, poison := v.2, data := v.1 }

/-- The bytes fill a sector. -/
def fillsSector (bs : List (Nat × Byte)) : Bool := decide ((bs.map (fun p => p.1)).eraseDups.length = 32)

/-- Bytes are written into a sector at its slice: a whole sector clears poison, a part is merged over what the home gives
(R237, R240); its share is no longer all zero (R447). Where nothing may be allocated it goes straight through to HBM (R239). -/
def Dev.l2Write (d : Dev) (s part cls : Nat) (bs : List (Nat × Byte)) (poison : Bool) (pick : Option Nat := Option.none) : Dev :=
  let whole := fillsSector bs
  let v := d.homeSector s
  let held := (d.mem.l2.look s).held
  let d := if d.get (SHARE_OWN.CLEAN (shareOf (s * 32))) = 1 then d.put (SHARE_OWN.CLEAN (shareOf (s * 32))) 0 else d
  let d := if whole then d.forget (.l2 s) else d
  let l : L2Sector := { held := true, dirty := true, data := mergeSector v.1 bs, poison := poison || (v.2 && !whole) }
  let ways := d.l2Ways part
  if held then (d.setL2 s l).l2Touch (s / 4)
  else if ways.isEmpty then (d.setL2 s l).l2Evict s
  else (d.l2Room (s / 4) ways (cls == 2) pick).setL2 s l

/-- A store to a sector at its slice: one that fills the sector needs no fetch, a partial one fetches it first (R237). -/
def Dev.l2Store (d : Dev) (s part : Nat) (bs : List (Nat × Byte)) (poison : Bool) (cls : Nat := 1) (pick : Option Nat := Option.none) : Dev :=
  let d := if fillsSector bs then (if (d.mem.l2.look s).held then d.bump (L2_HITS.COUNT (d.sliceOf s)) 1 else d)
    else d.l2Fetch s part cls pick
  d.l2Write s part cls bs poison pick

/-- Zeroes a whole sector range of HBM at its homes, clearing poison (R447); what lies on a channel that is down is discarded
(R254). -/
def Dev.zeroHbm (d : Dev) (lo hi : Nat) : Dev :=
  let downs := (List.range 128).filter d.chanDown
  let up := fun (a : Nat) => !downs.contains (d.chanOf a)
  let inside := fun (a : Nat) => decide (lo ≤ a) && decide (a < hi)
  let hit := fun (a : Nat) => inside a && up a
  let m : MemSys :=
    { d.mem with
      cells := if downs.isEmpty then zeroRange d.mem.cells lo hi else Sparse.clearIf d.mem.cells hit,
      poison := if downs.isEmpty then Sparse.clearRange d.mem.poison (lo / 8) (hi / 8) else Sparse.clearIf d.mem.poison (fun w => hit (w * 8)),
      l2 := Sparse.clearRange d.mem.l2 (lo / 32) (hi / 32),
      l2lines := Sparse.clearRange d.mem.l2lines (lo / 128) (hi / 128),
      upsets := d.mem.upsets.filter (fun u => match u.site with
        | .l2 s => !inside (s * 32)
        | .hbm s => !hit (s * 32)
        | _ => true),
      failed := d.mem.failed.filter (fun x => !hit (x * 32)) }
  { d with mem := m.touch (.zero lo hi) }

/-! Scratchpads. -/

/-- The bytes of a scratchpad range. -/
def Dev.spRead (d : Dev) (c o n : Nat) : List Byte := readBytes d.mem.cells (spAddr c o) n

/-- The word of a site in a range of scratchpad words. -/
def spWordOf (lo hi : Nat) : Site → Option Nat
  | .sp w => if lo ≤ w ∧ w < hi then some w else Option.none
  | _ => Option.none

/-- The check of the scratchpad words from `lo` up to but not at `hi` (R218): one bit in error is corrected, more leave the poison
mark. -/
def Dev.spWords (d : Dev) (lo hi : Nat) : Dev :=
  d.mem.upsets.foldl (fun d u =>
    match spWordOf lo hi u.site with
    | some w =>
      let c := (w * 8 - spBase) / spStride
      let d := d.forget u.site
      if u.bad then (d.setPoison (w * 8) 8 true).bump (SP_ECC.UE c) 1 else d.bump (SP_ECC.CE c) 1
    | Option.none => d) d

/-- The check of the words that n bytes from an offset touch. -/
def Dev.spCheck (d : Dev) (c o n : Nat) : Dev :=
  if d.mem.upsets.isEmpty || n == 0 then d else d.spWords (spAddr c o / 8) ((spAddr c o + n - 1) / 8 + 1)

/-- Writes bytes into a scratchpad: a write of all 8 bytes of a word clears its mark, a partial write keeps it (R199,
R453); poisoned data marks the words it touches. A word written in part is read first, and checked (R218). -/
def Dev.spWrite (d : Dev) (c o : Nat) (bs : List Byte) (poison : Bool) : Dev :=
  let a := spAddr c o
  let n := bs.length
  let lo := roundUp a 8
  let hi := (a + n) / 8 * 8
  let d := if d.mem.upsets.isEmpty then d else
    let d := { d with mem := { d.mem with upsets := d.mem.upsets.filter (fun u => (spWordOf (lo / 8) (hi / 8) u.site).isNone) } }
    d.spCheck c o n
  let d := { d with mem := { d.mem with cells := writeBytes d.mem.cells a bs } }
  if poison then d.setPoison a n true
  else if lo < hi then d.setPoison lo (hi - lo) false else d

/-- The 64-bit bus address of a window offset (R22). -/
def Dev.busAddr (d : Dev) (n x : Nat) : Nat := d.get (HOST_WIN.BASE n) * 2 ^ 40 + x

/-- A byte of the memory of the host on a port. -/
def Dev.hostByte (d : Dev) (n bus : Nat) : Byte := d.mem.host.get memDefault (n * 2 ^ 64 + bus)

/-- Writes bytes into the memory of the host on a port, by bus address. -/
def Dev.hostWrite (d : Dev) (n bus : Nat) (bs : List Byte) : Dev :=
  let h := (bs.zipIdx).foldl (fun h p => Sparse.set memDefault h (n * 2 ^ 64 + bus + p.2) p.1) d.mem.host
  { d with mem := { d.mem with host := h } }

/-- Bytes of the memory of the host on a port. -/
def Dev.hostRead (d : Dev) (n bus k : Nat) : List Byte := (List.range k).map (fun i => d.hostByte n (bus + i))

/-- The value of a Sesame word. -/
def Dev.sesVal (d : Dev) (a : Nat) : Nat := (d.ses.words.look ((a - sesBase) / 8)).toNat

/-- Stores a Sesame word. -/
def Dev.setSes (d : Dev) (a v : Nat) : Dev :=
  { d with ses := { d.ses with words := d.ses.words.put ((a - sesBase) / 8) (BitVec.ofNat 64 v) } }

/-- Poison of a Sesame word (R291). -/
def Dev.sesPoison (d : Dev) (a : Nat) : Bool := d.ses.poison.look ((a - sesBase) / 8)

/-- The check of a Sesame word (R291). -/
def Dev.sesCheck (d : Dev) (a : Nat) : Dev :=
  match d.upset (.ses (a / 8)) with
  | .clean => d
  | .corrected => d.forget (.ses (a / 8))
  | .uncorrectable => ({ d with ses := { d.ses with poison := Sparse.put d.ses.poison ((a - sesBase) / 8) true } }).forget (.ses (a / 8))

/-- One byte at a local home with its poison mark; none where the address names no local memory. -/
def Dev.homeByte (d : Dev) (a : Nat) : Option (Byte × Bool) :=
  match d.place a with
  | .hbm x =>
    let v := d.homeSector (x / 32)
    some (BitVec.ofNat 8 (bits v.1.toNat (8 * (x % 32)) 8), v.2)
  | .sp c o => some (readByte d.mem.cells (spAddr c o), d.poisoned (spAddr c o))
  | .ses x => some (BitVec.ofNat 8 (bits (d.sesVal (x / 8 * 8)) (8 * (x % 8)) 8), d.sesPoison (x / 8 * 8))
  | .host n x => some (d.hostByte n (d.busAddr n x), false)
  | .fab _ _ => Option.none
  | .unmapped => Option.none

/-- The n bytes from an address at their homes: none where one names no local memory; true where one is poisoned. -/
def Dev.homeBytes (d : Dev) (a : Nat) : Nat → Option (List Byte × Bool)
  | 0 => some ([], false)
  | n + 1 =>
    match d.homeByte a with
    | Option.none => Option.none
    | some (b, p) =>
      match Dev.homeBytes d (a + 1) n with
      | Option.none => Option.none
      | some (bs, q) => some (b :: bs, p || q)

/-- A run of bytes inside one 32-byte sector is written at its home for a partition, in a class. -/
def Dev.homePiece (d : Dev) (a part : Nat) (bs : List Byte) (poison : Bool) (cls : Nat) : Dev :=
  match d.place a with
  | .hbm x => d.l2Store (x / 32) part ((bs.zipIdx).map (fun p => (x % 32 + p.2, p.1))) poison cls
  | .sp c o => d.spWrite c o bs poison
  | .host n x => d.hostWrite n (d.busAddr n x) bs
  | .ses _ | .fab _ _ | .unmapped => d

/-- Bytes are written at their homes, sector by sector. `fuel`: at least the number of sectors touched. -/
def Dev.homeWrite (d : Dev) (a part : Nat) (bs : List Byte) (poison : Bool) (cls : Nat) : Nat → Dev
  | 0 => d
  | fuel + 1 =>
    if bs.isEmpty then d else
    let k := 32 - a % 32
    Dev.homeWrite (d.homePiece a part (bs.take k) poison cls) (a + k) part (bs.drop k) poison cls fuel

/-- Bytes are written at their homes. -/
def Dev.writeHome (d : Dev) (a part : Nat) (bs : List Byte) (poison : Bool) (cls : Nat := 1) : Dev :=
  d.homeWrite a part bs poison cls (bs.length + 1)

/-- A 64-bit word at its home; 0 where the address names no local memory. -/
def Dev.word64 (d : Dev) (a : Nat) : Nat :=
  match d.homeBytes a 8 with
  | some (bs, _) => leOf bs
  | Option.none => 0

/-- Zeroes bank sets of cores and clears their poison (R206). `o` ranges over the 2 KiB chunks. -/
def Dev.zeroSets (d : Dev) (cores sets : List Nat) : Dev :=
  let hit := fun (a : Nat) => decide (spBase ≤ a) && decide (a < spBase + 128 * spStride) &&
    cores.contains ((a - spBase) / spStride) && sets.contains (bankSet ((a - spBase) % spStride))
  let m : MemSys :=
    { d.mem with
      cells := Sparse.clearIf d.mem.cells hit, poison := Sparse.clearIf d.mem.poison (fun w => hit (w * 8)),
      upsets := d.mem.upsets.filter (fun u => match u.site with | .sp w => !hit (w * 8) | _ => true) }
  { d with mem := m }

end Sys2Proof.Machine
end

