-- ==== Sys2Proof/Machine/Xlate.lean ====
section
/-! DEFINITION. Range translation (R327-R336): lookup, requests, and the checks every address of an agent passes
(R27, R83, R84, R330). -/

namespace Sys2Proof.Machine

/-- Kinds of access (R332). -/
def kRead : Nat := 1
def kWrite : Nat := 2
def kFetch : Nat := 4

/-- The entry maps the address (R327). -/
def Range.has (r : Range) (asid va : Nat) : Bool :=
  r.asid == asid && decide (r.vstart ≤ va) && decide (va < r.vstart + r.len)

/-- The entry allows the kinds of access. -/
def Range.allows (r : Range) (kinds : Nat) : Bool :=
  (r.r || !bit kinds 0) && (r.w || !bit kinds 1) && (r.x || !bit kinds 2)

/-- Entries a requester keeps: 128 in a core, 4 in an engine, none in Chanter (R329). -/
def cacheSize (who : Nat) : Nat := if who < 128 then 128 else if who < 1024 then 4 else 0

/-- Chanter as a requester. -/
def whoChanter : Nat := 1024
/-- A DMA engine as a requester. -/
def whoEngine (e : Nat) : Nat := 256 + e

/-- The entry that a lookup finds: the requester's own, then the device's (R329). -/
def Dev.rtFind (d : Dev) (who asid va : Nat) : Option Range :=
  match (d.rt.caches.look who).find? (fun r => r.has asid va) with
  | some r => some r
  | Option.none => d.rt.device.find? (fun r => r.has asid va)

/-- A list with one entry moved to the front, or put there. -/
def toFront (r : Range) (l : List Range) : List Range := r :: l.filter (fun x => x != r)

/-- RT_STATUS follows the tables (R338). -/
def Dev.rtSync (d : Dev) : Dev :=
  ((d.put RT_STATUS.PENDING d.rt.reqs.length).put RT_STATUS.ENTRIES d.rt.device.length).put RT_STATUS.PINNED
    (d.rt.device.filter (fun r => r.pin)).length

/-- The entry that a lookup reads in one cache is checked: one beyond correction leaves it (R329). `who` 2048: the device's cache. -/
def Dev.rtCheckIn (d : Dev) (who asid va : Nat) : Dev :=
  let l := if who = 2048 then d.rt.device else d.rt.caches.look who
  match l.find? (fun r => r.has asid va) with
  | Option.none => d
  | some r =>
    match d.upset (.range who r.asid r.vstart) with
    | .clean => d
    | .corrected => d.forget (.range who r.asid r.vstart)
    | .uncorrectable =>
      let d := d.forget (.range who r.asid r.vstart)
      let kept := l.filter (fun x => x != r)
      if who = 2048 then ({ d with rt := { d.rt with device := kept } } : Dev).rtSync else { d with rt := { d.rt with caches := d.rt.caches.put who kept } }

/-- The entries that a lookup reads are checked: the requester's own, and the device's where that has none (R329). -/
def Dev.rtCheck (d : Dev) (who asid va : Nat) : Dev :=
  if d.mem.upsets.isEmpty then d
  else
    let d := d.rtCheckIn who asid va
    if (d.rt.caches.look who).any (fun r => r.has asid va) then d else d.rtCheckIn 2048 asid va

/-- A lookup's effect: least recently used order, and a hit in the device cache fills the requester's (R329). -/
def Dev.rtTouch (d : Dev) (who asid va : Nat) : Dev :=
  let d := d.rtCheck who asid va
  let own := d.rt.caches.look who
  match own.find? (fun r => r.has asid va) with
  | some r => { d with rt := { d.rt with caches := d.rt.caches.put who (toFront r own) } }
  | Option.none =>
    match d.rt.device.find? (fun r => r.has asid va) with
    | some r =>
      let dev := toFront r d.rt.device
      { d with rt := { d.rt with device := dev, caches := d.rt.caches.put who ((r :: own).take (cacheSize who)) } }
    | Option.none => d

/-- The ASID is bound (R331). -/
def Dev.asidBound (d : Dev) (asid : Nat) : Bool := bit (d.rt.bound.look asid).toNat 10

/-- The partition bound to an ASID (R331). -/
def Dev.asidPart (d : Dev) (asid : Nat) : Nat := bits (d.rt.bound.look asid).toNat 5 5

/-- The function bound to an ASID (R331). -/
def Dev.asidFunc (d : Dev) (asid : Nat) : Nat := bits (d.rt.bound.look asid).toNat 0 5

/-- Outcome of a check of one piece. -/
inductive Chk where
  | ok (p : Place) (cls : Nat)
  | exc (code : Nat)
  | miss (va : Nat)
deriving DecidableEq, Repr, Inhabited

/-- Reasons an address is refused, as exception codes (R98): unmapped, translation, access. -/
def xUnmapped : Nat := 0x08
def xTranslation : Nat := 0x09
def xAccess : Nat := 0x0A

/-- A virtual address under an ASID: translated, then checked for the partition bound to the ASID (R327-R331). -/
def Dev.checkVirtual (d : Dev) (who asid a n kinds : Nat) (dma : Bool) : Chk :=
  if 2 ^ 57 ≤ a then .exc xUnmapped
  else if !d.asidBound asid then .exc xTranslation
  else
    match d.rtFind who asid a with
    | Option.none => .miss a
    | some r =>
      if !r.allows kinds then .exc xAccess
      else
        let pl := d.place (r.pstart + (a - r.vstart))
        if pl = .unmapped then .exc xUnmapped
        else if d.admits { kernel := false, part := d.asidPart asid, dma := dma, march := false } pl n (bit kinds 1) then .ok pl r.cls
        else .exc xAccess

/-- A physical or fabric address named by an agent (R21-R27, R83). -/
def Dev.checkPhysical (d : Dev) (g : Agent) (a n kinds : Nat) : Chk :=
  let pl := d.place a
  if pl = .unmapped then .exc xUnmapped
  else if d.admits g pl n (bit kinds 1) then .ok pl 1
  else .exc xAccess

/-- An address of a kernel's instruction: SPACE 0 virtual, SPACE 1 physical, where a kernel from a user queue names only
scratchpads, Sesame and fabric addresses (R82, R83). -/
def Dev.checkKernel (d : Dev) (core : Nat) (l : Launch) (phys : Bool) (a n kinds : Nat) : Chk :=
  if !phys then d.checkVirtual core l.asid a n kinds false
  else if l.kernel then d.checkPhysical { kernel := true, part := l.part, dma := false, march := false } a n kinds
  else
    match d.place a with
    | .hbm _ | .host _ _ => .exc xAccess
    | _ => d.checkPhysical { kernel := false, part := l.part, dma := false, march := false } a n kinds

/-- Attaches a waiter to the request of a page, or creates it (R332, R335); none where the waiter must stall. -/
def Dev.rtRequest (e : Env) (d : Dev) (asid va kinds srcKind srcIndex : Nat) (w : Waiter) : Option (Nat × Dev) :=
  let page := va / 4096 * 4096
  match d.rt.reqs.find? (fun r => r.asid == asid && r.page == page) with
  | some r =>
    if 64 ≤ r.waiters.length then Option.none
    else
      let r' := { r with waiters := r.waiters ++ [w] }
      some (r.id, { d with rt := { d.rt with reqs := d.rt.reqs.map (fun x => if x.id = r.id then r' else x) } })
  | Option.none =>
    if 256 ≤ d.rt.reqs.length then Option.none
    else
      let id := d.rt.nextReq
      let next := if id + 1 = 2 ^ 32 then 1 else id + 1
      let r : RangeReq :=
        { id := id, f := d.asidFunc asid, asid := asid, page := page, addr := va, kinds := kinds,
          srcKind := srcKind, srcIndex := srcIndex, time := e.time, waiters := [w], stale := false, written := false,
          counted := false }
      some (id, ({ d with rt := { d.rt with reqs := d.rt.reqs ++ [r], nextReq := next } }).rtSync)

end Sys2Proof.Machine
end

