-- ==== Sys2Proof/Machine/FabOps.lean ====
section
/-! DEFINITION. Sending over the fabric (R389-R405, R410): send flows, the choice of path, transmission under the window,
and the tags requests carry (R393). -/

namespace Sys2Proof.Machine

/-- The type codes of KLP packets (R390). -/
def tWrite : Nat := 0x01
def tRead : Nat := 0x02
def tReadResp : Nat := 0x03
def tAtomic : Nat := 0x04
def tAtomicResp : Nat := 0x05
def tSem : Nat := 0x06
def tSemResp : Nat := 0x07
def tSemWithdraw : Nat := 0x08
def tDspWrite : Nat := 0x10
def tDspReturn : Nat := 0x11
def tColl : Nat := 0x20
def tAck : Nat := 0x30
def tNak : Nat := 0x31
def tProbe : Nat := 0x38
def tProbeAck : Nat := 0x39
def tFlowReset : Nat := 0x3A
def tHello : Nat := 0x40
def tMirror : Nat := 0x41

/-- The device's own fabric ID (R391). -/
def Dev.fabId (d : Dev) : Nat := d.get FAB_ID.ID

/-- The tag of an agent's requests (R393). -/
def Dev.tagOf (d : Dev) (kernel : Bool) (part : Nat) : Nat :=
  if kernel || decide (16 ≤ part) then 0 else d.get (FAB_PART_TAG.TAG part)

/-- The partition whose requests carry a tag of this device, 31 where none does (R393). -/
def Dev.tagPart (d : Dev) (tag : Nat) : Nat :=
  if tag = 0 then 31 else ((List.range 16).find? (fun p => d.get (FAB_PART_TAG.TAG p) == tag)).getD 31

/-- A logical port's registers by its number l = 4p + s (R386, R428). -/
def Dev.linkUp (d : Dev) (l : Nat) : Bool := d.get (LP_STATUS.LINK_UP l) == 1

/-- KLP runs on a logical port: link up, enabled, no ID conflict (R397). -/
def Dev.klpOn (d : Dev) (l : Nat) : Bool := d.linkUp l && d.get (LP_STATUS.ID_CONFLICT l) == 0

/-- The routing entry of a peer (R398). -/
def Dev.routeOf (d : Dev) (id : Nat) : DWord × DWord := d.fab.route.get (fun _ => (0, 0)) (id % 65536)

/-- The slots of a peer, in order (R398). -/
def Dev.slotsOf (d : Dev) (id : Nat) : List Nat :=
  ((List.range 8).map (fun k => bits (d.routeOf id).2.toNat (8 * k) 8)).filter (fun l => decide (l < 192))

/-- The send flow to a peer. -/
def Dev.flow (d : Dev) (peer : Nat) : SendFlow := d.fab.send.look peer

/-- Replaces the send flow to a peer. -/
def Dev.setFlow (d : Dev) (peer : Nat) (f : SendFlow) : Dev := { d with fab := { d.fab with send := d.fab.send.put peer f } }

/-- The peer is declared dead (R407). -/
def Dev.peerDead (d : Dev) (peer : Nat) : Bool := (d.fab.peers.look peer).dead

/-- Bytes of a packet that count against the window. -/
def pktSize (p : Packet) : Nat := p.data.length

/-- Unacknowledged bytes of a flow, on one port or on all. -/
def SendFlow.unacked (f : SendFlow) (l : Option Nat) : Nat :=
  ((f.pkts.filter (fun s => s.sent && !s.acked && (match l with | some x => s.port == x | Option.none => true))).map
    (fun s => pktSize s.pkt)).sum

/-- A priority of a logical port is paused (R406). -/
def Dev.pausedOn (d : Dev) (l : Nat) (ctl : Bool) : Bool :=
  let prio := if ctl then d.get (LP_CFG.PRIO_CTL l) else d.get (LP_CFG.PRIO_DATA l)
  d.get (LP_CFG.PFC_EN l) == 1 && bit (d.fab.paused.look l).toNat prio

/-- The path of a packet: the slot whose port is up with the fewest unacknowledged bytes to the peer, ties to the lowest
slot (R399); a paused port takes none of that priority (R406). -/
def Dev.pickPort (d : Dev) (peer : Nat) (ctl : Bool) : Option Nat :=
  let f := d.flow peer
  ((d.slotsOf peer).filter (fun l => d.klpOn l && !d.pausedOn l ctl)).foldl (fun best l =>
    match best with
    | Option.none => some l
    | some b => if f.unacked (some l) < f.unacked (some b) then some l else best) Option.none

/-- The pairing ports of MIRROR packets (R422). -/
def Dev.pickPairPort (d : Dev) (peer : Nat) : Option Nat :=
  let f := d.flow peer
  (d.mgmt.cfg.buddyPorts.filter (fun l => d.klpOn l && !d.pausedOn l false)).foldl (fun best l =>
    match best with
    | Option.none => some l
    | some b => if f.unacked (some l) < f.unacked (some b) then some l else best) Option.none

/-- KLP may send (R391, R428). -/
def Dev.klpEnabled (d : Dev) : Bool := d.get FAB_CTL.ENABLE == 1 && d.fabId != 0

/-- The flow sends its waiting packets in order while its window and the limit of 1,024 allow (R401, R405); `fuel` at
least the packets waiting. -/
def Dev.transmit (e : Env) (d : Dev) (peer : Nat) : Nat → Dev
  | 0 => d
  | fuel + 1 =>
    let f := d.flow peer
    match f.pkts.findIdx? (fun s => !s.sent) with
    | Option.none => d
    | some i =>
      match f.pkts[i]? with
      | Option.none => d
      | some s =>
        let port := if s.pkt.type = tMirror then d.pickPairPort peer else d.pickPort peer false
        match port with
        | Option.none => d
        | some l =>
          if f.live && d.klpEnabled && decide (f.unacked Option.none < f.cwnd) && decide ((f.pkts.filter (fun s => s.sent && !s.acked)).length < 1024) then
            let p := { s.pkt with tstamp := e.time, epoch := f.epoch }
            let s' := { s with pkt := p, sent := true, first := e.time, last := e.time, port := l }
            let d := (d.setFlow peer { f with pkts := setAt f.pkts i s', count := f.count + 1 }).emit (.klp l p)
            let d := d.fabMoved (d.tagPart p.tenant) (pktSize p)
            Dev.transmit e d peer fuel
          else d

/-- Flows in use. -/
def Dev.liveFlows (d : Dev) : List (Nat × SendFlow) := d.fab.send.filter (fun x => x.2.live)

/-- A send flow exists, created at the next epoch where it was not, an idle one evicted where all are in use; what waited for it is numbered from 0 (R400). -/
def Dev.openFlow (d : Dev) (peer : Nat) : Dev :=
  let f := d.flow peer
  if f.live then d else
  let fresh : SendFlow :=
    { f with live := true, epoch := (f.epoch + 1) % 65536, nextPsn := f.pkts.length, count := 0,
             pkts := (f.pkts.zipIdx).map (fun x => { x.1 with pkt := { x.1.pkt with psn := x.2 } }), cwnd := d.get FAB_CC.INIT_CWND,
             baseRtt := 0, rtts := [], srtt := 0, rttvar := 0, lastCut := 0 }
  if d.liveFlows.length < 8192 then d.setFlow peer fresh
  else
    let idle := d.liveFlows.filter (fun x => x.2.pkts.isEmpty)
    match idle.foldl (fun (b : Option (Nat × SendFlow)) x =>
        match b with
        | Option.none => some x
        | some y => if x.2.idle < y.2.idle then some x else b) Option.none with
    | Option.none => d
    | some (k, v) => (d.setFlow k { v with live := false }).setFlow peer fresh

/-- A flow has become free: peers whose packets wait for one get theirs (R400; log entry 114). -/
def Dev.openWaiting (e : Env) (d : Dev) : Dev :=
  (d.fab.send.filter (fun x => !x.2.live && !x.2.pkts.isEmpty)).foldl (fun d x => (d.openFlow x.1).transmit e x.1 (x.2.pkts.length + 1)) d

/-- A packet of this device to a peer. -/
def Dev.packet (d : Dev) (peer type cls tenant subop length addr : Nat) (data : List Byte) : Packet :=
  { type := type, ackNow := false, retx := false, cls := cls, dst := peer, src := d.fabId, epoch := 0, tenant := tenant,
    psn := 0, length := length, subop := subop, status := 0, addr := addr, tstamp := 0, exth := 0, data := data }

/-- The partition of the agent that sends, 31 where it acts for none (R281). -/
def Dev.ownerPart (d : Dev) (o : FabOwner) : Nat :=
  let ofGroup := fun (g : Gid) => (d.core.launches.find? (fun l => l.live && l.id == (d.grp g).launch)).elim 31 (fun l => if l.kernel then 31 else l.part)
  match o with
  | .store ((g, _) :: _) | .load g _ => ofGroup g
  | .dma n _ _ => match (d.dma.engines.look n).queue with | q :: _ => if q.kernel then 31 else q.part | [] => 31
  | .row c _ | .eduWrite c _ => (d.edu.ctxs.look c).part
  | .ret id => (d.edu.rets.find? (fun r => r.id == id)).elim 31 (fun r => if r.kernel then 31 else r.part)
  | .cmd c => let q := (d.fe.ctxs.look c).queue; if d.get (QUEUE_CFG.KERNEL q) = 1 then 31 else d.get (QUEUE_CFG.PART q)
  | _ => 31

/-- A WRITE continues the last packet still waiting: same core, contiguous ascending bytes, at most 8,192 (R410). -/
def mergeable (last : Sent) (core : Option Nat) (part : Nat) (p : Packet) : Bool :=
  !last.sent && last.part == part && core.isSome && last.core == core && last.pkt.type == tWrite && p.type == tWrite &&
  last.pkt.addr + last.pkt.length == p.addr && decide (last.pkt.length + p.length ≤ 8192) &&
  last.pkt.tenant == p.tenant && last.pkt.cls == p.cls

/-- Owners of a merged WRITE. -/
def joinOwner : FabOwner → FabOwner → FabOwner
  | .store a, .store b => .store (a ++ b)
  | a, _ => a

/-- A reliable packet goes to a peer: merged into the last one waiting where R410 allows, else appended with the next
PSN; then the flow sends what it may. -/
def Dev.fabSend (e : Env) (d : Dev) (peer : Nat) (own : FabOwner) (core : Option Nat) (p : Packet) : Dev :=
  let d := d.openFlow peer
  let f := d.flow peer
  let part := d.ownerPart own
  let more : SendFlow :=
    { f with
      pkts := f.pkts ++ [{ owner := own, pkt := { p with psn := f.nextPsn }, core := core, part := part, sent := false, acked := false,
                           first := e.time, last := 0, port := 0, tries := 0, busy := false }],
      nextPsn := (f.nextPsn + 1) % 2 ^ 32 }
  let f' :=
    match f.pkts.getLast? with
    | some s =>
      if mergeable s core part p then
        let q := { s.pkt with length := s.pkt.length + p.length, data := s.pkt.data ++ p.data }
        { f with pkts := f.pkts.dropLast ++ [{ s with pkt := q, owner := joinOwner s.owner own }] }
      else more
    | Option.none => more
  let d := d.setFlow peer f'
  d.transmit e peer (f'.pkts.length + 1)

/-- Every reliable packet not yet acknowledged, with its peer. -/
def Dev.outstanding (d : Dev) : List (Nat × Sent) := d.fab.send.flatMap (fun x => x.2.pkts.map (fun s => (x.1, s)))

/-- Some packet of an owner is not yet acknowledged. -/
def Dev.fabPending (d : Dev) (p : FabOwner → Bool) : Bool := d.outstanding.any (fun x => !x.2.acked && p x.2.owner)

/-- Loss of n stores of a group to a dead peer (R285, R286): `atIssue` marks DEAD_TARGET, else PENDING_LOSS. -/
def Dev.fabLoss (d : Dev) (g : Gid) (block n : Nat) (atIssue : Bool) : Dev :=
  let x := d.grp g
  if x.live && x.block == block && x.st != .halted && x.st != .stopped then
    let v := x.fabStat.toNat
    let v := setBits v 0 16 (satAdd 16 (bits v 0 16) n)
    let v := if atIssue then setBits v 16 1 1 else setBits v 17 1 1
    d.setGrp g { x with fabStat := BitVec.ofNat 18 v }
  else d

end Sys2Proof.Machine
end

