-- ==== Sys2Proof/Machine/Ledger.lean ====
section
/-! DEFINITION. Records of the life ledger as they are made (R480) and their mirror at the buddy (R421-R423). -/

namespace Sys2Proof.Machine

/-- Replaces the state of the pairing. -/
def Dev.setBuddy (d : Dev) (b : Buddy) : Dev := { d with fab := { d.fab with buddy := b } }

/-- The buddy's fabric ID. -/
def Dev.buddyId (d : Dev) : Nat := d.mgmt.cfg.buddyId

/-- The device runs paired (R421). -/
def Dev.paired (d : Dev) : Bool := d.mgmt.buddyEn && d.mgmt.cfg.buddyPresent && d.buddyId != 0

/-- One mirror item goes to the buddy. -/
def Dev.mirrorItem (e : Env) (d : Dev) (kind count : Nat) (entries : List Byte) : Dev :=
  if !d.paired || d.peerDead d.buddyId || !d.klpEnabled then d
  else
    let b := d.fab.buddy
    let n := if b.nextIseq = 0 then 1 else b.nextIseq
    let d := d.setBuddy { b with nextIseq := (n + 1) % 2 ^ 32 }
    let st := d.get FAB_BUDDY.OWN_STATE + d.get FAB_BUDDY.BUDDY_STATE * 4
    let body := beBytes 1 kind ++ beBytes 1 st ++ beBytes 2 count ++ beBytes 4 n ++ beBytes 4 d.mgmt.incarnation ++ beBytes 4 0 ++ entries
    d.fabSend e d.buddyId (.mirror n) none (d.packet d.buddyId tMirror 0 0 0 body.length 0 body)

/-- The words 0 to 6 of a ledger record (R480). -/
def LedgerRec.words (r : LedgerRec) : List Nat :=
  [r.seq % 2 ^ 32 + r.type % 2 ^ 16 * 2 ^ 32 + r.die % 16 * 2 ^ 48, r.incarnation % 2 ^ 32 + b2n r.synced * 2 ^ 32, r.time % 2 ^ 64] ++
  (List.range 4).map (fun i => (r.payload.getD i 0).toNat)

/-- The 64 bytes of a ledger record. -/
def LedgerRec.bytes (r : LedgerRec) : List Byte :=
  let b := r.words.flatMap (fun w => leBytes 8 w)
  b ++ leBytes 8 (crc32c b)

/-- The records that the buddy neither holds nor is being sent, oldest first (R421). -/
def Dev.ledgerTail (d : Dev) : List LedgerRec :=
  let b := d.fab.buddy
  let going := b.ledgerSent.filter (fun x => d.outstanding.any (fun s => s.2.owner == .mirror x.1))
  let newest := (going.map (fun x => x.2)).foldl max b.ledgerAcked
  (d.mgmt.ledger ++ d.mgmt.wait).filter (fun r => decide (newest < r.seq))

/-- Records go to the buddy in one item. -/
def Dev.mirrorRecords (e : Env) (d : Dev) (recs : List LedgerRec) : Dev :=
  let n := if d.fab.buddy.nextIseq = 0 then 1 else d.fab.buddy.nextIseq
  let d := d.mirrorItem e 2 recs.length (recs.flatMap (fun r => r.bytes))
  let b := d.fab.buddy
  d.setBuddy { b with ledgerSent := b.ledgerSent ++ [(n, (recs.map (fun r => r.seq)).foldl max 0)] }

/-- The ledger tail goes to the buddy, whatever the states, in items of at most 8,192 bytes (R421, R423, R480; log entry 62). -/
def Dev.mirrorLedger (e : Env) (d : Dev) : Dev :=
  if !d.paired then d
  else
    let recs := d.ledgerTail
    (List.range (ceilDiv recs.length 127)).foldl (fun d i => d.mirrorRecords e ((recs.drop (127 * i)).take 127)) d

/-- Creates a ledger record; it is mirrored to the buddy and waits in SRAM until LEDGER_WRITE (R421, R480). During a commit at most
4,096 wait (R467). -/
def Dev.ledger (e : Env) (d : Dev) (type die : Nat) (payload : List Nat) : Dev :=
  if d.mgmt.committing && decide (4096 ≤ d.mgmt.wait.length) then d else
  let r : LedgerRec :=
    { seq := d.mgmt.nextSeq, type := type, die := die, incarnation := d.mgmt.incarnation,
      synced := d.fab.ptpState == 2, time := e.time, payload := payload.map (BitVec.ofNat 64), bad := false }
  let next := if d.mgmt.nextSeq + 1 = 2 ^ 32 then 1 else d.mgmt.nextSeq + 1
  ({ d with mgmt := { d.mgmt with wait := d.mgmt.wait ++ [r], nextSeq := next } } : Dev).mirrorLedger e

end Sys2Proof.Machine
end

