-- ==== Sys2Proof/Machine/L2.lean ====
section
/-! DEFINITION. What a slice and its HBM controller check (R240, R245), uncorrectable sectors, retirement (R253), repair of common
regions (R255, R451), and how every agent but a core's loads and stores reads memory at its home (R237, R247). -/

namespace Sys2Proof.Machine

/-- The region that holds a local HBM address, with its registration (R449). -/
def Dev.regionOf (d : Dev) (a : Nat) : Option Nat :=
  if d.get (SHARE_OWN.OWNER (shareOf a)) = 18 then some (d.get (SHARE_OWN.REGION (shareOf a))) else none

/-- Marks a channel retire-pending (R253, R468): causes 1 and 2 within the bound MAX_RETIRE only. -/
def Dev.retireChannel (e : Env) (d : Dev) (ch cause : Nat) : Dev :=
  if d.get (HBM_CH_STATUS.RETIRE_PENDING ch) = 1 then d
  else
    let bounded := cause == 1 || cause == 2
    if bounded && decide (d.mgmt.cfg.maxRetire ≤ d.mem.retired) then d.autoAct e 5 ch 0 0 cause
    else
      let d := (d.put (HBM_CH_STATUS.RETIRE_PENDING ch) 1).put HBM_CAPACITY.PENDING (d.get HBM_CAPACITY.PENDING + 1)
      let r := HBM_RETIRE.PENDING (ch / 64)
      let d := d.put r (setBits (d.get r) (ch % 64) 1 1)
      let d := if bounded then { d with mem := { d.mem with retired := d.mem.retired + 1 } } else d
      let d := { d with mgmt := { d.mgmt with retireMap := d.mgmt.retireMap ++ [ch] } }
      let d := d.ledger e 0x04 (4 + ch / 16) [ch + cause * 256]
      (d.postD e 0x32 31 31 [ch + cause * 256]).autoAct e 5 ch 0 1 cause

/-- An uncorrectable sector of HBM is found: counted, reported, and weighed against the threshold of its window (R245,
R253). -/
def Dev.hbmUe (e : Env) (d : Dev) (s : Nat) : Dev :=
  let ch := d.chanOf (s * 32)
  let d := (d.bump (HBM_CH_ECC.UE ch) 1).postD e 0x30 31 31 [s * 32]
  let since := e.time - d.mgmt.cfg.retireHours * 3600000000000
  let ts := (d.mem.ueTimes.look ch).filter (fun t => since ≤ t) ++ [e.time]
  let m : MemSys :=
    { d.mem with
      failed := if d.mem.failed.contains s then d.mem.failed else d.mem.failed ++ [s],
      ueTimes := d.mem.ueTimes.put ch ts }
  let d := { d with mem := m }
  if d.mgmt.cfg.retireCount ≤ ts.length then d.retireChannel e ch 1 else d

/-- A sector of a region stays poisoned: counted and reported to every reader partition and to the owner (R255, R451). -/
def Dev.regionDamaged (e : Env) (d : Dev) (r s : Nat) : Dev :=
  let d := d.bump (CR_STATUS.DAMAGED r) 1
  let owner := d.get (CR_CFG.OWNER r)
  let readers := (maskList 16 (d.get (CR_READERS.MASK r))).filter (fun p => p != owner)
  (readers ++ [owner]).foldl (fun d p => d.postP e 0x34 p [s / 4 * 128]) d

/-- What a read of HBM will find of a sector; one that holds no write any more fails at each. -/
def Dev.hbmUpset (d : Dev) (s : Nat) : EccFind := if d.upset (.hbmHard s) = .clean then d.upset (.hbm s) else .uncorrectable

/-- The good copy is written over a failed sector at HBM and read back, on the account of the region's owner, unless a rewrite was
performed before it; where it does not verify, the sector stays poisoned (R255, R451). -/
def Dev.regionRepair (e : Env) (d : Dev) (r s mirror : Nat) (v : Sector) : Dev :=
  if (d.homeSector s).2 then
    let d := { d with mem := { d.mem with l2 := Sparse.clearRange d.mem.l2 s (s + 1) } }
    let d := d.hbmWrite s v false
    let d := (d.countBytes (d.chanOf (s * 32)) 1 32).sectors (d.get (CR_CFG.OWNER r)) 1
    if d.hbmUpset s = .clean && !d.chanDown (d.chanOf (s * 32)) then (d.bump (CR_STATUS.REPAIRED r) 1).postD e 0x33 31 31 [s * 32, mirror]
    else ({ d with mem := { d.mem with failed := if d.mem.failed.contains s then d.mem.failed else d.mem.failed ++ [s] } } : Dev).regionDamaged e r s
  else d

/-- An uncorrectable sector of a common region is handled by the region's mirror (R255, R451): repaired at once from a
local mirror, asked of the buddy, or left damaged. -/
def Dev.regionFailed (e : Env) (d : Dev) (s : Nat) : Dev :=
  if d.mem.repairs.contains s then d else
  match d.regionOf (s * 32) with
  | none => d
  | some r =>
    let m := d.get (CR_MIRROR.ADDR r) + (s * 32 - d.get (CR_CFG.FIRST r) * shareBytes)
    match d.get (CR_CFG.MIRROR r) with
    | 1 =>
      if d.sliceOf (m / 32) = d.sliceOf s then (d.bump (CR_STATUS.SAME_STACK r) 1).regionDamaged e r s
      else
        let d := d.l2Fetch (m / 32) (d.get (CR_CFG.OWNER r)) 1
        let v := d.homeSector (m / 32)
        if v.2 then d.regionDamaged e r s else d.regionRepair e r s m v.1
    | 2 =>
      let peer := bits m 40 20
      if d.peerDead peer then d.regionDamaged e r s
      else
        let d := { d with mem := { d.mem with repairs := d.mem.repairs ++ [s] } }
        d.fabSend e peer (.repair s) none (d.packet peer tRead 1 0 0 32 (m % 2 ^ 40) [])
    | _ => d.regionDamaged e r s

/-- What a check finds: what the environment says, else what lies there. -/
def eccOr (a b : EccFind) : EccFind := if a = .clean then b else a

/-- The check of a sector that a request reads at its slice (R240, R245): of the L2's word where it holds the sector, else of HBM.
`find`: what the environment says; what lies there is found too. -/
def Dev.l2Check (e : Env) (d : Dev) (s : Nat) (find : EccFind) : Dev :=
  let l := d.mem.l2.look s
  let ch := d.chanOf (s * 32)
  if l.held then
    let lies := d.upset (.l2 s)
    let d := d.forget (.l2 s)
    if l.poison then d
    else
      match eccOr find lies with
      | .clean => d
      | .corrected => d.bump (L2_ECC.CE (d.sliceOf s)) 1
      | .uncorrectable => ((d.setL2 s { l with poison := true }).bump (L2_ECC.UE (d.sliceOf s)) 1).regionFailed e s
  else if d.chanDown ch || d.anyPoison (s * 32) 32 then d
  else
    let lies := d.hbmUpset s
    let d := d.forget (.hbm s)
    if d.mem.failed.contains s then (d.hbmUe e s).regionFailed e s
    else
      match eccOr find lies with
      | .clean => d
      | .corrected => d.bump (HBM_CH_ECC.CE ch) 1
      | .uncorrectable => (d.hbmUe e s).regionFailed e s

/-! Reads of the agents that have no request in the queue of a slice: instruction fetch, Chanter, the engines, the Expert Dispatch
Unit, KLP and PCIe. -/

/-- A sector is read at its slice for a partition in a class: checked, then taken by the L2 (R237, R240, R245, R247). -/
def Dev.l2Read (e : Env) (d : Dev) (s part cls : Nat) : Dev :=
  let d := d.l2Check e s .clean
  if d.mem.repairs.contains s then d else d.l2Fetch s part cls

/-- The sectors that n bytes from an address touch. -/
def sectorSpan (a n : Nat) : List Nat := if n = 0 then [] else (List.range ((a + n - 1) / 32 - a / 32 + 1)).map (fun i => a / 32 + i)

/-- The n bytes from an address are read at their homes: the checks of each memory, and the sectors that the L2 takes. -/
def Dev.takeHome (e : Env) (d : Dev) (a n part cls : Nat) : Dev :=
  match d.place a with
  | .hbm x => (sectorSpan x n).foldl (fun d s => d.l2Read e s part cls) d
  | .sp c o => d.spCheck c o n
  | .ses x => d.sesCheck (x / 8 * 8)
  | _ => d

/-- A read of these bytes waits at the slice for the repair of a sector (R451; log entry 80). -/
def Dev.repairing (d : Dev) (a n : Nat) : Bool :=
  match d.place a with
  | .hbm x => !d.mem.repairs.isEmpty && (sectorSpan x n).any d.mem.repairs.contains
  | _ => false

/-- The n bytes from an address at their homes, each with its mark of poison; none where one names no local memory. -/
def Dev.homeMarked (d : Dev) (a n : Nat) : Option (List (Byte × Bool)) := (List.range n).mapM (fun i => d.homeByte (a + i))

/-- Bytes with their marks of poison are written at their homes, in the units that a memory marks (R453). `fuel`: at least the units. -/
def Dev.writeMarked (d : Dev) (a part cls : Nat) : List (Byte × Bool) → Nat → Dev
  | _, 0 => d
  | bs, fuel + 1 =>
    if bs.isEmpty then d
    else
      let unit := match d.place a with | .sp _ _ => 8 | _ => 32
      let now := bs.take (unit - a % unit)
      Dev.writeMarked (d.writeHome a part (now.map (fun b => b.1)) (now.any (fun b => b.2)) cls) (a + now.length) part cls
        (bs.drop now.length) fuel

end Sys2Proof.Machine
end

