-- ==== Sys2Proof/Machine/Issue.lean ====
section
/-! DEFINITION. Issue of one group instruction (R39, R48, R60, R61, R66-R72), exceptions (R97-R102, R540), and what
releases and acquires wait for and discard (R89, R91, R234, R266, R267). -/

namespace Sys2Proof.Machine

/-! The status of an array. -/

/-- Array c. -/
def Dev.arr (d : Dev) (c : Nat) : Arr := d.array.arrs.look c

/-- Its current level at a time: it falls and rises by 1 per ACLK cycle (R134). -/
def Arr.levelAt (a : Arr) (now : Nat) : Nat :=
  let n := (now - a.since) / 4
  match a.st with
  | .off => 0
  | .rampDown => a.level - n
  | .rampUp => min 64 (a.level + n)
  | _ => 64

/-- ARRAY_STATUS of array c: 0 where none is present (R139). -/
def Dev.arrayStatus (d : Dev) (c : Nat) : Nat :=
  if bit (d.reg (ARRAY_MASK.off (c / 64))) (c % 64) then
    let v := setBits (d.reg (ARRAY_STATUS.off c)) (ARRAY_STATUS.LEVEL c).lo (ARRAY_STATUS.LEVEL c).w ((d.arr c).levelAt (d.cycles (sectOf c)))
    setBits v (ARRAY_STATUS.PRESENT c).lo 1 1
  else 0

/-! Exceptions. -/

/-- What an exception reports beside its group and time (R97, R102). -/
structure Exc where
  code : Nat
  lanes : Nat
  trap : Nat := 0
  addr : Nat := 0
  owner : Option Nat := none
  mxTag : Nat := 0
  reqId : Nat := 0
  tilePc : Nat := 0
  counts : Option (Nat × Nat) := none   -- PRODUCED and CONSUMED that the check of a counter saw (R308)
deriving DecidableEq, Repr, Inhabited

/-- Which of two captures is reported: the earlier, then the lower core, quarter and slot (R102). -/
def Capture.before (a b : Capture) : Bool :=
  if a.time = b.time then decide (gidKey a.gid < gidKey b.gid) else decide (a.time < b.time)

/-- What an exception captures (R97, R367). -/
def Dev.capture (d : Dev) (ex : Exc) (g : Gid) (x : Group) (time : Nat) : Capture :=
  let q := (d.launchOf x.launch).queue
  { code := ex.code, gid := g, lanes := BitVec.ofNat 32 ex.lanes, trap := ex.trap, pc := x.pc, addr := ex.addr,
    owner := ex.owner, mxTag := ex.mxTag, reqId := ex.reqId, tilePc := BitVec.ofNat 64 ex.tilePc, mask := x.mask,
    depth := x.stack.length, time := time, counts := ex.counts, head := d.get (QUEUE_STATUS.HEAD q), tail := d.get (QUEUE_TAIL.TAIL q),
    array := d.arrayStatus g.core }

/-- A capture becomes the launch's, or counts as a further one beside the reported one (R102). -/
def Launch.take (l : Launch) (cap : Capture) : Launch :=
  match l.exc with
  | none => { l with exc := some cap }
  | some c => { l with exc := some (if cap.before c then cap else c), further := l.further + 1 }

/-- The group halts on an exception: its capture goes to its launch, or counts as a further one (R97, R102). -/
def Dev.raise (e : Env) (d : Dev) (g : Gid) (x : Group) (ex : Exc) : Dev :=
  let l := d.launchOf x.launch
  let d := ((d.setGrp g { x with st := .halted }).setLaunch (l.take (d.capture ex g x e.time))).pmc g.core (some g.quarter) l.part 15 1
  d.trace e 4 g l.part (ex.code + 256 * lowLane ex.lanes)

/-! The reconvergence stack. -/

/-- What the check before an instruction finds (R48, R50, R60, R61). -/
inductive Settled where
  | run (pc : DWord) (mask : BitVec 32) (stack : List RecEntry)
  | ended                                                -- no live lane remains
  | arrive (pc : DWord) (mask : BitVec 32) (stack : List RecEntry) (clu : Bool) (id : Nat)
      -- the exited path counts as arrived at the barrier where the other waits
  | diverge                                              -- BARRIER_DIVERGENCE
deriving DecidableEq, Repr, Inhabited

/-- at_pc of R48, with a path that has no lanes taken as at its rpc (R50), and a path that waits at a barrier (R60, R61).
`live`: the live lanes of the group. -/
def settle (live : BitVec 32) : List RecEntry → DWord → BitVec 32 → Settled
  | [], pc, mask => if mask = 0 then .ended else .run pc mask []
  | t :: rest, pc, mask =>
    if mask = 0 ∨ pc = t.rpc then
      match t.bar with
      | some (clu, id) =>
        if mask = 0 ∧ t.pendMask = live then
          .arrive t.pendPc t.pendMask ({ t with pendMask := 0, bar := none } :: rest) clu id
        else .diverge
      | none =>
        let wm := t.waitMask ||| mask
        if t.pendMask ≠ 0 then .run t.pendPc t.pendMask ({ t with pendMask := 0, waitMask := wm } :: rest)
        else settle live rest t.rpc wm
    else .run pc mask (t :: rest)

/-- The check on a group. -/
def Group.settled (x : Group) : Settled := settle (~~~x.exited) x.stack x.pc x.mask

/-! Fetch. -/

/-- Outcome of a fetch (R66, R274). -/
inductive Fetched where
  | word (w : Nat)       -- the core's instruction cache holds this row's word
  | fill (p : Place)     -- the word has to come from its home
  | other (w : Nat)      -- the word is another one
  | exc (x : Exc)
  | miss (va : Nat)
deriving DecidableEq, Repr, Inhabited

/-- Key of an instruction word in a core's instruction cache. -/
def icKey (launch core a : Nat) : Nat := launch * 2 ^ 80 + core * 2 ^ 64 + a

/-- The core of a key. -/
def icCore (k : Nat) : Nat := k / 2 ^ 64 % 2 ^ 16

/-- One instruction word at a home of code: HBM or a scratchpad. -/
def Dev.codeWord (d : Dev) : Place → Option Nat
  | .hbm x => some (leOf (sectorBytes (d.homeSector (x / 32)).1 (x % 32) 8))
  | .sp k o => some (leOf (d.spRead k o 8))
  | _ => none

/-- One instruction word at an address of a kernel's code: the one the core's instruction cache holds, else one to be filled from its
home. Where the two differ, either may be the word of the moment (R274): the one the environment offers, `want`. DEDUCED: an address
that is not 8-byte aligned names no instruction and raises FETCH_FAULT (log entry 84). -/
def Dev.fetchWord (d : Dev) (g : Gid) (l : Launch) (a want : Nat) : Fetched :=
  let c := if l.phys then d.checkPhysical { kernel := l.kernel, part := l.part, dma := false, march := false } a 8 kFetch
    else d.checkVirtual g.core l.asid a 8 kFetch false
  let bad : Fetched := .exc { code := 0x04, lanes := 0, addr := a }
  if a % 8 ≠ 0 then bad else
  match c with
  | .miss va => .miss va
  | .exc _ => bad
  | .ok p _ =>
    match d.codeWord p with
    | none => bad
    | some v =>
      match d.core.icache.find? (fun x => x.1 == icKey l.id g.core a) with
      | none => .fill p
      | some x => if x.2.toNat = want then .word want else if v = want then .fill p else .other x.2.toNat

/-- Words that a core's instruction cache of 64 KiB holds. -/
def icWords : Nat := 8192

/-- The core keeps a fetched word; which word leaves a full cache is open (R66, R274; log entry 82). -/
def Dev.cacheWord (d : Dev) (launch core a w : Nat) : Dev :=
  let k := icKey launch core a
  let mine := d.core.icache.filter (fun x => icCore x.1 == core && x.1 != k)
  let rest := if mine.length < icWords then d.core.icache
    else d.core.icache.filter (fun x => x.1 != (mine.getD (Config.icVictim core a % icWords) (0, 0)).1)
  { d with core := { d.core with icache := rest.put k (BitVec.ofNat 64 w) } }

/-- A word is fetched from its home into the core's instruction cache, in the latency-critical class; poisoned data raises
POISON_CONSUMED at the instruction (R66, R247, R274). -/
def Dev.fillWord (e : Env) (d : Dev) (g : Gid) (l : Launch) (a : Nat) (p : Place) : Dev × Option Exc :=
  let d := match p with
    | .hbm x => d.l2Read e (x / 32) (if l.kernel then 31 else l.part) 0
    | .sp k o => d.spCheck k o 8
    | _ => d
  let d := if l.phys then d else d.rtTouch g.core l.asid a
  let wait := match p with | .hbm x => d.mem.repairs.contains (x / 32) | _ => false
  let bad := match p with
    | .hbm x => (d.homeSector (x / 32)).2
    | .sp k o => d.anyPoison (spAddr k o) 8
    | _ => false
  if wait then (d, none)
  else if bad then (d, some { code := 0x0E, lanes := 0, addr := a })
  else (d.cacheWord l.id g.core a ((d.codeWord p).getD 0), none)

/-! Encoding. -/

/-- The first word of an instruction (R67). -/
def wordLo (w : AWord) (cls op : Nat) : Nat :=
  cls + b2n w.x * 2 ^ 4 + w.guard.toNat * 2 ^ 5 + op % 64 * 2 ^ 10 + w.d.toNat * 2 ^ 16 + w.a.toNat * 2 ^ 25 +
  w.b.toNat * 2 ^ 34 + w.c.toNat * 2 ^ 43 + w.mod.toNat * 2 ^ 52 + w.pd.toNat * 2 ^ 60 + b2n w.rsv * 2 ^ 63

/-- The second word of a 128-bit instruction (R68). -/
def wordHi (w : AWord) : Nat := w.imm.toNat + w.ext.toNat * 2 ^ 32

/-- Operations of each class (R71). -/
def opCount : Nat → Nat
  | 0 => 10 | 1 => 8 | 2 => 15 | 3 => 7 | 4 => 3 | 5 => 6 | 6 => 5 | 7 => 4 | 8 => 1 | 9 => 3 | 10 => 4 | 11 => 2
  | 12 => 10 | 13 => 5 | _ => 0

/-- A first word of no listed operation, or with bit 63 set (R71). -/
def illegalWord (lo : Nat) : Bool := decide (opCount (bits lo 0 4) ≤ bits lo 10 6) || bit lo 63

/-- The forms of an instruction (R71). -/
inductive Form where
  | short | long | either
deriving DecidableEq, Repr

/-- What a row of the operation-code table fixes: class, operation, form, whether EXT has a meaning (R68, R71). -/
structure Code where
  cls : Nat
  op : Nat
  form : Form := .either
  ext : Bool := false
deriving DecidableEq, Repr

/-- The X bit matches the form, EXT is 0 where it has no meaning, bit 63 is 0 (R67, R68, R71). -/
def Code.legal (k : Code) (w : AWord) : Bool :=
  !w.rsv &&
  (match k.form with | .short => !w.x | .long => w.x | .either => true) &&
  (k.ext || !w.x || w.ext == 0)

/-! Issue. -/

/-- What an instruction's own rules see: the group as it stands at the instruction, the executing lanes, the address after
it, its launch. -/
structure Issue where
  g : Gid
  w : AWord
  x : Group
  em : Nat
  next : DWord
  launch : Launch
deriving DecidableEq, Repr

/-- What an instruction comes to. -/
inductive Issued where
  | wait (why : Nat := 1) -- the group is not ready, for a reason of Group.stall: nothing else changes
  | done (d : Dev)      -- it has issued
  | park (d : Dev)      -- the group waits for a translation; the instruction has not issued (R84)
  | fault (x : Exc)     -- an exception: it performs nothing (R97)

/-- The group with its registers, and the pc past the instruction. -/
def Issue.past (i : Issue) : Group := { i.x with pc := i.next }

/-- An instruction that only changes its group. -/
def Issue.finish (i : Issue) (d : Dev) (x : Group) : Issued := .done (d.setGrp i.g { x with pc := i.next })

/-- An exception of the executing lanes. -/
def Issue.fault (i : Issue) (code : Nat) : Issued := .fault { code := code, lanes := i.em }

/-- ILLEGAL_INSTRUCTION, ILLEGAL_OPERAND (R98). -/
def xIllegal : Nat := 0x01
def xOperand : Nat := 0x02

/-- Parks a group on a translation that misses (R84, R335); it stalls where the request has no room. -/
def Dev.parkTranslate (e : Env) (d : Dev) (g : Gid) (x : Group) (asid va kinds : Nat) : Option Dev :=
  match d.rtRequest e asid va kinds 0 g.core (.group g) with
  | none => none
  | some (id, d) =>
    some ((d.setGrp g { x with st := .translate, reqId := id }).pmc g.core (some g.quarter) (d.launchOf x.launch).part 14 1)

/-- Counts an issue (R523, R524). -/
def Dev.countIssue (d : Dev) (g : Gid) (part cls : Nat) : Dev :=
  (d.bump (CNT_CLASS.COUNT g.core cls) 1).pmc g.core (some g.quarter) part 2 1

/-- The instruction of a word at a group's place: what its own rules see. -/
def Dev.issueOf (d : Dev) (g : Gid) (w : AWord) (x : Group) : Issue :=
  { g := g, w := w, x := x, em := x.execMask w.guard, next := x.pc + (if w.x then 16 else 8), launch := d.launchOf x.launch }

/-! The selection of the issuing group (R39). -/

/-- The group of a slot is ready as far as its own state says, and the pipelines do not hold its next instruction (`busy`). -/
def Dev.contends (d : Dev) (g : Gid) (busy : BitVec 16) : Bool :=
  let x := d.grp g
  x.live && x.st == .run && !busy.getLsbD g.slot &&
  (match x.settled with | .run _ _ _ | .diverge => true | _ => false)

/-- The quarter selects the group of a slot: the one that issued last while its run is below 16, else the first ready one in ascending
slot order after it (R39). DESIGN CHOICE: cycles without an issue do not end a run, and before its first issue a quarter takes the
lowest slot (log entry 79). -/
def Dev.picks (d : Dev) (g : Gid) (busy : BitVec 16) : Bool :=
  let t := d.core.turn.look (g.core * 4 + g.quarter)
  let others := (List.range 16).filter (fun s => s != g.slot && d.contends { g with slot := s } busy)
  let after := fun (s : Nat) => (s + 31 - t.1) % 16
  if t.2 = 0 then others.all (fun s => decide (g.slot < s))
  else if g.slot = t.1 then decide (t.2 < 16) || others.isEmpty
  else others.all (fun s => if s = t.1 then decide (16 ≤ t.2) else decide (after g.slot < after s))

/-- The slot that has issued last and its run of issues, 16 standing for 16 or more. -/
def Dev.turned (d : Dev) (g : Gid) : Dev :=
  let k := g.core * 4 + g.quarter
  let t := d.core.turn.look k
  let n := if t.2 ≠ 0 ∧ t.1 = g.slot then min 16 (t.2 + 1) else 1
  { d with core := { d.core with turn := d.core.turn.put k (g.slot, n) } }

/-- What every issue leaves after the instruction's own effect: a refused page is forgotten, the quarter's turn, the count of the issue
(R39, R336, R523, R524). -/
def Dev.issued (d : Dev) (g : Gid) (k : Code) (x : Group) (part : Nat) : Dev :=
  let y := d.grp g
  let d := if x.denied.isSome || y.stall != 0 then d.setGrp g { y with denied := none, stall := 0 } else d
  (d.turned g).countIssue g part k.cls

/-- The operands of a class are well formed: no bad code, no u destination beside a v source in classes 1 to 6 (R69, R72-R74). -/
def operandsOk (x : Group) (w : AWord) (k : Code) (ops : List Opnd) : Bool :=
  ops.all (fun o => o.ok x.alloc w.x) && !(decide (1 ≤ k.cls) && decide (k.cls ≤ 6) && mixed ops)

/-- Lanes in which a register the instruction reads fails its parity check. -/
def Issue.parityLanes (i : Issue) (ops : List Opnd) : Nat :=
  if ops.any (fun o => !o.dst && !o.regs.isEmpty) then i.em &&& i.w.parity.toNat else 0

/-- The group is seen to wait (R524). -/
def Dev.stalls (d : Dev) (g : Gid) (why : Nat) : Dev := d.setGrp g { d.grp g with stall := why }

/-- One instruction of a group that is ready: fetched, checked, then performed by `body` (R48, R66, R70-R74). `legal`: no
reserved MOD or EXT value; `ops`: its operands. DEDUCED: the word's own faults come before its operands', and both are found at
issue, whether or not a lane passes the guard: the lane mask is then empty (log entry 78). A register read that fails its parity check raises REG_PARITY in the
lanes that read it (R98). -/
def Dev.issueAt (e : Env) (d : Dev) (g : Gid) (w : AWord) (k : Code) (legal : Bool) (ops : List Opnd)
    (x : Group) (body : Issue → Issued) : Dev :=
  let i := d.issueOf g w x
  if !d.picks g w.busy then d
  else if !k.legal w || !legal then d.raise e g x { code := xIllegal, lanes := i.em }
  else if !operandsOk x w k ops then d.raise e g x { code := xOperand, lanes := i.em }
  else if !x.regsFree ops then d.stalls g 1
  else if i.parityLanes ops ≠ 0 then d.raise e g x { code := 0x0F, lanes := i.parityLanes ops }
  else
    match body i with
    | .wait why => d.stalls g why
    | .fault ex => d.raise e g x ex
    | .park d' => d'
    | .done d' => d'.issued g k x i.launch.part

/-- The quarters of a section do not issue: a clock switch has begun, or the clocks are off (R19, R473, R532). -/
def Dev.issueStopped (d : Dev) (s : Nat) : Bool :=
  d.mgmt.clocksOff || (match d.mgmt.switch.look s with | some w => w.begun | Option.none => false)

/-- A word offered for a group that stands at its next instruction: it issues where the core's instruction cache holds it; a word the
cache lacks is fetched first; any word of no listed operation raises ILLEGAL_INSTRUCTION, a failed fetch FETCH_FAULT or
POISON_CONSUMED (R66, R71). DEDUCED: these name the whole active mask, as no lane executes yet (log entry 84). -/
def Dev.issueNext (e : Env) (d : Dev) (g : Gid) (w : AWord) (k : Code) (legal : Bool) (ops : List Opnd)
    (body : Issue → Issued) (x : Group) : Dev :=
  let l := d.launchOf x.launch
  let a := x.pc.toNat
  let refuse := fun (d : Dev) (ex : Exc) => d.raise e g x { ex with lanes := x.mask.toNat }
  let missed := fun (va : Nat) =>
    match x.denied with
    | some (page, id) => if page = va / 4096 * 4096 then refuse d { code := 0x04, lanes := 0, addr := a, reqId := id }
      else (d.parkTranslate e g x l.asid va kFetch).getD d
    | none => (d.parkTranslate e g x l.asid va kFetch).getD d
  let filled := fun (a : Nat) (p : Place) =>
    match d.fillWord e g l a p with
    | (d, none) => d
    | (d, some ex) => refuse d ex
  match d.fetchWord g l a (wordLo w k.cls k.op) with
  | .exc ex => refuse d ex
  | .miss va => missed va
  | .fill p => filled a p
  | .other v => if illegalWord v then refuse d { code := xIllegal, lanes := 0 } else d
  | .word _ =>
    if w.x then
      match d.fetchWord g l (a + 8) (wordHi w) with
      | .exc ex => refuse d ex
      | .miss va => missed va
      | .fill p => filled (a + 8) p
      | .other _ => d
      | .word _ => d.issueAt e g w k legal ops x body
    else d.issueAt e g w k legal ops x body

/-- A word offered for a group: it issues where the group is resident and running, its section's clocks are on, and its
reconvergence stack is settled (R39, R48, R66, R473). -/
def Dev.issue (e : Env) (d : Dev) (g : Gid) (w : AWord) (k : Code) (legal : Bool) (ops : List Opnd)
    (body : Issue → Issued) : Dev :=
  let x0 := d.grp g
  if !(x0.live && x0.st == .run && !d.issueStopped (sectOf g.core)) then d else
  match x0.settled with
  | .ended | .arrive _ _ _ _ _ => d
  | .diverge => d.raise e g x0 { code := 0x11, lanes := x0.mask.toNat }
  | .run pc mask stack => d.issueNext e g w k legal ops body { x0 with pc := pc, mask := mask, stack := stack }

/-! Releases and acquires. -/

/-- Every load of the group has bound its value (R266). -/
def Group.loadsBound (x : Group) : Bool := x.accs.all (fun a => a.waits.isEmpty)

/-- A store or atomic of a core waits for its slice (R89). -/
def Dev.coreStores (d : Dev) (core : Nat) : Bool :=
  d.mem.l2q.any (fun r => r.src == .core core && (match r.op with | .write _ | .atom _ => true | _ => false))

/-- A scratchpad store of the group is not performed. -/
def Dev.spStores (d : Dev) (g : Gid) : Bool := d.mem.lz.any (fun z => z.gid == g) || d.mem.port.any (fun z => z.gid == g)

/-- A scratchpad store of a group of the core is not performed. -/
def Dev.coreSpStores (d : Dev) (core : Nat) : Bool := d.mem.lz.any (fun z => z.sender == core) || d.mem.port.any (fun z => z.sender == core)

/-- An owner of a fabric packet is the group. -/
def FabOwner.isOf (g : Gid) : FabOwner → Bool
  | .store gs => gs.any (fun x => x.1 == g)
  | .load h _ => h == g
  | _ => false

/-- A packet is a store, atomic or Sesame operation of a group of the core, or an access of the group (R89, R266). -/
def Sent.ordersOn (g : Gid) (s : Sent) : Bool :=
  match s.owner with
  | .store gs => gs.any (fun x => x.1.core == g.core)
  | .load h _ => h == g || (h.core == g.core && s.pkt.type == tAtomic)
  | _ => false

/-- Operations whose source waits for the store's answer (R308, R540). -/
def SesKind.holds : SesKind → Bool
  | .wait | .take | .arrive | .prod | .cons | .lock => true
  | _ => false

/-- A Sesame operation of the group, or one of its core that no group waits for, is not accepted by its store (R89, R266). -/
def SesOp.ordersOn (g : Gid) (o : SesOp) : Bool :=
  match o.src with
  | .group h _ _ => h == g || (h.core == g.core && !o.kind.holds && o.kind != .load)
  | _ => false

/-- The release side of a scope has nothing left to wait for (Table: Fence actions by scope; R89, R266): of the stores ahead of it in the
core's outbound queue, those of the core's other groups too. -/
def Dev.releaseReady (d : Dev) (g : Gid) (x : Group) (scope : Nat) : Bool :=
  x.loadsBound &&
  (decide (scope < 3) || (!d.coreStores g.core && !d.coreSpStores g.core)) &&
  (decide (scope < 4) || (!d.ses.queue.any (fun o => o.ordersOn g) && !d.mem.hostq.any (fun w => w.core == g.core))) &&
  (decide (scope < 5) || !d.outstanding.any (fun x => !x.2.acked && x.2.ordersOn g))

/-- The L1 and Husk of a core are invalidated; fills in flight are not installed and take no later load (R91, R234,
R235). -/
def Dev.invalidateL1 (d : Dev) (core : Nat) : Dev :=
  let d := d.incr (L1_INVAL.COUNT core)
  let cs := d.core
  { d with core := { cs with
      l1 := Sparse.clearRange cs.l1 (core * 2048) (core * 2048 + 2048),
      husk := cs.husk.put core [],
      fills := cs.fills.map (fun f => if f.core = core then { f with install := false, attach := false } else f) } }

/-- The acquire side of a scope, once every earlier load of the group has returned (R89, R267). -/
def Dev.acquireSide (d : Dev) (core scope : Nat) : Dev := if 3 ≤ scope then d.invalidateL1 core else d

end Sys2Proof.Machine
end

