-- ==== Sys2Proof/Machine/MxArray.lean ====
section
/-! DEFINITION. The matrix arrays (R103-R139, R154-R161): the mode word and what follows from it, the arithmetic of a tile,
the state of an array and what starts, ends, aborts and clears it. -/

namespace Sys2Proof.Machine

/-! The mode word (R120). -/

def mwBroad (m : Nat) : Bool := bit m 0
def mwNlog (m : Nat) : Nat := bits m 1 3
def mwTokens (m : Nat) : Nat := if mwBroad m then bits m 4 9 + 1 else 2 ^ mwNlog m
def mwW (m : Nat) : Nat := bits m 13 4
def mwA (m : Nat) : Nat := bits m 17 4
def mwSparse (m : Nat) : Nat := bits m 21 2

/-- Bits of an element of a format. -/
def fmtBits : Nat → Nat
  | 2 | 3 => 6
  | 4 | 6 => 4
  | 7 | 8 => 16
  | _ => 8

/-- The format is an integer format. -/
def fmtInt (f : Nat) : Bool := f == 5 || f == 6

/-- The floating-point layout of a format code. -/
def fmtFloat : Nat → Fmt
  | 0 => e4m3
  | 1 => e5m2
  | 2 => e3m2
  | 3 => e2m3
  | 4 => e2m1
  | 7 => bf16
  | _ => fp16

/-- The weights carry scales; the bit is ignored for 16-bit formats (R145). -/
def mwScaleW (m : Nat) : Bool := bit m 23 && decide (mwW m ≤ 4)
/-- The activations carry scales. -/
def mwScaleA (m : Nat) : Bool := bit m 24 && decide (mwA m ≤ 4)

/-- The mode word is one MX.MODE accepts (R106, R120). -/
def mwLegal (m : Nat) : Bool :=
  decide (m / 2 ^ 25 = 0) && decide (mwW m ≤ 8) && decide (mwA m ≤ 8) && decide (mwNlog m ≤ 5) &&
  (fmtInt (mwW m) == fmtInt (mwA m)) && !(bit m 23 && fmtInt (mwW m)) && !(bit m 24 && fmtInt (mwA m)) &&
  mwSparse m != 3 &&
  (if mwBroad m then mwSparse m == 0 && mwNlog m == 0 else bits m 4 9 == 0)

/-- KB: Table: Rate classes (R105). -/
def mwKB (m : Nat) : Nat :=
  let wide := max (fmtBits (mwW m)) (fmtBits (mwA m))
  if wide = 16 then 16 else if wide = 8 then 32 else 64

/-- KL (R105). -/
def mwKL (m : Nat) : Nat := if mwSparse m = 0 then mwKB m else 2 * mwKB m

/-- The layout of the records of a mode (R107-R109, R116, R117). A broad block is a record of 128 rows by KBB elements. -/
structure Shape where
  rows : Nat
  toks : Nat
  k : Nat         -- logical elements of a record
  stored : Nat    -- stored weights of a row
  vb : Nat        -- bytes of values of a row
  mb : Nat        -- bytes of metadata
  sb : Nat        -- bytes of scales
  ab : Nat        -- bytes of a token's elements
  sab : Nat       -- bytes of a token's scales
  sub : Nat       -- roundings per record (R155)
deriving DecidableEq, Repr

/-- The shape of a mode word. -/
def shapeOf (m : Nat) : Shape :=
  let k := if mwBroad m then 8 * mwKB m else mwKL m
  let stored := match mwSparse m with | 1 => k / 2 | 2 => k / 4 | _ => k
  let toks := mwTokens m
  { rows := if mwBroad m then 128 else 1024 / toks, toks := toks, k := k, stored := stored,
    vb := stored * fmtBits (mwW m) / 8, mb := match mwSparse m with | 1 => k / 8 | 2 => k / 16 | _ => 0,
    sb := if mwScaleW m then ceilDiv k 32 else 0, ab := k * fmtBits (mwA m) / 8,
    sab := if mwScaleA m then ceilDiv k 32 else 0, sub := if mwBroad m then 8 else 1 }

/-- Offset of the metadata, of the scales and the end of a weight record (R108). -/
def Shape.metaAt (s : Shape) : Nat := roundUp (s.rows * s.vb) 128
def Shape.scaleAt (s : Shape) : Nat := s.metaAt + roundUp (s.rows * s.mb) 128
def Shape.wRec (s : Shape) : Nat := s.scaleAt + roundUp (s.rows * s.sb) 128
/-- Stride of an activation record (R109, R117). -/
def Shape.aRec (s : Shape) : Nat := roundUp (s.toks * (s.ab + s.sab)) 128
/-- The most records of a tile (R108, R116). -/
def maxRecords (m : Nat) : Nat := if mwBroad m then 4096 else 16384
/-- Output bytes of an element (R123). -/
def outBytes : Nat → Nat
  | 0 | 5 => 4
  | 1 | 2 => 2
  | _ => 1

/-! Arithmetic (R146, R147, R154-R161). -/

/-- An E8M0 scale (R144). -/
def scaleVal (s : Nat) : FVal := if s = 255 then .nan else .fin false 1 ((s : Int) - 127)

/-- The logical index of stored weight j of a row (R158, R159): `md` is the row's metadata. -/
def logicalIndex (sparse md j : Nat) : Nat :=
  match sparse with
  | 1 => 4 * (j / 2) + bits md (2 * j) 2
  | 2 => 4 * j + bits md (2 * j) 2
  | _ => j

/-- A stored weight of a row and the activation it multiplies: the fields of their two codes with their scales. `w`, `a`: the
records as little-endian numbers. -/
def pairAt (m : Nat) (s : Shape) (w a r t j : Nat) : Nat × Nat × FVal × FVal :=
  let wb := fmtBits (mwW m)
  let ab := fmtBits (mwA m)
  let md := bits w (8 * (s.metaAt + r * s.mb)) (8 * s.mb)
  let l := logicalIndex (mwSparse m) md j
  let ws := if mwScaleW m then scaleVal (bits w (8 * (s.scaleAt + r * s.sb + l / 32)) 8) else .fin false 1 0
  let as := if mwScaleA m then scaleVal (bits a (8 * (s.toks * s.ab + t * s.sab + l / 32)) 8) else .fin false 1 0
  (bits w (8 * r * s.vb + wb * j) wb, bits a (8 * t * s.ab + ab * l) ab, ws, as)

/-- The exact product of a pair (R147, R154). -/
def floatProduct (m : Nat) (p : Nat × Nat × FVal × FVal) : FVal :=
  (((fmtFloat (mwW m)).decode p.1).mul p.2.2.1).mul (((fmtFloat (mwA m)).decode p.2.1).mul p.2.2.2)

/-- The exact product of an integer pair (R156). -/
def intProduct (m : Nat) (p : Nat × Nat × FVal × FVal) : Int :=
  toSigned (fmtBits (mwW m)) p.1 * toSigned (fmtBits (mwA m)) p.2.1

/-- One reduction step of an output: the products of some stored weights join the accumulator, exactly and rounded once, or
modulo 2^32 (R154-R156). -/
def stepSum (m : Nat) (acc : Nat) (ps : List (Nat × Nat × FVal × FVal)) : Nat :=
  if fmtInt (mwW m) then ofSigned 32 (toSigned 32 acc + (ps.map (intProduct m)).sum)
  else (fp32.encode 0 false (ps.foldl (fun v p => v.add 0 (floatProduct m p)) (fp32.decode acc))).1

/-- One record of an output: its sub-steps in ascending K order (R155). -/
def recordSum (m : Nat) (s : Shape) (w a r t acc : Nat) : Nat :=
  let per := s.stored / s.sub
  (List.range s.sub).foldl (fun acc q => stepSum m acc ((List.range per).map (fun i => pairAt m s w a r t (q * per + i)))) acc

/-- A tile over a bank: each output over its records in order (R122, R155). `w`, `a`: the records of the spans. -/
def tileBank (m : Nat) (s : Shape) (recs : List (Nat × Nat)) (bank : Sparse Word) : Sparse Word :=
  (List.range s.toks).flatMap (fun t => (List.range s.rows).map (fun r =>
    let k := t * 1024 + r
    (k, BitVec.ofNat 32 (recs.foldl (fun acc x => recordSum m s x.1 x.2 r t acc) (bank.look k).toNat))))

/-! The state of an array. -/

/-- Replaces array c; ARRAY_STATUS follows (R139). -/
def Dev.setArr (d : Dev) (c : Nat) (a : Arr) : Dev :=
  let d := { d with array := { d.array with arrs := d.array.arrs.put c a } }
  let m := a.modeNow.getD 0
  let d := ((d.put (ARRAY_STATUS.MODE c) (bits m 0 1)).put (ARRAY_STATUS.NLOG c) (mwNlog m)).put (ARRAY_STATUS.QUEUE c) a.queue.length
  let st := match a.st with | .run => 0 | .freeze => 1 | .idleGap => 2 | .rampDown => 3 | .off => 4 | .rampUp => 5
  (d.put (ARRAY_STATUS.STATE c) st).put (ARRAY_STATUS.LEVEL c) (a.levelAt (d.cycles (sectOf c)))

/-- Dummy-operation cycles of an array, and the sum of their levels, for the owner of its section (R134, R136, R494). -/
def Dev.dummy (d : Dev) (c n levels : Nat) : Dev :=
  let d := (d.bump (ARRAY_DUMMY.COUNT c) n).bump (CNT_DUMMY.COUNT c) n
  d.charge (d.sectOwner (sectOf c)) (fun r => { r with dummy := r.dummy + n, dummy64 := addAt 2 r.dummy64 (halfOf c) levels })

/-- Freeze cycles of an array: dummy operations at full level (R133, R524). -/
def Dev.freezeCycles (d : Dev) (c n : Nat) : Dev :=
  if n = 0 then d else
  let d := (d.bump (ARRAY_FREEZE.COUNT c) n).dummy c n (64 * n)
  d.pmc c none (d.sectOwner (sectOf c)) 11 n

/-- A bank with its sums zeroed. -/
def Arr.zeroBank (a : Arr) (b : Nat) : Arr :=
  { a with
    acc := if b = 0 then [[], a.acc.getD 1 []] else [a.acc.getD 0 [], []],
    holds := if b = 0 then [false, a.holds.getD 1 false] else [a.holds.getD 0 false, false],
    poison := if b = 0 then [false, a.poison.getD 1 false] else [a.poison.getD 0 false, false] }

/-- A bank replaced after a tile. -/
def Arr.putBank (a : Arr) (b : Nat) (v : Sparse Word) (p : Bool) : Arr :=
  { a with
    acc := if b = 0 then [v, a.acc.getD 1 []] else [a.acc.getD 0 [], v],
    holds := if b = 0 then [true, a.holds.getD 1 false] else [a.holds.getD 0 false, true],
    poison := if b = 0 then [p, a.poison.getD 1 false] else [a.poison.getD 0 false, p] }

/-- A tile waits or runs. -/
def Arr.hasTile (a : Arr) : Bool := a.queue.any (fun c => match c with | .tile _ _ _ _ _ _ _ _ => true | _ => false)

/-- An undrained sum is zeroed and counted (R127). -/
def Dev.discardSum (d : Dev) (c : Nat) (a : Arr) : Dev × Arr :=
  let d := if a.holds.getD a.bank false then d.bump (ARRAY_DISCARDS.COUNT c) 1 else d
  (d, a.zeroBank a.bank)

/-- The scores of a drained bank, in token order; those of a poisoned bank are NaN (R173, R453). -/
def drainScores (s : Shape) (word : Nat) (bank : Sparse Word) (bad : Bool) (l : Launch) (core stamp : Nat) : List Score :=
  (List.range s.toks).flatMap (fun t => (List.range s.rows).map (fun r =>
    { ctx := bits word 0 6, expert := bits word 6 10 + r, token := bits word 16 12 + t,
      value := BitVec.ofNat 32 (if bad then fp32.nan else drainValue 0 (bank.look (t * 1024 + r)).toNat), kernel := l.kernel,
      part := l.part, core := some core, stamp := stamp }))

/-- What an array waits for before its next tile: the drain that still empties the bank the tile is to use; a broad tile of more
than 256 tokens has one accumulator set and waits for the drain before it (R104, R119, R133). -/
def Arr.blocked (a : Arr) : Bool :=
  a.draining.isSome && a.hasTile &&
    match a.queue with
    | .tile _ _ _ _ _ _ _ _ :: _ => let m := a.modeNow.getD 0; mwBroad m && decide (256 < mwTokens m)
    | _ => true

/-- The head of the queue needs no event: a mode or a drain takes effect as soon as no drain is at work (R104, R123, R127). -/
def Arr.headFree (a : Arr) : Bool :=
  match a.queue with
  | .mode _ :: _ | .drain _ _ _ _ _ :: _ => a.draining.isNone
  | _ => false

/-- Entries at the head that need no further event: MX.MODE sets the mode (R127), a drain swaps the banks, and one to the Expert
Dispatch Unit hands its scores over (R123, R173). `fuel`: at least the entries queued. -/
def Dev.pump (d : Dev) (c : Nat) : Nat → Dev
  | 0 => d
  | fuel + 1 =>
    let a := d.arr c
    if a.draining.isSome then d else
    match a.queue with
    | .mode w :: rest =>
      let r := d.discardSum c a
      Dev.pump (r.1.setArr c { r.2 with queue := rest, modeNow := some w, bufTag := none, buf := [], bufPoison := false }) c fuel
    | .drain _ dest desc toEdu sb :: rest =>
      let m := a.modeNow.getD 0
      let l := d.launchOf a.launch
      let sc := if toEdu then drainScores (shapeOf m) dest (a.acc.getD a.bank []) (a.poison.getD a.bank false) l c d.core.nextId else []
      let u := halfOf c
      let d := { d with edu := { d.edu with scores := d.edu.scores.put u (d.edu.scores.look u ++ sc) } }
      let dr : ArrDrain := { dest := dest, desc := desc, mode := m, toEdu := toEdu, sb := sb, tiles := a.executed }
      d.setArr c { a with queue := rest, bank := 1 - a.bank, draining := some dr }
    | _ => d

/-- The start latency of a tile on an idle array (R132); none for a tile that was frozen between two K-steps (R135). -/
def Arr.latency (a : Arr) : Nat := if a.midTile then 0 else if mwBroad (a.modeNow.getD 0) then 400 else 32

/-- ACLK cycles since the last change of the current state. -/
def Dev.arrCycles (d : Dev) (c : Nat) : Nat := (d.cycles (sectOf c) - (d.arr c).since) / 4

/-- Work arrives at an array without a tile at work: what it ran of its idle gap or ramp is counted, and it ramps up (R134). -/
def Dev.arrWake (d : Dev) (c : Nat) : Dev :=
  let a := d.arr c
  let now := d.cycles (sectOf c)
  let n := min 63 (d.arrCycles c)
  let lv := a.levelAt now
  let up := fun (d : Dev) => d.setArr c { a with st := .rampUp, level := lv, since := now, midTile := false }
  if a.clockFreeze then d else
  match a.st with
  | .idleGap => up (d.dummy c n (64 * n))
  | .rampDown => up (d.dummy c n (((List.range n).map (fun i => a.level - i)).sum))
  | .off => up d
  | _ => d

/-- A ramp-up ends with the first K-step: the dummy cycles since the work arrived (R132, R134). -/
def Dev.rampCount (d : Dev) (c : Nat) : Dev :=
  let a := d.arr c
  if a.st = .rampUp then
    let up := 64 - a.level
    let levels := ((List.range up).map (fun i => a.level + i)).sum
    let full := a.latency - up
    d.dummy c (up + full - (if a.level = 0 then 1 else 0)) (levels + 64 * full)
  else d

/-- The current state that the queue asks for: a tile that waits for a drain freezes the array, and when it may go on the wait is
counted; an array left without a tile is in its idle gap; one that is treated as idle wakes for its tile (R133, R134). -/
def Dev.arrFlow (d : Dev) (c : Nat) : Dev :=
  let a := d.arr c
  let now := d.cycles (sectOf c)
  let go := fun (d : Dev) (st : ArrState) => d.setArr c { a with st := st, since := now }
  if a.clockFreeze then d
  else if a.blocked then (if a.st = .run then go d .freeze else d)
  else if a.hasTile then
    match a.st with
    | .freeze => go (d.freezeCycles c (d.arrCycles c)) .run
    | .run | .rampUp => d
    | _ => d.arrWake c
  else
    match a.st with
    | .run => go d .idleGap
    | .freeze => go (d.freezeCycles c (d.arrCycles c)) .idleGap
    | _ => d

/-- Runs the head of the queue of an array. -/
def Dev.pumpAll (d : Dev) (c : Nat) : Dev := (d.pump c ((d.arr c).queue.length + 1)).arrFlow c

/-- A drain has ended its work on the bank: the bank is zeroed and the queue goes on; what a waiting tile lost after its ramp-up are
freeze cycles (R104, R133). -/
def Dev.drainEnd (d : Dev) (c : Nat) : Dev :=
  let a := d.arr c
  let d := if a.blocked && a.st == .rampUp && !a.clockFreeze then d.freezeCycles c (d.arrCycles c - max a.latency (64 - a.level)) else d
  (d.setArr c { a.zeroBank (1 - a.bank) with draining := none }).pumpAll c

/-- A kernel that uses the array starts on the core (R121, R124, R128). -/
def Dev.arrayStart (d : Dev) (c launch : Nat) : Dev :=
  let a := d.arr c
  let r := d.discardSum c a
  let b := (r.2.zeroBank 0).zeroBank 1
  r.1.setArr c { b with
    queue := [], modeIssue := none, modeNow := none, bufTag := none, buf := [], bufPoison := false, issued := 0, executed := 0,
    reports := [], draining := none, midTile := false, launch := launch }

/-- A kernel ends on the core: a sum not drained is zeroed and counted (R127). -/
def Dev.arrayEnd (d : Dev) (c : Nat) : Dev :=
  let r := d.discardSum c (d.arr c)
  r.1.setArr c { r.2 with launch := 0, reports := [] }

/-- An array whose kernel has ended ends with it once its queue is empty and no drain is at work (R127; log entry 23). -/
def Dev.arraySettle (d : Dev) (c : Nat) : Dev :=
  let a := d.arr c
  if a.launch ≠ 0 ∧ a.queue.isEmpty ∧ a.draining.isNone ∧ ((d.launchOf a.launch).ending ∨ !(d.launchOf a.launch).live) then d.arrayEnd c else d

/-- The scoreboard entries of the drains queued on an array. -/
def Arr.boards (a : Arr) : List Nat := a.queue.filterMap (fun q => match q with | .drain _ _ _ false i => some i | _ => none)

/-- K-steps of a tile of c records, and the freeze cycles of its feed over some of them (R111, R118). -/
def tileSteps (m c : Nat) : Nat := if mwBroad m then c * mwTokens m else c
def feedFreeze (m steps : Nat) : Nat :=
  let s := shapeOf m
  if mwBroad m then steps / s.toks * (128 - s.toks)
  else
    let per := s.rows * (s.vb + s.mb + s.sb)
    if per ≤ 32768 then 0 else ceilDiv (steps * per) 32768 - steps

/-- Executed K-steps are counted for the array, by weight format, mode and sparsity, and for the owner of the section (R136, R139,
R494); their weights have moved. -/
def Dev.countSteps (d : Dev) (c m steps : Nat) : Dev :=
  let s := shapeOf m
  let macs := steps * (1024 * mwKL m)
  let kind := (mwW m * 3 + mwSparse m) * 2 + b2n (mwBroad m)
  let d := (d.bump (ARRAY_ACTIVE.COUNT c) steps).bump (CNT_MX.COUNT c (mwW m)) macs
  let d := d.charge (d.sectOwner (sectOf c)) (fun r => { r with
    kSteps := addAt 2 r.kSteps (halfOf c) steps, macs := addAt 9 r.macs (mwW m) macs, steps := addAt 54 r.steps kind steps })
  d.moved (d.sectOwner (sectOf c)) ((if mwBroad m then ceilDiv steps s.toks else steps) * (s.rows * (s.vb + s.mb + s.sb)))

/-- What a tile that an abort cuts short had executed: some of its K-steps, open how many (R129, R136; log entry 91). -/
def Dev.cutTile (d : Dev) (c : Nat) : Dev :=
  let a := d.arr c
  let m := a.modeNow.getD 0
  match a.queue with
  | .tile _ _ _ _ _ _ n _ :: _ =>
    if a.blocked || !(a.st == .run || a.clockFreeze) then d
    else
      let r := d.fresh
      let k := min r.1 (tileSteps m n)
      (r.2.freezeCycles c (feedFreeze m k)).countSteps c m k
  | _ => d

/-- An abort: entries not started are discarded, a tile stops at the next K-step and both banks are zeroed; a drain that is at work
completes from its bank, which is zeroed then. The array then follows the rules of an idle one: from a ramp-up that has not reached the
full level the current falls again (R129, R134). -/
def Dev.arrayAbort (d : Dev) (c : Nat) : Dev :=
  let ids := (d.arr c).boards
  let d := { d with mem := { d.mem with sb := d.mem.sb.filter (fun b => !ids.contains b.id) } }
  let d := d.cutTile c
  let a := d.arr c
  let now := d.cycles (sectOf c)
  let n := d.arrCycles c
  let lv := a.levelAt now
  let b := if a.draining.isSome then a.zeroBank a.bank else (a.zeroBank 0).zeroBank 1
  let b := { b with queue := [], reports := [], midTile := false }
  let go := fun (d : Dev) (st : ArrState) (level : Nat) => d.setArr c { b with st := st, level := level, since := now }
  if a.clockFreeze then d.setArr c b
  else
    match a.st with
    | .run => go d .idleGap a.level
    | .freeze => go (d.freezeCycles c n) .idleGap a.level
    | .rampUp =>
      let up := lv - a.level
      let d := d.dummy c (up + (n - up) - (if a.level = 0 ∧ n ≠ 0 then 1 else 0)) (((List.range up).map (fun i => a.level + i)).sum + 64 * (n - up))
      if lv = 64 then go d .idleGap a.level else if lv = 0 then go d .off 0 else go d .rampDown (lv - 1)
    | _ => d.setArr c b

/-- Undrained sums, operand buffer and weight registers are zeroed; the counters are cleared (R130, R139). A kernel that is at work on
the array, of another agent than the tenant that leaves, keeps its queue. -/
def Dev.arrayClear (d : Dev) (c : Nat) : Dev :=
  let a := ((d.arr c).zeroBank 0).zeroBank 1
  let a := { a with buf := [], bufTag := none, bufPoison := false, wregs := [] }
  let used := a.launch != 0 && (d.launchOf a.launch).live
  let d := d.setArr c (if used then a else
    { a with queue := [], reports := [], draining := none, launch := 0, modeIssue := none, modeNow := none, midTile := false })
  (((d.put (ARRAY_ACTIVE.COUNT c) 0).put (ARRAY_FREEZE.COUNT c) 0).put (ARRAY_DUMMY.COUNT c) 0).put (ARRAY_DISCARDS.COUNT c) 0

end Sys2Proof.Machine
end

