-- ==== Sys2Proof/Machine/Control.lean ====
section
/-! DEFINITION. Control instructions (R95), barriers of blocks and clusters (R58-R62), and the end of groups, blocks,
clusters and kernels (R36, R50, R56, R100, R296). -/

namespace Sys2Proof.Machine

/-- A command of the device: its effect on everything but Acorn, the time and the fuses. -/
def State.onDev (s : State) (f : Env → Dev → Dev) : Host.Outcome State Fault Refusal :=
  .next { s with dev := f { time := s.time.toNat, chip := s.chip } s.dev }

/-- A signed offset in 8-byte units from an address (R95). -/
def branchTo (pc : DWord) (off : Word) : DWord := pc + off.signExtend 64 * 8

/-! Ends. -/

/-- The launch of a source, 0 where it is no group. -/
def SesSrc.launch : SesSrc → Nat
  | .group _ l _ => l
  | _ => 0

/-- The store forgets the tags recorded for a launch (R296). -/
def Dev.clearTags (e : Env) (d : Dev) (launch part : Nat) : Dev :=
  let gone := d.ses.tags.filter (fun t => t.launch == launch)
  let d := { d with ses := { d.ses with tags := d.ses.tags.filter (fun t => t.launch != launch) } }
  gone.foldl (fun d t =>
    let st := sesStore t.addr
    let d := d.bump (SYNC_MISC.ORPHANED st) 1
    let d := d.put (SYNC_STATUS.TAGS st) (d.ses.tags.filter (fun u => sesStore u.addr == st)).length
    d.postP e 0x12 part [t.addr]) d

/-- A launch that is ending leaves no tag once its last operation has been performed. -/
def Dev.settleTags (e : Env) (d : Dev) (launch : Nat) : Dev :=
  let l := d.launchOf launch
  if l.live && l.ending && !d.ses.queue.any (fun o => o.src.launch == launch) then d.clearTags e launch l.part else d

/-- The last group of a launch has ended: its lock tags go once its operations on their way to the stores have been performed, its
arrays end with their queues, and the release of kernel end begins (R100, R127, R296). -/
def Dev.launchEnd (e : Env) (d : Dev) (id : Nat) : Dev :=
  let l := d.launchOf id
  let d := (d.setLaunch { l with ending := true }).settleTags e id
  (List.range 128).foldl (fun d c => if (d.arr c).launch = id then d.arraySettle c else d) d

/-- Some block of a launch waits to be placed. -/
def Launch.blocks (l : Launch) : Nat := l.gridX * l.gridY * l.gridZ

/-- No block is resident on a section (R474). -/
def Dev.sectIdle (d : Dev) (s : Nat) : Bool :=
  !d.core.groups.any (fun x => x.2.live && sectOf (gidOf x.1).core == s)

/-- A block ends when all its groups have; its area stays until its cluster has ended (R36, R56). -/
def Dev.endBlock (e : Env) (d : Dev) (b : Block) : Dev :=
  let l := d.launchOf b.launch
  let marked := d.core.blocks.map (fun x => if x.id = b.id then { x with ended := true } else x)
  let mates := marked.filter (fun x => x.launch == b.launch && x.cluster == b.cluster)
  let kept := if decide (l.cluster ≤ mates.length) && mates.all (fun x => x.ended) then
      marked.filter (fun x => !(x.launch == b.launch && x.cluster == b.cluster)) else marked
  let l := { l with ended := l.ended + 1 }
  let d := { d with core := { d.core with blocks := kept } }
  let d := d.setLaunch l
  let d := if d.sectIdle (sectOf b.core) then
      { d with mgmt := { d.mgmt with idleSince := d.mgmt.idleSince.put (sectOf b.core) (e.time + 1) } } else d
  if l.ended = l.blocks then d.launchEnd e l.id else d

/-- A group ends: it leaves its slot; its block, and the trace of its launch on the core, may end with it (R50, R515). -/
def Dev.endGroup (e : Env) (d : Dev) (g : Gid) (x : Group) : Dev :=
  let l := d.launchOf x.launch
  let d := d.setGrp g { (default : Group) with exited := 0xFFFFFFFF, block := x.block, launch := x.launch }
  let here := d.core.groups.any (fun y => y.2.live && y.2.launch == x.launch && (gidOf y.1).core == g.core)
  let d := if here then d else d.trace e 3 g l.part (l.queue % 4096 + 4096 * l.seq)
  match d.core.blocks.find? (fun b => b.id == x.block) with
  | some b =>
    if b.groups.any (fun p => let y := d.grp { g with quarter := p.1, slot := p.2 }; y.live && y.block == b.id) then d
    else d.endBlock e b
  | none => d

/-! Barriers. -/

/-- The group arrives at a barrier and parks (R58, R60). -/
def Dev.arrive (e : Env) (d : Dev) (g : Gid) (x : Group) (clu : Bool) (id : Nat) : Dev :=
  (d.setGrp g { x with st := .barrier clu id }).trace e 5 g (d.launchOf x.launch).part (id + 3 * 2 ^ 16)

/-- BAR and BAR.CLU (R58-R62). A group that would arrive waits for its earlier loads and for the release side. DEDUCED: arrivals of the
paths of a group are matched within one entry of the stack, as R61 saves one path; where a path of a lower entry waits at this barrier and
both paths of the top entry arrive, the last of them raises BARRIER_DIVERGENCE (log entry 88). -/
def Dev.barrier (e : Env) (d : Dev) (i : Issue) (clu : Bool) (id : Nat) : Issued :=
  let x := i.x
  let live := ~~~x.exited
  let go := fun (y : Group) =>
    if x.accs.isEmpty && d.releaseReady i.g x (if clu then 3 else 2) then .done (d.arrive e i.g y clu id) else .wait 12
  match x.stack with
  | t :: rest =>
    match t.bar with
    | some b =>
      if b ≠ (clu, id) then .fault { code := 0x12, lanes := i.em }
      else if t.pendMask ||| x.mask ≠ live then .fault { code := 0x11, lanes := i.em }
      else go { x with pc := i.next, stack := { t with bar := none } :: rest }
    | none =>
      if x.mask = live then go { x with pc := i.next }
      else if t.pendMask = 0 ∨ rest.any (fun r => r.bar == none && r.pendMask &&& live != 0) then
        .fault { code := 0x11, lanes := i.em }
      else
        .done (d.setGrp i.g { x with
          pc := t.pendPc, mask := t.pendMask,
          stack := { t with pendPc := i.next, pendMask := x.mask, bar := some (clu, id) } :: rest })
  | [] =>
    if x.mask = live then go { x with pc := i.next }
    else .fault { code := 0x11, lanes := i.em }

/-- Every group of a block has arrived at a barrier or ended. -/
def Dev.arrivedAll (d : Dev) (b : Block) (clu : Bool) (id : Nat) : Bool :=
  b.groups.all (fun p =>
    let y := d.grp { core := b.core, quarter := p.1, slot := p.2 }
    !(y.live && y.block == b.id) || y.st == .barrier clu id)

/-- The groups of a block parked at a barrier. -/
def Dev.parkedAt (d : Dev) (b : Block) (clu : Bool) (id : Nat) : List Gid :=
  (b.groups.map (fun p => ({ core := b.core, quarter := p.1, slot := p.2 } : Gid))).filter (fun g =>
    let y := d.grp g
    y.live && y.block == b.id && y.st == .barrier clu id)

/-- A parked group becomes ready. -/
def Dev.wake (e : Env) (d : Dev) (g : Gid) (payload : Nat) : Dev :=
  let x := d.grp g
  (d.setGrp g { x with st := .run }).trace e 6 g (d.launchOf x.launch).part payload

/-! The instructions. -/

/-- The words of CTRL (R71). DEDUCED: MOD bits to which no rule gives a meaning and which no rule calls reserved are not looked at: all of
NOP, BRA, CALL, RET, JMPU, EXIT and BKPT, and [59:56] of BAR (log entry 78). -/
def ctrl (op : Nat) (form : Form := .either) (ext : Bool := false) : Code := { cls := 0, op := op, form := form, ext := ext }

/-- NOP. -/
def execNop (g : Gid) (w : AWord) (s : State) : Host.Outcome State Fault Refusal :=
  s.onDev fun e d => d.issue e g w (ctrl 0) true [] fun i => i.finish d i.x

/-- BRA (R48, R49, R95). -/
def execBra (g : Gid) (w : AWord) (s : State) : Host.Outcome State Fault Refusal :=
  s.onDev fun e d => d.issue e g w (ctrl 1 .long true) true [] fun i =>
    let x := i.x
    let taken := BitVec.ofNat 32 i.em
    let other := x.mask &&& ~~~taken
    let target := branchTo x.pc w.imm
    if taken = 0 then i.finish d x
    else if other = 0 then .done (d.setGrp g { x with pc := target })
    else if 32 ≤ x.stack.length then .fault { code := 0x10, lanes := x.mask.toNat }
    else
      let t : RecEntry := { rpc := branchTo x.pc w.ext, pendPc := target, pendMask := taken, waitMask := 0, bar := none }
      .done (d.setGrp g { x with pc := i.next, mask := other, stack := t :: x.stack })

/-- CALL (R95). -/
def execCall (g : Gid) (w : AWord) (s : State) : Host.Outcome State Fault Refusal :=
  s.onDev fun e d => d.issue e g w (ctrl 2 .long) true [udst w.d 2] fun i =>
    if i.em = 0 then i.finish d i.x
    else .done (d.setGrp g { i.x.wrN 2 w.d.toNat 0 i.next.toNat with pc := branchTo i.x.pc w.imm })

/-- A jump to the address in a u pair, for the whole active mask (R95). -/
def Dev.jumpPair (d : Dev) (i : Issue) : Issued :=
  if i.em = 0 then i.finish d i.x
  else .done (d.setGrp i.g { i.x with pc := BitVec.ofNat 64 (i.x.rdN i.w.imm 2 i.w.a.toNat 0) })

/-- RET (R95). -/
def execRet (g : Gid) (w : AWord) (s : State) : Host.Outcome State Fault Refusal :=
  s.onDev fun e d => d.issue e g w (ctrl 3) true [usrc w.a 2] fun i => d.jumpPair i

/-- JMPU (R95). -/
def execJmpu (g : Gid) (w : AWord) (s : State) : Host.Outcome State Fault Refusal :=
  s.onDev fun e d => d.issue e g w (ctrl 4) true [usrc w.a 2] fun i => d.jumpPair i

/-- EXIT: the executing lanes leave the group; a path without lanes is taken as at its rpc (R50, R60). -/
def execExit (g : Gid) (w : AWord) (s : State) : Host.Outcome State Fault Refusal :=
  s.onDev fun e d => d.issue e g w (ctrl 5) true [] fun i =>
    let em := BitVec.ofNat 32 i.em
    let x := { i.x with pc := i.next, exited := i.x.exited ||| em, mask := i.x.mask &&& ~~~em }
    if x.mask ≠ 0 then .done (d.setGrp g x)
    else
      match x.settled with
      | .ended => if x.accs.isEmpty then .done (d.endGroup e g x) else .wait
      | .arrive pc mask stack clu id =>
        if x.accs.isEmpty && d.releaseReady g x (if clu then 3 else 2) then
          .done (d.arrive e g { x with pc := pc, mask := mask, stack := stack } clu id)
        else .wait 12
      | .diverge => .done ((d.setGrp g x).raise e g x { code := 0x11, lanes := i.em })
      | .run _ _ _ => .done (d.setGrp g x)

/-- BAR (R58-R62, R95). -/
def execBar (g : Gid) (w : AWord) (s : State) : Host.Outcome State Fault Refusal :=
  s.onDev fun e d => d.issue e g w (ctrl 6) (!w.guard.getLsbD 4) [] fun i => d.barrier e i false (bits w.mod.toNat 0 4)

/-- BAR.CLU (R58-R62, R95). -/
def execBarClu (g : Gid) (w : AWord) (s : State) : Host.Outcome State Fault Refusal :=
  s.onDev fun e d => d.issue e g w (ctrl 7) (!w.guard.getLsbD 4 && bits w.mod.toNat 2 2 == 0) [] fun i =>
    d.barrier e i true (bits w.mod.toNat 0 2)

/-- TRAP (R95, R97). -/
def execTrap (g : Gid) (w : AWord) (s : State) : Host.Outcome State Fault Refusal :=
  s.onDev fun e d => d.issue e g w (ctrl 8) true [] fun i =>
    if i.em = 0 then i.finish d i.x else .fault { code := 0x20, lanes := i.em, trap := w.mod.toNat }

/-- BKPT (R95, R97). -/
def execBkpt (g : Gid) (w : AWord) (s : State) : Host.Outcome State Fault Refusal :=
  s.onDev fun e d => d.issue e g w (ctrl 9) true [] fun i =>
    if i.em = 0 then i.finish d i.x else .fault { code := 0x21, lanes := i.em }

/-- BLOCK_BARRIER_RELEASE: every group of the block has arrived or ended; the parked groups become ready (R58, R59). -/
def execBlockBarrierRelease (core block id : Nat) (s : State) : Host.Outcome State Fault Refusal :=
  s.onDev fun e d =>
    match d.core.blocks.find? (fun b => b.id == block && b.core == core) with
    | none => d
    | some b =>
      if d.arrivedAll b false id then (d.parkedAt b false id).foldl (fun d g => d.wake e g (id + 3 * 2 ^ 16)) d
      else d

/-- CLUSTER_BARRIER_RELEASE: as for a block over every block of the cluster; leaving is an acquire at cluster scope
(R58, R59). -/
def execClusterBarrierRelease (launch cluster id : Nat) (s : State) : Host.Outcome State Fault Refusal :=
  s.onDev fun e d =>
    let bs := d.core.blocks.filter (fun b => b.launch == launch && b.cluster == cluster)
    if bs.all (fun b => d.arrivedAll b true id) then
      bs.foldl (fun d b =>
        let gs := d.parkedAt b true id
        if gs.isEmpty then d
        else gs.foldl (fun d g => d.wake e g (id + 3 * 2 ^ 16)) (d.acquireSide b.core 3)) d
    else d

end Sys2Proof.Machine
end

