-- ==== Sys2Proof/Machine/HostOps.lean ====
section
/-! DEFINITION. Who may change a device-wide control (R33, R368, R435-R437): the control owner, a REG_WRITE of a kernel queue,
Bassoon; and what a refused write of another function leaves. -/

namespace Sys2Proof.Machine

/-- The port of a function (R332). -/
def portOf (f : Nat) : Nat := f / 16

/-- The function is a physical function. -/
def isPF (f : Nat) : Bool := f % 16 == 0

/-- A memory request of a function that has no answer but Unsupported Request: its port still returns CRS, in the boot steps up to HBM
training or, before it has answered a configuration request, in its window of 20 ms (R441). -/
def Dev.hostHeld (e : Env) (d : Dev) (f : Nat) : Bool :=
  decide (32 ≤ f) || (d.host.crs.look (portOf f) && ((decide (1 ≤ d.mgmt.bootStep) && decide (d.mgmt.bootStep ≤ 4)) ||
    decide (e.time < d.host.crsAt.look (portOf f) + 20000000)))

/-- The function is the physical function of the control-owner port. -/
def Dev.isOwner (d : Dev) (f : Nat) : Bool := d.ownerFunc == some f

/-- A refused write of a non-owner function: REFUSED of its port, and a NOT_OWNER_WRITE record at most once per millisecond
(R437, R440). -/
def Dev.refuse (e : Env) (d : Dev) (f off : Nat) : Dev :=
  let d := if portOf f = 0 then d.bump GLOBAL_OWNER.REFUSED0 1 else d.bump GLOBAL_OWNER.REFUSED1 1
  let ms := e.time / 1000000
  if d.host.refusedMs.look f = ms + 1 then d
  else
    let d := { d with host := { d.host with refusedMs := d.host.refusedMs.put f (ms + 1) } }
    d.postF e 0x60 f 31 [off % 2 ^ 26 + portOf f * 2 ^ 26]

/-- A write to a device-wide control: performed for the control owner, a kernel queue's REG_WRITE and Bassoon; another
function's is refused where it would change the control (R437). -/
def Dev.guardOwn (e : Env) (d : Dev) (src : Src) (off : Nat) (changes : Bool) (k : Dev → Dev) : Dev :=
  match src with
  | .host f => if d.isOwner f then k d else if changes then d.refuse e f off else d
  | .queue _ => k d
  | .bassoon => k d

/-- A source's writes reach device-wide controls: the control owner, a kernel queue's REG_WRITE and Bassoon (R435, R437). -/
def Dev.ownsWrite (d : Dev) : Src → Bool
  | .host f => d.isOwner f
  | .queue _ => true
  | .bassoon => true

/-- The partition and function a source acts for in an event record: 31 where none. -/
def srcFunc : Src → Nat
  | .host f => f
  | .queue _ => 31
  | .bassoon => 31

/-- Remembers the value last written to a register that acts on its whole value (R30). -/
def Dev.note (d : Dev) (off value : Nat) : Dev := { d with written := d.written.put off (BitVec.ofNat 64 value) }

end Sys2Proof.Machine
end

