-- ==== Sys2Proof/Machine/Acorn.lean ====
section
/-! DEFINITION. Acorn, the sealed meter (R489-R513): the count collector's frames, the input port, the intervals and their
apportionment, the non-volatile banks, the event log and the signed readings. -/

namespace Sys2Proof.Machine

/-! The sealed log (R507). -/

/-- The first 16 bytes of an SM3 digest. -/
def digest16 (l : List Byte) : List Byte := ((leBytes 32 (Config.sm3 l)).reverse).take 16

/-- A list of bytes cut or filled with zeros to a length. -/
def fitBytes (n : Nat) (l : List Byte) : List Byte := (List.range n).map (fun i => l.getD i 0)

/-- Payload words of 64 bits (log entry 74). -/
def payWords (l : List Nat) : List Byte := l.flatMap (leBytes 8)

/-- A record is written into its slot, chained to the record before it; zeros precede the first (R507). -/
def AcornSys.record (a : AcornSys) (type account ts : Nat) (payload : List Byte) : AcornSys :=
  let seq := if a.logSeq + 1 = 2 ^ 32 then 1 else a.logSeq + 1
  let prev := if a.logSeq = 0 then [] else digest16 (a.log.look (a.logSeq % 8192))
  let r := leBytes 4 seq ++ leBytes 1 type ++ leBytes 3 account ++ leBytes 8 a.time ++ leBytes 8 ts ++
    fitBytes 24 payload ++ fitBytes 16 prev
  { a with log := a.log.put (seq % 8192) r, logSeq := seq,
           logWraps := if (a.log.look (seq % 8192)).isEmpty then a.logWraps else satAdd 16 a.logWraps 1 }

/-- Attempts on the window whose second has passed get their merged records, all of them where `all` (R507; log entry 73). -/
def AcornSys.flushAttempts (a : AcornSys) (all : Bool) : AcornSys :=
  let due := a.attempts.filter (fun t => all || decide (t.since + 1000000 ≤ a.time))
  let a := { a with attempts := a.attempts.filter (fun t => !(all || decide (t.since + 1000000 ≤ a.time))) }
  due.foldl (fun (a : AcornSys) t => a.record 0x08 31 t.deviceTs (payWords [t.f, t.off, t.count])) a

/-- A write to the METER block is an attempt on the window (R32, R507). -/
def AcornSys.attempt (a : AcornSys) (f off ts : Nat) : AcornSys :=
  if !a.powered then a
  else if a.attempts.any (fun t => t.f == f && t.off == off) then
    { a with attempts := a.attempts.map (fun t => if t.f == f && t.off == off then { t with count := t.count + 1 } else t) }
  else { a with attempts := a.attempts ++ [{ f := f, off := off, since := a.time, deviceTs := ts, count := 1 }] }

/-! Readings (R508). -/

/-- The account, the device's always open (R493). -/
def AcornSys.acct (a : AcornSys) (n : Nat) : Account := a.accounts.look n

/-- Summed lifetime energy of the rails. -/
def AcornSys.total (a : AcornSys) : Nat := ((List.range 16).map (fun n => a.rails.look n)).sum

/-- Bytes 0x00 to 0xBF of a reading. -/
def AcornSys.body (a : AcornSys) (seq kind n nonce : Nat) : List Byte :=
  let x := a.acct n
  leBytes 4 seq ++ leBytes 1 kind ++ leBytes 1 n ++ leBytes 2 1 ++
  leBytes 4 x.session ++ leBytes 2 a.fwVersion ++ leBytes 2 (b2n a.notLegal + 2 * b2n x.gap + 4 * b2n x.unclosed) ++
  leBytes 8 a.serial ++ leBytes 4 a.fwSum ++ leBytes 4 a.cycles ++ leBytes 8 a.time ++ leBytes 8 a.deviceTs ++
  leBytes 8 x.start ++ leBytes 8 x.energy ++ (List.range 9).flatMap (fun w => leBytes 8 (x.work.getD w 0)) ++
  leBytes 8 x.dummy ++ leBytes 8 a.total ++ leBytes 4 a.logSeq ++ leBytes 4 seq ++
  fitBytes 16 (if a.logSeq = 0 then [] else digest16 (a.log.look (a.logSeq % 8192))) ++ leBytes 16 nonce

/-- A signed reading with the next number. -/
def AcornSys.sign (a : AcornSys) (kind n nonce : Nat) : List Byte × AcornSys :=
  let seq := (a.readingSeq + 1) % 2 ^ 32
  let b := a.body seq kind n nonce
  (b ++ fitBytes 64 (Config.sm2Sign 1 (Config.sm3 b)), { a with readingSeq := seq })

/-! Sessions and holdings (R493, R499). -/

/-- A partition account is open. -/
def AcornSys.isOpen (a : AcornSys) (p : Nat) : Bool := (a.acct p).active

/-- A session closes: its counters are frozen, PART_CLOSE is logged, the close reading signed (R493, R508). -/
def AcornSys.closeSession (a : AcornSys) (ts p : Nat) : AcornSys :=
  if !a.isOpen p then a
  else
    let x := a.acct p
    let a := a.record 0x06 p ts (payWords [p, x.session, x.energy])
    let r := a.sign 1 p 0
    { r.2 with close := r.2.close.put p r.1, accounts := r.2.accounts.put p { x with active := false },
               sections := r.2.sections.put p 0, bankSets := r.2.bankSets.put p 0, shares := r.2.shares.put p 0 }

/-- Holdings move from an owner to another; codes above 15 hold nothing of a partition. -/
def moveHold (t : Sparse Nat) (old new n : Nat) : Sparse Nat :=
  let t := if old < 16 then t.put old (t.look old - n) else t
  if new < 16 then t.put new (t.look new + n) else t

/-- A report takes effect at an interval boundary (R499). -/
def AcornSys.effect (a : AcornSys) (r : Nat × AcornMsg) : AcornSys :=
  match r.2 with
  | .assign p sections =>
    let a :=
      if a.isOpen p then a
      else
        let n := ((a.acct p).session + 1) % 2 ^ 32
        let x : Account := { (default : Account) with session := n, active := true, start := a.time }
        ({ a with accounts := a.accounts.put p x } : AcornSys).record 0x04 p r.1 (payWords [p, sections, n])
    { a with sections := a.sections.put p (a.sections.look p ||| sections) }
  | .teardownEnd p => a.closeSession r.1 p
  | .handover kind old new count =>
    match kind with
    | 0 => { a with bankSets := moveHold a.bankSets old new count }
    | 2 => { a with shares := moveHold a.shares old new count }
    | _ => a
  | .region k valid owner => { a with regions := a.regions.put k (if valid then owner + 1 else 0) }
  | .teardownStart _ => a
  | .boot _ _ _ => a

/-- Every report received takes effect, in order. -/
def AcornSys.applyReports (a : AcornSys) : AcornSys :=
  a.reports.foldl (fun (a : AcornSys) r => a.effect r) { a with reports := [] }

/-! Apportionment (R494-R498). -/

/-- Counts of two rows summed; a number of ports, of bank sets and of shares is a number, not a count (R501). -/
def ActivityRow.plus (x y : ActivityRow) : ActivityRow :=
  let add := fun (k : Nat) (l m : List Nat) => (List.range k).map (fun i => l.getD i 0 + m.getD i 0)
  { aclkCycles := add 16 x.aclkCycles y.aclkCycles, kSteps := add 2 x.kSteps y.kSteps, dummy64 := add 2 x.dummy64 y.dummy64,
    dummy := x.dummy + y.dummy, macs := add 9 x.macs y.macs, steps := add 54 x.steps y.steps, moved128 := x.moved128 + y.moved128,
    sectors := x.sectors + y.sectors, fabric64 := x.fabric64 + y.fabric64, portsUp := x.portsUp + y.portsUp,
    sets := max x.sets y.sets, shares := max x.shares y.shares }

/-- The account that a partition's counts go to: the device account once its session has closed (R499). -/
def AcornSys.payer (a : AcornSys) (p : Nat) : Nat := if p < 16 && a.isOpen p then p else 16

/-- The counts of an account over the frames of an interval. -/
def AcornSys.counts (a : AcornSys) (n : Nat) : ActivityRow :=
  a.frames.foldl (fun acc f =>
    (List.range 17).foldl (fun acc p => if a.payer p = n then ActivityRow.plus acc (f.getD p default) else acc) acc) default

/-- The account that holds a section (R495). -/
def AcornSys.holder (a : AcornSys) (s : Nat) : Nat :=
  ((List.range 16).find? (fun p => a.isOpen p && bit (a.sections.look p) s)).getD 16

/-- ACLK cycles of a section in the interval, in whichever rows they came. -/
def AcornSys.sectCycles (a : AcornSys) (s : Nat) : Nat :=
  (a.frames.map (fun f => (f.map (fun r => r.aclkCycles.getD s 0)).sum)).sum

/-- Holdings of an account; the device account has what no open partition holds. -/
def AcornSys.holds (a : AcornSys) (t : Sparse Nat) (total n : Nat) : Nat :=
  if n < 16 then (if a.isOpen n then t.look n else 0)
  else total - ((List.range 16).map (fun p => if a.isOpen p then t.look p else 0)).sum

/-- Units of an account on a rail, in 64ths, from the counts of all accounts (R495). -/
def AcornSys.units (a : AcornSys) (cs : List ActivityRow) (rail n : Nat) : Nat :=
  let c := cs.getD n default
  let dev := cs.getD 16 default
  if rail < 2 then
    ((List.range 8).map (fun i => if a.holder (8 * rail + i) = n then 512 * a.sectCycles (8 * rail + i) else 0)).sum +
      64 * c.kSteps.getD rail 0 + c.dummy64.getD rail 0
  else if rail < 6 then 64 * (c.moved128 + 200 * a.holds a.bankSets dev.sets n)
  else if rail < 11 then 64 * (c.sectors + 50000 * a.holds a.shares dev.shares n)
  else if rail < 14 then 64 * (c.fabric64 + (if n = 16 then 100000 * c.portsUp else 0))
  else 0

/-- The shares of the 17 accounts in a rail's energy: partitions rounded down, the device has the rest (R496, R497). -/
def shareOut (energy : Nat) (us : List Nat) : List Nat :=
  let total := us.sum
  let parts := (List.range 16).map (fun p => if total = 0 then 0 else energy * us.getD p 0 / total)
  parts ++ [energy - parts.sum]

/-- Energy, work and dummy cycles are added to an account. -/
def Account.add (x : Account) (energy : Nat) (c : ActivityRow) : Account :=
  { x with energy := x.energy + energy, work := (List.range 9).map (fun w => x.work.getD w 0 + c.macs.getD w 0),
           dummy := x.dummy + c.dummy }

/-- Rail energies in whole microjoules are apportioned by the frames of the interval. -/
def AcornSys.apportion (a : AcornSys) (energy : List Nat) : AcornSys :=
  let cs := (List.range 17).map a.counts
  let outs := (List.range 16).map (fun r => shareOut (energy.getD r 0) ((List.range 17).map (a.units cs r)))
  let accounts := (List.range 17).foldl (fun (t : Sparse Account) n =>
    t.put n ((t.look n).add ((outs.map (fun o => o.getD n 0)).sum) (cs.getD n default))) a.accounts
  { a with accounts := accounts, frames := [] }

/-- Rail energies that the device account bears alone (R500). -/
def AcornSys.chargeDevice (a : AcornSys) (energy : List Nat) : AcornSys :=
  { a with accounts := a.accounts.put 16 ((a.acct 16).add energy.sum default) }

/-- Every open account's session spans the gap (R500). -/
def AcornSys.markGap (a : AcornSys) : AcornSys :=
  { a with accounts := (List.range 17).foldl (fun (t : Sparse Account) n =>
      let x := t.look n
      if x.active then t.put n { x with gap := true } else t) a.accounts }

/-- A gap that has ended is logged as one record (R500). -/
def AcornSys.gapEnd (a : AcornSys) : AcornSys :=
  if a.gapCount = 0 then a
  else { a.record 0x0A 31 0 (payWords [a.gapFirst, a.gapCount]) with gapCount := 0 }

/-- Measured rail energies, in nanojoules, enter the lifetime totals; the whole microjoules of each (R492). -/
def AcornSys.measure (a : AcornSys) (nj : List Nat) : List Nat × AcornSys :=
  let sums := (List.range 16).map (fun r => a.frac.look r + nj.getD r 0)
  let whole := sums.map (fun x => x / 1000)
  (whole, { a with
    frac := (List.range 16).foldl (fun (t : Sparse Nat) r => t.put r (sums.getD r 0 % 1000)) a.frac,
    rails := (List.range 16).foldl (fun (t : Sparse Nat) r => t.put r (t.look r + whole.getD r 0)) a.rails })

/-- Sums of two lists of rail energies. -/
def addRails (x y : List Nat) : List Nat := (List.range 16).map (fun r => x.getD r 0 + y.getD r 0)

/-- An interval of some microseconds closes (R492, R496-R501); `last`: measuring ends with it, so that an interval without a frame
is followed by none. -/
def AcornSys.closeInterval (a : AcornSys) (us : Nat) (nj : List Nat) (last : Bool) : AcornSys :=
  let m := a.measure nj
  let a := m.2
  let held := a.slip.getD []
  let a :=
    if !a.frames.isEmpty then ({ a.gapEnd with slip := none }).apportion (addRails m.1 held)
    else if a.gapCount ≠ 0 then ({ a.chargeDevice m.1 with gapCount := a.gapCount + 1 } : AcornSys).markGap
    else
      match a.slip with
      | some _ => ({ a.chargeDevice (addRails m.1 held) with slip := none, gapFirst := a.time / 1000 - 1, gapCount := 2 } : AcornSys).markGap
      | none =>
        if last then ({ a.chargeDevice m.1 with gapFirst := a.time / 1000, gapCount := 1 } : AcornSys).markGap
        else { a with slip := some m.1 }
  let a := if last then a.gapEnd else a
  let a := ({ a with time := a.time + us } : AcornSys).applyReports
  a.flushAttempts last

/-! The device's side. -/

/-- METER_ALERT, where the device has power to hold a record (R513; log entry 75). -/
def State.meterAlert (s : State) (gap : Bool) : State :=
  if !s.dev.mgmt.power then s
  else
    let a := s.acorn
    let d := s.dev.postD ⟨s.time.toNat, s.chip⟩ 0x91 31 31
        [b2n a.refLost + 2 * b2n a.holdupFail + 4 * b2n a.notLegal + 8 * b2n gap + 2 ^ 32 * a.logSeq]
    { s with dev := d }

/-- A command of Acorn, which acts while it has power. -/
def State.onAcorn (s : State) (f : AcornSys → AcornSys) : Host.Outcome State Fault Refusal :=
  .next (if s.acorn.powered then { s with acorn := f s.acorn } else s)

/-- Quarters of an ACLK cycle of a section since the collector's last frame. -/
def Dev.newCycles (d : Dev) (s : Nat) : Nat := d.cycles s - d.mgmt.collectCyc.look s

/-- The row of an account (R494, R495): moved data in its units. -/
def Dev.activityRow (d : Dev) (n : Nat) : ActivityRow :=
  let r := d.act.look n
  { r with
    aclkCycles := (List.range 16).map (fun s => if acctOf (d.sectOwner s) = n then d.newCycles s / 4 else 0),
    moved128 := r.moved128 / 128, fabric64 := r.fabric64 / 64,
    portsUp := if n = 16 then ((List.range 192).filter d.linkUp).length else 0,
    sets := if n = 16 then 2048 else 0, shares := if n = 16 then d.cu else 0 }

/-- What an account carries into the next frame: data below one unit. -/
def ActivityRow.rest (r : ActivityRow) : ActivityRow :=
  { (default : ActivityRow) with moved128 := r.moved128 % 128, fabric64 := r.fabric64 % 64 }

/-- COUNT_COLLECTOR_TICK: every millisecond the count collector sends a frame (R494). -/
def execCountCollectorTick (s : State) : Host.Outcome State Fault Refusal :=
  s.onDev fun e d =>
    if !d.mgmt.power || d.mgmt.clocksOff || decide (e.time < d.mgmt.collectAt + 1000000) then d
    else
      let d := d.sendAcorn (.activity e.time ((List.range 17).map d.activityRow))
      let left := (List.range 16).foldl (fun (t : Sparse Nat) s => t.put s (d.cycles s - d.newCycles s % 4)) d.mgmt.collectCyc
      { d with act := d.act.map (fun p => (p.1, ActivityRow.rest p.2)), mgmt := { d.mgmt with collectAt := e.time, collectCyc := left } }

/-- A requested reading's account is one that the function may name (R510). -/
def Dev.meterAllowed (d : Dev) (f account : Nat) : Bool :=
  decide (account ≤ 16) && (d.isOwner f || (d.get (HOST_FUNC.PART f) == account && decide (account < 16)))

/-- A write of METER_REQ by function f (R510, R511). -/
def Dev.wrMeterReq (e : Env) (d : Dev) (f v : Nat) : Dev :=
  let d := d.note (METER_REQ.off + 0x10000000 * (f + 1)) v
  if !bit v 5 then d
  else
    let account := bits v 0 5
    let result := METER_REQ_STATUS.RESULT.bank f
    if !d.meterAllowed f account then d.put result 1
    else if d.mgmt.meterPending.contains f then d.put result 2
    else
      let nonce := d.get ((METER_NONCE.NONCE 0).bank f) + 2 ^ 64 * d.get ((METER_NONCE.NONCE 1).bank f)
      let d := (d.put result 0).sendAcorn (.request e.time f account nonce)
      { d with mgmt := { d.mgmt with meterPending := d.mgmt.meterPending ++ [f] } }

/-- METER_REQUEST. -/
def execMeterRequest (f : Nat) (value : DWord) (s : State) : Host.Outcome State Fault Refusal :=
  s.onDev fun e d => if d.mgmt.power then d.wrMeterReq e f value.toNat else d

/-! The input port (R490). -/

/-- A frame with a valid check and the next sequence number, of a kind that Acorn accepts, is taken; any other is discarded, counted
and logged. -/
def AcornSys.input (a : AcornSys) (h : FrameHead) (kindOk : Bool) (k : AcornSys → AcornSys) : AcornSys :=
  if h.crcOk && h.seq == a.inSeq && kindOk then
    k { a with inSeq := (a.inSeq + 1) % 2 ^ 32, deviceTs := h.deviceTs }
  else ({ a with rejects := satAdd 16 a.rejects 1 } : AcornSys).record 0x09 31 0 (payWords [1])

/-- ACTIVITY: the frame belongs to the interval in which its last word arrives (R501). -/
def execActivity (h : FrameHead) (rows : List ActivityRow) (s : State) : Host.Outcome State Fault Refusal :=
  s.onAcorn fun a => a.input h (rows.length == 17) fun a => { a with frames := a.frames ++ [rows] }

/-- A BOOT report: reports before it take effect, every open partition session closes with GAP, nothing is held, CONFIG is logged
(R505). -/
def AcornSys.boot (a : AcornSys) (ts overlay : Nat) (defaulted : Bool) (digest : Nat) : AcornSys :=
  let a := a.applyReports
  let a := (List.range 16).foldl (fun (a : AcornSys) p =>
    if a.isOpen p then ({ a with accounts := a.accounts.put p { a.acct p with gap := true } } : AcornSys).closeSession ts p else a) a
  let a := { a with sections := [], bankSets := [], shares := [], regions := [] }
  a.record 0x03 31 ts (payWords [overlay + 256 * b2n defaulted] ++ (leBytes 16 digest).reverse)

/-- ACORN_REPORT: logged as it arrives, in effect from the next boundary (R499). -/
def execAcornReport (h : FrameHead) (m : AcornMsg) (s : State) : Host.Outcome State Fault Refusal :=
  s.onAcorn fun a => a.input h true fun a =>
    match m with
    | .boot overlay defaulted digest => a.boot h.deviceTs overlay defaulted digest
    | .teardownStart p => a.record 0x05 p h.deviceTs (payWords [p, (a.acct p).session, a.time])
    | .handover kind old new count =>
      ({ a with reports := a.reports ++ [(h.deviceTs, m)] } : AcornSys).record 0x07 31 h.deviceTs
        (payWords [kind, old + 2 ^ 32 * new, count])
    | .region _ valid owner =>
      ({ a with reports := a.reports ++ [(h.deviceTs, m)] } : AcornSys).record 0x07 31 h.deviceTs
        (payWords [3, if valid then owner + 2 ^ 32 * 18 else 18 + 2 ^ 32 * owner, 1])
    | .assign _ _ => { a with reports := a.reports ++ [(h.deviceTs, m)] }
    | .teardownEnd _ => { a with reports := a.reports ++ [(h.deviceTs, m)] }

/-- REQUEST: the reading is owed, in arrival order (R510, R511). -/
def execRequest (h : FrameHead) (f account : Nat) (nonce : Nat) (s : State) : Host.Outcome State Fault Refusal :=
  s.onAcorn fun a => a.input h (decide (f < 32) && decide (account ≤ 16)) fun a =>
    { a with requests := a.requests ++ [{ f := f, account := account, nonce := nonce }] }

/-! Intervals, readings, banks. -/

/-- ACORN_INTERVAL: a millisecond of Acorn's clock ends, with the energy measured on each rail in nanojoules (R492, R496). -/
def execAcornInterval (energy : List Nat) (s : State) : Host.Outcome State Fault Refusal :=
  if !s.acorn.powered then .next s
  else
    let ended := s.acorn.gapCount ≠ 0 ∧ !s.acorn.frames.isEmpty
    let s := { s with acorn := s.acorn.closeInterval 1000 energy false }
    .next (if ended then s.meterAlert true else s)

/-- The bank written last that holds a valid image. -/
def AcornSys.newest (a : AcornSys) : NvImage :=
  if a.bankA.valid && (!a.bankB.valid || decide (a.bankB.seq ≤ a.bankA.seq)) then a.bankA
  else if a.bankB.valid then a.bankB else default

/-- 60 s of Acorn time have passed since the image written last. -/
def AcornSys.nvDue (a : AcornSys) : Bool := decide (a.newest.time + 60000000 ≤ a.time)

/-- What a bank image holds (R502). -/
def AcornSys.image (a : AcornSys) (loss : Bool) : NvImage :=
  { valid := true, loss := loss, seq := max a.bankA.seq a.bankB.seq + 1, rails := a.rails, accounts := a.accounts,
    readingSeq := a.readingSeq, logSeq := a.logSeq, time := a.time, cycles := a.cycles }

/-- ACORN_NV_WRITE: a periodic reading of every account, then the bank not written last (R502, R508). -/
def execAcornNvWrite (s : State) : Host.Outcome State Fault Refusal :=
  s.onAcorn fun a =>
    if !a.nvDue then a
    else
      let a := (List.range 17).foldl (fun (a : AcornSys) n =>
        let r := a.sign 0 n 0
        { r.2 with periodic := r.2.periodic.put n r.1 }) a
      let i := a.image false
      let a := { a with nvSlot := (a.nvSlot + 1) % 64 }
      if i.seq % 2 = 1 then { a with bankA := i } else { a with bankB := i }

/-- REQUESTED_READING: the oldest request is served, after a periodic write that is due; METER_READY follows (R508, R510, R511). -/
def execRequestedReading (s : State) : Host.Outcome State Fault Refusal :=
  if !s.acorn.powered || s.acorn.nvDue then .next s
  else
    match s.acorn.requests with
    | [] => .next s
    | q :: rest =>
      let r := s.acorn.sign 2 q.account q.nonce
      let a := { r.2 with requests := rest, requested := r.2.requested.put q.f r.1 }
      let d := { s.dev with mgmt := { s.dev.mgmt with meterPending := s.dev.mgmt.meterPending.erase q.f } }
      let d := if d.mgmt.power then
          d.postF ⟨s.time.toNat, s.chip⟩ 0x90 q.f 31 [a.readingSeq + 2 ^ 32 * q.account] else d
      .next { s with acorn := a, dev := d }

/-- What Acorn keeps without its rail: its cells, its log and its identity. -/
def AcornSys.unpowered (a : AcornSys) : AcornSys :=
  { (default : AcornSys) with
    serial := a.serial, fwVersion := a.fwVersion, fwSum := a.fwSum, fwSm3 := a.fwSm3, cert := a.cert,
    log := a.log, logSeq := a.logSeq, bankA := a.bankA, bankB := a.bankB, nvSlot := a.nvSlot }

/-- ACORN_SUPPLY_LOSS: the interval in progress closes after `us`, and both banks are written from hold-up and the loss logged, or the
first write is torn and its bank fails its check (R503, R504). -/
def execAcornSupplyLoss (us : Nat) (energy : List Nat) (written : Bool) (s : State) : Host.Outcome State Fault Refusal :=
  s.onAcorn fun a =>
    let a := a.closeInterval us energy true
    let i := a.image true
    let a :=
      if written then
        ({ a with bankA := i, bankB := i, nvSlot := (a.nvSlot + 2) % 64 } : AcornSys).record 0x02 31 0 (payWords [a.total])
      else if i.seq % 2 = 1 then { a with bankA := { a.bankA with valid := false } }
      else { a with bankB := { a.bankB with valid := false } }
    a.unpowered

/-- ACORN_POWER_UP: the newer valid bank is restored (R503, R504). -/
def execAcornPowerUp (s : State) : Host.Outcome State Fault Refusal :=
  if s.acorn.powered then .next s
  else
    let a := s.acorn.unpowered
    let i := a.newest
    let fail := i.valid && !i.loss
    let open16 := i.accounts.put 16 { (i.accounts.look 16 : Account) with active := true }
    let accounts := if fail then open16.map (fun p => (p.1, { p.2 with unclosed := p.2.unclosed || p.2.active })) else open16
    let a := { a with
      powered := true, rails := i.rails, accounts := accounts, readingSeq := i.readingSeq, time := i.time, cycles := i.cycles + 1,
      holdupFail := fail }
    let a := a.record 0x01 31 0 (payWords [a.cycles, b2n (!fail)])
    let s := { s with acorn := a }
    .next (if fail then s.meterAlert false else s)

/-- REF_LOST: Acorn runs from its own oscillator; readings are flagged (R506). -/
def execRefLost (s : State) : Host.Outcome State Fault Refusal :=
  if !s.acorn.powered || s.acorn.refLost then .next s
  else
    let a := { s.acorn with refLost := true, notLegal := true }
    .next (({ s with acorn := a.record 0x0B 31 0 (payWords [a.time]) } : State).meterAlert false)

/-- REF_RESTORED: the reference has been back for 60 s (R506). -/
def execRefRestored (s : State) : Host.Outcome State Fault Refusal :=
  s.onAcorn fun a =>
    if !a.refLost then a
    else ({ a with refLost := false, notLegal := false } : AcornSys).record 0x0C 31 0 (payWords [a.time])

/-! The METER block (R512). -/

/-- The eight bytes of a list at an offset. -/
def wordAt (l : List Byte) (off : Nat) : Nat := leOf ((l.drop off).take 8)

/-- The value of the eight bytes at an offset of the METER block; offsets it does not name read 0. -/
def AcornSys.meter (a : AcornSys) (off : Nat) : Nat :=
  let o := off - 0x01C00000
  if o = 0 then a.serial
  else if o = 0x8 then a.fwVersion
  else if o = 0x10 then a.fwSum
  else if 0x20 ≤ o ∧ o < 0x40 then wordAt (leBytes 32 a.fwSm3).reverse (o - 0x20)
  else if o = 0x40 then
    b2n a.refLost + 2 * b2n a.holdupFail + 4 * b2n a.notLegal + 2 ^ 16 * a.logWraps + 2 ^ 32 * a.rejects + 2 ^ 48 * (a.cert.length % 4096)
  else if o = 0x48 then a.time
  else if 0x100 ≤ o ∧ o < 0x180 then a.rails.look ((o - 0x100) / 8)
  else if 0x1000 ≤ o ∧ o < 0x2100 then
    if o % 0x100 < 0x88 then wordAt (a.body 0 0 ((o - 0x1000) / 0x100) 0) (8 + o % 0x100) else 0
  else if 0x10000 ≤ o ∧ o < 0x11100 then wordAt (a.periodic.look ((o - 0x10000) / 0x100)) (o % 0x100)
  else if 0x12000 ≤ o ∧ o < 0x13000 then wordAt (a.close.look ((o - 0x12000) / 0x100)) (o % 0x100)
  else if 0x14000 ≤ o ∧ o < 0x16000 then wordAt (a.requested.look ((o - 0x14000) / 0x100)) (o % 0x100)
  else if 0x20000 ≤ o ∧ o < 0x20400 then wordAt a.cert (o - 0x20000)
  else if 0x100000 ≤ o ∧ o < 0x180000 then wordAt (a.log.look ((o - 0x100000) / 0x40)) (o % 0x40)
  else 0

end Sys2Proof.Machine
end

