-- ==== Sys2Proof/Machine/Elementary.lean ====
section
/-! DEFINITION. The functions whose results the manual bounds to one unit in the last place of FP32 and does not state: reciprocal,
reciprocal root, power and logarithm to base 2 (R78), the exponential of the routing weights (R177). Each is enclosed between two
numbers, and the free value of the configuration chooses among the FP32 values that the bound admits (log entries 11, 12). -/

namespace Sys2Proof.Machine

/-- Numbers from lo * 2 ^ exp to hi * 2 ^ exp, of one sign. -/
structure Between where
  neg : Bool
  lo : Nat
  hi : Nat
  exp : Int
deriving DecidableEq, Repr

/-- Fraction bits of the fixed-point numbers below. -/
def fixBits : Nat := 96

/-- The integer root of n below 2 ^ k: bit by bit. -/
def rootBelow (n : Nat) : Nat → Nat → Nat
  | 0, r => r
  | k + 1, r => rootBelow n k (if (r + 2 ^ k) * (r + 2 ^ k) ≤ n then r + 2 ^ k else r)

/-- The natural logarithm of 2 as a fixed-point number, from below: the sum of 1 / (i * 2 ^ i). -/
def lnTwo : Nat := ((List.range 110).map (fun i => 2 ^ fixBits / ((i + 1) * 2 ^ (i + 1)))).sum

/-- The exponential of a fixed-point number below 1, from below: its series. -/
def expSeries (y : Nat) : Nat :=
  ((List.range 40).foldl (fun (r : Nat × Nat) i => (r.1 + r.2, r.2 * y / 2 ^ fixBits / (i + 1))) (0, 2 ^ fixBits)).1

/-- 2 to an integer plus a fixed-point fraction. -/
def powBetween (n : Int) (f : Nat) : Between :=
  let lo := expSeries (f * lnTwo / 2 ^ fixBits)
  ⟨false, lo, lo + 2 ^ 20, n - fixBits⟩

/-- The bits of the logarithm to base 2 of a fixed-point number from 1 up to 2: `k` bits, after those in `acc`. -/
def logBits : Nat → Nat → Nat → Nat
  | 0, _, acc => acc
  | k + 1, x, acc =>
    let y := x * x / 2 ^ fixBits
    if 2 ^ (fixBits + 1) ≤ y then logBits k (y / 2) (2 * acc + 1) else logBits k y (2 * acc)

/-- A number as a fixed-point number, towards minus infinity; held between -1,000 and 1,000. -/
def fixOf (neg : Bool) (m : Nat) (e : Int) : Int :=
  let s := e + fixBits
  let cap : Int := 1000 * 2 ^ fixBits
  if 12 < (Nat.log2 m : Int) + e then (if neg then -cap else cap)
  else max (-cap) (min cap (if 0 ≤ s then signedMant neg (m <<< s.toNat) else signedMant neg m >>> (-s).toNat))

/-- Where a function of a finite FP32 number lies: 0 reciprocal, 1 reciprocal root, 2 power of 2, 3 logarithm to base 2, 4 exponential.
None where the manual states no result. -/
def between (k : Nat) (neg : Bool) (m : Nat) (e : Int) : Option Between :=
  match k with
  | 0 => if m = 0 then none else some ⟨neg, 2 ^ 120 / m, 2 ^ 120 / m + 1, -120 - e⟩
  | 1 =>
    if m = 0 ∨ neg then none
    else
      let n := if e % 2 = 0 then m else 2 * m
      let r := rootBelow (2 ^ 240 / n) 121 0
      some ⟨false, r, r + 1, -120 - e / 2⟩
  | 2 =>
    let x := fixOf neg m e
    some (powBetween (x / 2 ^ fixBits) (x % 2 ^ fixBits).toNat)
  | 3 =>
    if m = 0 ∨ neg then none
    else
      let t := Nat.log2 m
      let v := ((e + t) * 2 ^ 80) + (logBits 80 (m <<< (fixBits - t)) 0 : Nat)
      some (if v < 0 then ⟨true, (-v).toNat - 1, (-v).toNat, -80⟩ else ⟨false, v.toNat, v.toNat + 1, -80⟩)
  | _ =>
    let x := fixOf neg m e
    let n := x / lnTwo
    let lo := expSeries (x - n * lnTwo).toNat
    some ⟨false, lo - 2 ^ 20, lo + 2 ^ 20, n - fixBits⟩

/-- The magnitudes of FP32 that lie within one unit in the last place of numbers of a range: from the one below its least to the one
above its greatest; where the range may hold an FP32 value, its neighbours too. -/
def Between.admits (b : Between) : Nat × Nat :=
  let lo := (fp32.encode 1 false (.fin false (b.lo * 2 ^ 20 - b.lo / 2 ^ 20 - 1) (b.exp - 20))).1
  let hi := (fp32.encode 2 false (.fin false (b.hi * 2 ^ 20 + b.hi / 2 ^ 20 + 1) (b.exp - 20))).1
  (lo, hi)

/-- The FP32 value that a free word chooses among those a bound admits. -/
def Between.choose (b : Between) (free : Nat) : Nat :=
  let r := b.admits
  let m := r.1 + free % (r.2 - r.1 + 1)
  fp32.sign b.neg + m

/-- An FP32 word; a NaN is the canonical one (R142). -/
def canon32 (v : Nat) : Nat := if fp32.decode (v % 2 ^ 32) = .nan then fp32.nan else v % 2 ^ 32

/-- A function of an FP32 word whose result is open within one unit in the last place; `free` chooses. Where the manual states no result
the word itself stands, a NaN as the canonical one (log entry 11). -/
def openResult (k x free : Nat) : Nat :=
  match fp32.decode x with
  | .nan => fp32.nan
  | .inf _ => canon32 free
  | .fin neg m e =>
    if k = 3 ∧ x = 0x3F800000 then free % 2 + 2 ^ 31 * (free / 2 % 2)
    else
      match between k neg m e with
      | some b => b.choose free
      | none => canon32 free

/-- RCP, RSQ, EXP2 and LOG2, in this order (R78). -/
def builtin32 (k : Nat) (a : Word) : Nat := openResult k a.toNat (Config.builtinTable k a).toNat

/-- The exponential of the routing weights (R177); DEDUCED: of an infinity it is 0 or infinity (log entry 12). -/
def exp32 (x : Nat) : Nat :=
  match fp32.decode x with
  | .inf neg => if neg then 0 else fp32.infBits
  | _ => openResult 4 x (Config.softExp 0 (BitVec.ofNat 32 x)).toNat

end Sys2Proof.Machine
end

