-- ==== Sys2Proof/Machine/Arith.lean ====
section
/-! DEFINITION. Arithmetic of the quarters: FALU, IALU, F64 (R148-R151), CONV (R80, R152, R153), CMP (R79), the
function-table unit (R77, R78, R162-R164) and SYS (R76, R96). -/

namespace Sys2Proof.Machine

/-- MOD[55:52]. -/
def AWord.type (w : AWord) : Nat := bits w.mod.toNat 0 4
/-- MOD[57:56]. -/
def AWord.rnd (w : AWord) : Nat := bits w.mod.toNat 4 2
/-- MOD[58]. -/
def AWord.sat (w : AWord) : Bool := w.mod.getLsbD 6
/-- MOD[59]. -/
def AWord.top (w : AWord) : Bool := w.mod.getLsbD 7

/-! FALU. -/

/-- The TYPE codes of FALU: format and operations per lane. -/
def faluType : Nat → Option (Fmt × Nat)
  | 0 => some (fp32, 1)
  | 1 => some (fp16, 1)
  | 2 => some (bf16, 1)
  | 3 => some (bf16, 2)
  | 4 => some (fp16, 2)
  | _ => none

/-- An operation of FALU with n sources (R148-R150). -/
def Dev.falu (e : Env) (d : Dev) (g : Gid) (w : AWord) (code : Nat) (o : FOp) (n : Nat) : Dev :=
  let ops := dst w.d :: [src w.a, src w.b, src w.c].take n
  d.issue e g w { cls := 1, op := code } ((faluType (AWord.type w)).isSome && !AWord.top w) ops fun i =>
    match faluType (AWord.type w) with
    | none => .wait
    | some (f, k) =>
      let x := i.x
      let rd := fun (c : BitVec 9) (l : Nat) => x.rd w.imm c.toNat l
      i.finish d (x.mapLanes i.em ops 1 w.d.toNat fun l =>
        eachField f.width k (f.op o (AWord.rnd w) (AWord.sat w)) (rd w.a l) (rd w.b l) (rd w.c l))

/-- FADD. -/
def execFadd (g : Gid) (w : AWord) (s : State) : Host.Outcome State Fault Refusal := s.onDev fun e d => d.falu e g w 0 .add 2
/-- FSUB. -/
def execFsub (g : Gid) (w : AWord) (s : State) : Host.Outcome State Fault Refusal := s.onDev fun e d => d.falu e g w 1 .sub 2
/-- FFMA. -/
def execFfma (g : Gid) (w : AWord) (s : State) : Host.Outcome State Fault Refusal := s.onDev fun e d => d.falu e g w 2 .fma 3
/-- FMUL. -/
def execFmul (g : Gid) (w : AWord) (s : State) : Host.Outcome State Fault Refusal := s.onDev fun e d => d.falu e g w 3 .mul 2
/-- FMIN. -/
def execFmin (g : Gid) (w : AWord) (s : State) : Host.Outcome State Fault Refusal := s.onDev fun e d => d.falu e g w 4 .min 2
/-- FMAX. -/
def execFmax (g : Gid) (w : AWord) (s : State) : Host.Outcome State Fault Refusal := s.onDev fun e d => d.falu e g w 5 .max 2
/-- FABS. -/
def execFabs (g : Gid) (w : AWord) (s : State) : Host.Outcome State Fault Refusal := s.onDev fun e d => d.falu e g w 6 .abs 1
/-- FNEG. -/
def execFneg (g : Gid) (w : AWord) (s : State) : Host.Outcome State Fault Refusal := s.onDev fun e d => d.falu e g w 7 .neg 1

/-! IALU. -/

/-- The TYPE codes of IALU: registers, field width, fields, signedness. -/
def ialuType : Nat → Option (Nat × Nat × Nat × Bool)
  | 0 => some (1, 32, 1, true)
  | 1 => some (1, 32, 1, false)
  | 2 => some (2, 64, 1, true)
  | 3 => some (2, 64, 1, false)
  | 4 => some (1, 16, 2, true)
  | 5 => some (1, 16, 2, false)
  | 6 => some (1, 8, 4, true)
  | 7 => some (1, 8, 4, false)
  | _ => none

/-- A shift, whose count is a single register (R151). -/
def IOp.isShift : IOp → Bool
  | .shl | .shr | .sar => true
  | _ => false

/-- An operation of IALU with n sources (R151). -/
def Dev.ialu (e : Env) (d : Dev) (g : Gid) (w : AWord) (code : Nat) (o : IOp) (n : Nat) : Dev :=
  let t := ialuType (AWord.type w)
  let regs := match t with | some (r, _, _, _) => r | none => 1
  let nb := if o.isShift then 1 else regs
  let ops := dst w.d regs :: [src w.a regs, src w.b nb, src w.c regs].take n
  d.issue e g w { cls := 2, op := code } (t.isSome && !AWord.top w) ops fun i =>
    match t with
    | none => .wait
    | some (r, fw, k, sg) =>
      let x := i.x
      let rd := fun (c : BitVec 9) (m l : Nat) => x.rdN w.imm m c.toNat l
      i.finish d (x.mapLanes i.em ops r w.d.toNat fun l =>
        eachField fw k (o.field fw sg (AWord.sat w)) (rd w.a r l) (rd w.b nb l) (rd w.c r l))

/-- IADD. -/
def execIadd (g : Gid) (w : AWord) (s : State) : Host.Outcome State Fault Refusal := s.onDev fun e d => d.ialu e g w 0 .add 2
/-- ISUB. -/
def execIsub (g : Gid) (w : AWord) (s : State) : Host.Outcome State Fault Refusal := s.onDev fun e d => d.ialu e g w 1 .sub 2
/-- IMUL. -/
def execImul (g : Gid) (w : AWord) (s : State) : Host.Outcome State Fault Refusal := s.onDev fun e d => d.ialu e g w 2 .mul 2
/-- IMAD. -/
def execImad (g : Gid) (w : AWord) (s : State) : Host.Outcome State Fault Refusal := s.onDev fun e d => d.ialu e g w 3 .mad 3
/-- IMIN. -/
def execImin (g : Gid) (w : AWord) (s : State) : Host.Outcome State Fault Refusal := s.onDev fun e d => d.ialu e g w 4 .min 2
/-- IMAX. -/
def execImax (g : Gid) (w : AWord) (s : State) : Host.Outcome State Fault Refusal := s.onDev fun e d => d.ialu e g w 5 .max 2
/-- AND. -/
def execAnd (g : Gid) (w : AWord) (s : State) : Host.Outcome State Fault Refusal := s.onDev fun e d => d.ialu e g w 6 .and 2
/-- OR. -/
def execOr (g : Gid) (w : AWord) (s : State) : Host.Outcome State Fault Refusal := s.onDev fun e d => d.ialu e g w 7 .or 2
/-- XOR. -/
def execXor (g : Gid) (w : AWord) (s : State) : Host.Outcome State Fault Refusal := s.onDev fun e d => d.ialu e g w 8 .xor 2
/-- NOT. -/
def execNot (g : Gid) (w : AWord) (s : State) : Host.Outcome State Fault Refusal := s.onDev fun e d => d.ialu e g w 9 .not 1
/-- SHL. -/
def execShl (g : Gid) (w : AWord) (s : State) : Host.Outcome State Fault Refusal := s.onDev fun e d => d.ialu e g w 10 .shl 2
/-- SHR. -/
def execShr (g : Gid) (w : AWord) (s : State) : Host.Outcome State Fault Refusal := s.onDev fun e d => d.ialu e g w 11 .shr 2
/-- SAR. -/
def execSar (g : Gid) (w : AWord) (s : State) : Host.Outcome State Fault Refusal := s.onDev fun e d => d.ialu e g w 12 .sar 2
/-- POPC. -/
def execPopc (g : Gid) (w : AWord) (s : State) : Host.Outcome State Fault Refusal := s.onDev fun e d => d.ialu e g w 13 .popc 1
/-- CLZ. -/
def execClz (g : Gid) (w : AWord) (s : State) : Host.Outcome State Fault Refusal := s.onDev fun e d => d.ialu e g w 14 .clz 1

/-! F64. -/

/-- An operation of F64 with n sources, all pairs (R73, R148-R150). DEDUCED: MOD is laid out as for FALU, and its type and [59], for which
F64 has no use, are reserved at any value but 0 (log entry 78). -/
def Dev.f64 (e : Env) (d : Dev) (g : Gid) (w : AWord) (code : Nat) (o : FOp) (n : Nat) : Dev :=
  let ops := dst w.d 2 :: [src w.a 2, src w.b 2, src w.c 2].take n
  d.issue e g w { cls := 6, op := code } (AWord.type w == 0 && !AWord.top w) ops fun i =>
    let x := i.x
    let rd := fun (c : BitVec 9) (l : Nat) => x.rdN w.imm 2 c.toNat l
    i.finish d (x.mapLanes i.em ops 2 w.d.toNat fun l =>
      fp64.op o (AWord.rnd w) (AWord.sat w) (rd w.a l) (rd w.b l) (rd w.c l))

/-- DADD. -/
def execDadd (g : Gid) (w : AWord) (s : State) : Host.Outcome State Fault Refusal := s.onDev fun e d => d.f64 e g w 0 .add 2
/-- DMUL. -/
def execDmul (g : Gid) (w : AWord) (s : State) : Host.Outcome State Fault Refusal := s.onDev fun e d => d.f64 e g w 1 .mul 2
/-- DFMA. -/
def execDfma (g : Gid) (w : AWord) (s : State) : Host.Outcome State Fault Refusal := s.onDev fun e d => d.f64 e g w 2 .fma 3
/-- DMIN. -/
def execDmin (g : Gid) (w : AWord) (s : State) : Host.Outcome State Fault Refusal := s.onDev fun e d => d.f64 e g w 3 .min 2
/-- DMAX. -/
def execDmax (g : Gid) (w : AWord) (s : State) : Host.Outcome State Fault Refusal := s.onDev fun e d => d.f64 e g w 4 .max 2

/-! CONV. -/

/-- The words of CONV (R71). -/
def conv (op : Nat) : Code := { cls := 3, op := op }

/-- MOV (R80). -/
def execMov (g : Gid) (w : AWord) (s : State) : Host.Outcome State Fault Refusal :=
  s.onDev fun e d =>
    let n := if AWord.type w = 1 then 2 else 1
    let ops := [dst w.d n, src w.a n]
    d.issue e g w (conv 0) (decide (w.mod.toNat < 2)) ops fun i =>
      i.finish d (i.x.mapLanes i.em ops n w.d.toNat fun l => (i.x.rdN w.imm n w.a.toNat l, 0))

/-- SEL (R80). DEDUCED: on the uniform unit it takes the predicate of the lowest executing lane (R74; log entry 103). -/
def execSel (g : Gid) (w : AWord) (s : State) : Host.Outcome State Fault Refusal :=
  s.onDev fun e d =>
    let ops := [dst w.d, src w.a, src w.b, psrc w.c]
    d.issue e g w (conv 1) (decide (w.mod.toNat < 2)) ops fun i =>
      let p := i.x.predMask w.c.toNat
      i.finish d (i.x.mapLanes i.em ops 1 w.d.toNat fun l =>
        (i.x.rd w.imm (if bit p l != w.mod.getLsbD 0 then w.a.toNat else w.b.toNat) l, 0))

/-- CVT (R152, R153). -/
def execCvt (g : Gid) (w : AWord) (s : State) : Host.Outcome State Fault Refusal :=
  s.onDev fun e d =>
    let fmtA := w.b.toNat % 16
    let fmtD := AWord.type w
    let ops := [dst w.d, src w.a]
    d.issue e g w (conv 2) (w.b.toNat / 16 == 0 && !AWord.top w && cvtLegal fmtA fmtD) ops fun i =>
      i.finish d (i.x.mapLanes i.em ops 1 w.d.toNat fun l =>
        cvt fmtA fmtD (AWord.rnd w) (AWord.sat w) (i.x.rd w.imm w.a.toNat l))

/-- The lane SHFL reads for a lane (R80): none outside 0-31. -/
def shflLane (mode b l : Nat) : Option Nat :=
  match mode with
  | 0 => some (b % 32)
  | 1 => if b ≤ l then some (l - b) else none
  | 2 => if l + b < 32 then some (l + b) else none
  | _ => some (l ^^^ (b % 32))

/-- SHFL (R80). -/
def execShfl (g : Gid) (w : AWord) (s : State) : Host.Outcome State Fault Refusal :=
  s.onDev fun e d =>
    let ops := [dst w.d, src w.a, src w.b]
    d.issue e g w (conv 3) (decide (w.mod.toNat < 4)) ops fun i =>
      i.finish d (i.x.mapLanes i.em ops 1 w.d.toNat fun l =>
        let from' := match shflLane w.mod.toNat (i.x.rd w.imm w.b.toNat l) l with
          | some k => if bit i.em k then k else l
          | none => l
        (i.x.rd w.imm w.a.toNat from', 0))

/-- RDLANE: writes D whatever its guard (R80). DEDUCED: an A that is a u register or IMM is admitted and reads the same from any lane (log
entry 103). -/
def execRdlane (g : Gid) (w : AWord) (s : State) : Host.Outcome State Fault Refusal :=
  s.onDev fun e d => d.issue e g w (conv 4) (w.mod == 0) [udst w.d, src w.a, usrc w.b] fun i =>
    i.finish d (i.x.wr w.d.toNat 0 (i.x.rd w.imm w.a.toNat (i.x.rd w.imm w.b.toNat 0 % 32)))

/-- VOTE: writes D whatever its guard (R75, R80). -/
def execVote (g : Gid) (w : AWord) (s : State) : Host.Outcome State Fault Refusal :=
  s.onDev fun e d => d.issue e g w (conv 5) (decide (w.mod.toNat < 3)) [udst w.d, psrc w.a] fun i =>
    let p := i.x.predMask w.a.toNat &&& i.em
    let v := match w.mod.toNat with
      | 0 => p
      | 1 => b2n (p == i.em)
      | _ => b2n (p != 0)
    i.finish d (i.x.wr w.d.toNat 0 v)

/-- BCAST (R80). -/
def execBcast (g : Gid) (w : AWord) (s : State) : Host.Outcome State Fault Refusal :=
  s.onDev fun e d =>
    let ops := [dst w.d, src w.a]
    d.issue e g w (conv 6) (w.mod == 0) ops fun i =>
      i.finish d (i.x.mapLanes i.em ops 1 w.d.toNat fun _ => (i.x.rd w.imm w.a.toNat (lowLane i.em), 0))

/-! CMP. -/

/-- The TYPE codes of FSETP. -/
def fsetpType : Nat → Option (Fmt × Nat)
  | 0 => some (fp32, 1)
  | 1 => some (fp16, 1)
  | 2 => some (bf16, 1)
  | 5 => some (fp64, 2)
  | _ => none

/-- MOD[58:56]. -/
def AWord.cmpop (w : AWord) : Nat := bits w.mod.toNat 4 3

/-- FSETP (R79). -/
def execFsetp (g : Gid) (w : AWord) (s : State) : Host.Outcome State Fault Refusal :=
  s.onDev fun e d =>
    let t := fsetpType (AWord.type w)
    let n := match t with | some (_, n) => n | none => 1
    let ops := [src w.a n, src w.b n, vzero w.c]
    d.issue e g w { cls := 4, op := 0 } (t.isSome && !AWord.top w) ops fun i =>
      match t with
      | none => .wait
      | some (f, _) =>
        i.finish d (i.x.compareLanes i.em ops w.pd.toNat fun l =>
          f.compare (AWord.cmpop w) (i.x.rdN w.imm n w.a.toNat l) (i.x.rdN w.imm n w.b.toNat l))

/-- An integer comparison (R79). -/
def intCompare (op : Nat) (a b : Int) : Bool :=
  match op with
  | 0 => decide (a = b)
  | 1 => decide (a ≠ b)
  | 2 => decide (a < b)
  | 3 => decide (a ≤ b)
  | 4 => decide (b < a)
  | _ => decide (b ≤ a)

/-- ISETP (R79). -/
def execIsetp (g : Gid) (w : AWord) (s : State) : Host.Outcome State Fault Refusal :=
  s.onDev fun e d =>
    let t := AWord.type w
    let n := if 2 ≤ t then 2 else 1
    let ops := [src w.a n, src w.b n, vzero w.c]
    d.issue e g w { cls := 4, op := 1 } (decide (t < 4) && !AWord.top w && decide (AWord.cmpop w < 6)) ops fun i =>
      let v := fun (c : BitVec 9) (l : Nat) => intValue (32 * n) (t % 2 == 0) (i.x.rdN w.imm n c.toNat l)
      i.finish d (i.x.compareLanes i.em ops w.pd.toNat fun l => (intCompare (AWord.cmpop w) (v w.a l) (v w.b l), 0))

/-- PLOP (R79). -/
def execPlop (g : Gid) (w : AWord) (s : State) : Host.Outcome State Fault Refusal :=
  s.onDev fun e d => d.issue e g w { cls := 4, op := 2 } true [psrc w.a, psrc w.b, psrc w.c] fun i =>
    let p := fun (c : BitVec 9) (l : Nat) => b2n (bit (i.x.predMask c.toNat) l)
    let m := maskOf ((List.range 32).filter fun l => bit w.mod.toNat (4 * p w.a l + 2 * p w.b l + p w.c l))
    i.finish d (i.x.setPred w.pd.toNat i.em m)

/-! The function-table unit. -/

/-- MOD[53:52]. -/
def AWord.slot (w : AWord) : Nat := bits w.mod.toNat 0 2

/-- A function-table slot of a core. -/
def Dev.ftabOf (d : Dev) (core slot : Nat) : FTab := d.core.ftab.look (core * 4 + slot)

/-- Replaces a function-table slot. -/
def Dev.setFtab (d : Dev) (core slot : Nat) (t : FTab) : Dev :=
  { d with core := { d.core with ftab := d.core.ftab.put (core * 4 + slot) t } }

/-- FTAB.EV (R78, R163, R164). -/
def execFtabEv (g : Gid) (w : AWord) (s : State) : Host.Outcome State Fault Refusal :=
  s.onDev fun e d =>
    let ops := [dst w.d, src w.a]
    d.issue e g w { cls := 5, op := 0, form := .short } (!AWord.top w) ops fun i =>
      let t := d.ftabOf g.core (AWord.slot w)
      let c := fun (k j : Nat) => (t.coef.getD (4 * k + j) 0).toNat
      if i.em = 0 then i.finish d i.x
      else if !bit i.launch.tables (AWord.slot w) then .fault { code := 0x1A, lanes := i.em }
      else if t.busy then .wait
      else if !t.loaded then .fault { code := 0x1A, lanes := i.em }
      else
        i.finish d (i.x.mapLanes i.em ops 1 w.d.toNat fun l =>
          let a := i.x.rd w.imm w.a.toNat l
          ftabEval c (if AWord.sat w then a % 65536 * 65536 else a) (bits w.mod.toNat 2 4))

/-- The words of a function table from its bytes (R162). -/
def tableWords : List Byte → List Word
  | a :: b :: c :: d :: t => BitVec.ofNat 32 (leOf [a, b, c, d]) :: tableWords t
  | _ => []

/-- A range of a core's scratchpad overlaps a scoreboard entry (R214, R215). `any`: of either kind, else write entries. -/
def Dev.sbOverlaps (d : Dev) (core o n : Nat) (any : Bool) : Bool :=
  d.mem.sb.any (fun b => b.core == core && (any || b.write) && decide (o < b.hi) && decide (b.lo < o + n))

/-- It still waits for a free entry of the scoreboard: the group stands before its MX.DRAIN, the engine before its start. -/
def Dev.sbWaits (d : Dev) (w : SbWait) : Bool :=
  match w.drain with
  | some (g, pc) => (d.grp g).live && (d.grp g).st == .run && (d.grp g).pc == pc
  | none => (d.dma.engines.look w.engine).st == .waitBoard

/-- One that needs some entries of a core's scoreboard waits: too few of the 32 are free, or another asked before it (R216). -/
def Dev.sbFull (d : Dev) (core need : Nat) (w : SbWait) : Bool :=
  decide (32 < (d.mem.sb.filter (fun b => b.core == core)).length + need) ||
  match d.mem.sbq.filter (fun y => y.core == core && d.sbWaits y) with
  | y :: _ => y != w
  | [] => false

/-- It asks for an entry, after those that wait already. -/
def Dev.sbAsk (d : Dev) (w : SbWait) : Dev :=
  let q := d.mem.sbq.filter d.sbWaits
  { d with mem := { d.mem with sbq := if q.contains w then q else q ++ [w] } }

/-- It has its entries. -/
def Dev.sbGot (d : Dev) (w : SbWait) : Dev :=
  if d.mem.sbq.isEmpty then d else { d with mem := { d.mem with sbq := d.mem.sbq.filter (fun y => y != w && d.sbWaits y) } }

/-- FTAB.LD: the table is read from the scratchpad, its words checked; the slot is busy until FTAB_LOAD_COMPLETE (R78, R202, R215,
R218). DEDUCED: words that carry poison are loaded as they stand, as no rule raises an exception for them (log entry 80), and MOD[59:54],
to which no rule gives a meaning, are not looked at (log entry 78). -/
def execFtabLd (g : Gid) (w : AWord) (s : State) : Host.Outcome State Fault Refusal :=
  s.onDev fun e d => d.issue e g w { cls := 5, op := 1, form := .short } true [usrc w.a] fun i =>
    let slot := AWord.slot w
    let o := i.x.rd w.imm w.a.toNat 0
    let agent : Agent := { kernel := i.launch.kernel, part := i.launch.part, dma := false, march := false }
    let t := d.ftabOf g.core slot
    if i.em = 0 then i.finish d i.x
    else if !bit i.launch.tables slot then .fault { code := 0x1A, lanes := i.em }
    else if spSize < o + 4096 ∨ d.get (SP_STATUS.FAILED g.core) = 1 then
      .fault { code := xUnmapped, lanes := i.em, addr := spAddr g.core o }
    else if !d.spAdmits agent g.core o 4096 then .fault { code := xAccess, lanes := i.em, addr := spAddr g.core o }
    else if t.busy then .wait
    else if d.sbOverlaps g.core o 4096 false then .wait 9
    else
      i.finish ((d.spCheck g.core o 4096).setFtab g.core slot { t with busy := true, next := tableWords (d.spRead g.core o 4096) }) i.x

/-- FTAB_LOAD_COMPLETE (R78). -/
def execFtabLoadComplete (core slot : Nat) (s : State) : Host.Outcome State Fault Refusal :=
  s.onDev fun _ d =>
    let t := d.ftabOf core slot
    if t.busy then d.setFtab core slot { loaded := true, busy := false, coef := t.next, next := [] } else d

/-- An evaluation of a built-in table (R78; log entry 11). DEDUCED: its MOD, to which no rule gives a meaning, is not looked at (log
entry 78). -/
def Dev.builtin (e : Env) (d : Dev) (g : Gid) (w : AWord) (code k : Nat) : Dev :=
  let ops := [dst w.d, src w.a]
  d.issue e g w { cls := 5, op := code, form := .short } true ops fun i =>
    i.finish d (i.x.mapLanes i.em ops 1 w.d.toNat fun l =>
      let a := BitVec.ofNat 32 (i.x.rd w.imm w.a.toNat l)
      (builtin32 k a, Config.builtinFlags k a % 16))

/-- RCP. -/
def execRcp (g : Gid) (w : AWord) (s : State) : Host.Outcome State Fault Refusal := s.onDev fun e d => d.builtin e g w 2 0
/-- RSQ. -/
def execRsq (g : Gid) (w : AWord) (s : State) : Host.Outcome State Fault Refusal := s.onDev fun e d => d.builtin e g w 3 1
/-- EXP2. -/
def execExp2 (g : Gid) (w : AWord) (s : State) : Host.Outcome State Fault Refusal := s.onDev fun e d => d.builtin e g w 4 2
/-- LOG2. -/
def execLog2 (g : Gid) (w : AWord) (s : State) : Host.Outcome State Fault Refusal := s.onDev fun e d => d.builtin e g w 5 3

/-! SYS. -/

/-- The words of SYS (R71). -/
def sys (op : Nat) : Code := { cls := 13, op := op, form := .short }

/-- The block a group belongs to. -/
def Dev.blockOf (d : Dev) (x : Group) : Block := (d.core.blocks.find? (fun b => b.id == x.block)).getD default

/-- Groups per block of a launch (R36). -/
def Launch.groups (l : Launch) : Nat := ceilDiv l.threads 32

/-- An identity value in a lane (R38, R96); none for a code not listed. -/
def Dev.identity (d : Dev) (g : Gid) (x : Group) (l : Launch) (code lane : Nat) : Option Nat :=
  let b := d.blockOf x
  match code with
  | 0x00 => some lane
  | 0x01 => some x.index
  | 0x02 => some l.groups
  | 0x03 => some b.index
  | 0x04 => some (b.index % l.gridX)
  | 0x05 => some (b.index / l.gridX % l.gridY)
  | 0x06 => some (b.index / (l.gridX * l.gridY))
  | 0x07 => some b.rank
  | 0x08 => some (b.index / l.cluster)
  | 0x20 => some (if l.w = 0 then 0 else spAddr g.core b.area)
  | 0x21 => some g.core
  | 0x22 => some (sectOf g.core)
  | 0x23 => some g.quarter
  | 0x24 => some g.slot
  | _ =>
    if 0x10 ≤ code ∧ code < 0x20 then
      let r := code - 0x10
      if r < l.cluster then
        match d.core.blocks.find? (fun c => c.launch == b.launch && c.cluster == b.cluster && c.rank == r) with
        | some c => some c.core
        | none => some 0xFF
      else some 0xFF
    else none

/-- SYS.ID (R96). -/
def execSysId (g : Gid) (w : AWord) (s : State) : Host.Outcome State Fault Refusal :=
  s.onDev fun e d =>
    let n := if w.mod = 0x20 then 2 else 1
    d.issue e g w (sys 0) true [dst w.d n] fun i =>
      let c := w.mod.toNat
      if (d.identity g i.x i.launch c 0).isNone || (c == 0 && isU w.d.toNat) then i.fault xOperand
      else
        let ls := if isU w.d.toNat then (lanesOf i.em).take 1 else lanesOf i.em
        i.finish d (ls.foldl (fun y l => y.wrN n w.d.toNat l ((d.identity g i.x i.launch c l).getD 0)) i.x)

/-- SYS.TIME (R17, R96). -/
def execSysTime (g : Gid) (w : AWord) (s : State) : Host.Outcome State Fault Refusal :=
  s.onDev fun e d => d.issue e g w (sys 1) (w.mod == 0) [udst w.d 2] fun i =>
    i.finish d (if i.em = 0 then i.x else i.x.wrN 2 w.d.toNat 0 e.time)

/-- SYS.CYCLE (R96). -/
def execSysCycle (g : Gid) (w : AWord) (s : State) : Host.Outcome State Fault Refusal :=
  s.onDev fun e d => d.issue e g w (sys 2) (w.mod == 0) [udst w.d 2] fun i =>
    i.finish d (if i.em = 0 then i.x else i.x.wrN 2 w.d.toNat 0 ((d.cycles (sectOf g.core) - i.x.start) / 4))

/-- SYS.FLAGS (R76). -/
def execSysFlags (g : Gid) (w : AWord) (s : State) : Host.Outcome State Fault Refusal :=
  s.onDev fun e d => d.issue e g w (sys 3) (w.mod == 0) [udst w.d] fun i =>
    i.finish d (if i.em = 0 then i.x else (i.x.wr w.d.toNat 0 i.x.flags.toNat).clearFlags)

/-- SYS.MARK (R96, R515). DEDUCED: a v source is read in the lowest executing lane (log entry 103). -/
def execSysMark (g : Gid) (w : AWord) (s : State) : Host.Outcome State Fault Refusal :=
  s.onDev fun e d => d.issue e g w (sys 4) (w.mod == 0) [src w.a] fun i =>
    if i.em = 0 then i.finish d i.x
    else i.finish (d.trace e 1 g i.launch.part (i.x.rd w.imm w.a.toNat (lowLane i.em))) i.x

end Sys2Proof.Machine
end

