-- ==== Sys2Proof/Machine/Cache.lean ====
section
/-! DEFINITION. The L1, Husk and the fills of a core (R227-R236), the requests of the L2 slices (R237-R240), patrol scrub
(R246), atomics at their homes (R87). -/

namespace Sys2Proof.Machine

/-! Atomics. -/

/-- The value an atomic writes (R87). -/
def atomApply (op size : Nat) (signed : Bool) (old b c : Nat) : Nat :=
  let w := 8 * size
  let x := intValue w signed old
  let y := intValue w signed b
  match op with
  | 0 => (old + b) % 2 ^ w
  | 1 => ofSigned w (min x y)
  | 2 => ofSigned w (max x y)
  | 3 => old &&& b
  | 4 => old ||| b
  | 5 => old ^^^ b
  | 6 => b % 2 ^ w
  | 7 => if old = c % 2 ^ w then b % 2 ^ w else old
  | 8 => (fp32.op .add 0 false old b 0).1
  | _ => (eachField 16 2 (bf16.op .add 0 false) old b 0).1

/-- The bytes of an access in a lane are bound. -/
def Access.bind (a : Access) (at' : Nat) (bs : List Byte) : Access :=
  { a with bytes := (bs.zipIdx).foldl (fun t p => Sparse.put t (at' + p.2) p.1) a.bytes }

/-- Data arrives for what an access waits on: `data` gives the n bytes from an offset and whether they are poisoned. -/
def Access.answer (a : Access) (w : Wait) (data : Nat → Nat → List Byte × Bool) : Access :=
  let hit := (a.waits.filter (fun x => x.1 == w)).flatMap (fun x => x.2)
  let a := hit.foldl (fun a p => a.bind p.1 (data p.2.1 p.2.2).1) a
  let lanes := (hit.filter (fun p => (data p.2.1 p.2.2).2)).map (fun p => p.1 / 16)
  { a with
    waits := a.waits.filter (fun x => x.1 != w),
    poison := a.poison ||| BitVec.ofNat 32 (maskOf lanes) }

/-- Data arrives for every access of a group. -/
def Dev.answerGroup (d : Dev) (g : Gid) (w : Wait) (data : Nat → Nat → List Byte × Bool) : Dev :=
  let x := d.grp g
  d.setGrp g { x with accs := x.accs.map (fun a => a.answer w data) }

/-! The L1 and Husk. -/

/-- The set of a line (R227). -/
def l1Set (line : Nat) : Nat := (line ^^^ (line / 128)) % 128

/-- Key of a way. -/
def l1Key (core set way : Nat) : Nat := (core * 128 + set) * 16 + way

/-- A way of a set. -/
def Dev.l1Way (d : Dev) (core set way : Nat) : L1Line := d.core.l1.look (l1Key core set way)

/-- Replaces a way. -/
def Dev.setL1 (d : Dev) (core set way : Nat) (l : L1Line) : Dev :=
  { d with core := { d.core with l1 := d.core.l1.put (l1Key core set way) l } }

/-- State of a sector of a line. -/
def L1Line.state (l : L1Line) (i : Nat) : L1State := l.st.getD i .invalid

/-- Every sector of the way is INVALID. -/
def L1Line.isEmpty (l : L1Line) : Bool := l.st.all (fun s => s == .invalid)

/-- The way that holds a line. -/
def Dev.l1Find (d : Dev) (core line : Nat) : Option Nat :=
  (List.range 16).find? (fun w => let l := d.l1Way core (l1Set line) w; !l.isEmpty && l.line == line)

/-- Tree pseudo-LRU: the way the bits point to among the eligible ones (log entry 21). Node n has children 2n and 2n + 1; a
set bit points to the upper half. `k` halvings remain below `node`, whose first way is `base`. -/
def plruPick (bits' : Nat) (ok : Nat → Bool) : Nat → Nat → Nat → Nat
  | 0, _, base => base
  | k + 1, node, base =>
    let half := 2 ^ k
    let anyIn := fun (b : Nat) => (List.range half).any (fun i => ok (b + i))
    let up := bit bits' node
    let go := if up then (if anyIn (base + half) then true else false) else (if anyIn base then false else true)
    if go then plruPick bits' ok k (2 * node + 1) (base + half) else plruPick bits' ok k (2 * node) base

/-- The bits after an access to a way: they point away from it. -/
def plruTouch (bits' way : Nat) : Nat → Nat → Nat → Nat
  | 0, _, _ => bits'
  | k + 1, node, base =>
    let half := 2 ^ k
    if base + half ≤ way then plruTouch (setBits bits' node 1 0) way k (2 * node + 1) (base + half)
    else plruTouch (setBits bits' node 1 1) way k (2 * node) base

/-- Marks a way as used. -/
def Dev.l1Touch (d : Dev) (core set way : Nat) : Dev :=
  let k := core * 128 + set
  { d with core := { d.core with plru := d.core.plru.put k (plruTouch (d.core.plru.look k) way 4 1 0) } }

/-- The way a line of a set is allocated to: an invalid one first, else pseudo-LRU among those without a PENDING sector
(R229). -/
def Dev.l1Victim (d : Dev) (core set : Nat) : Option Nat :=
  let way := fun w => d.l1Way core set w
  match (List.range 16).find? (fun w => (way w).isEmpty) with
  | some w => some w
  | none =>
    let ok := fun w => !(way w).st.any (fun s => s == .pending)
    if (List.range 16).any ok then some (plruPick (d.core.plru.look (core * 128 + set)) ok 4 1 0) else none

/-- The lines Husk of a core holds, oldest first. -/
def Dev.huskOf (d : Dev) (core : Nat) : List L1Line := d.core.husk.look core

/-- Replaces Husk's lines; at most 32 stay, the oldest leave (R233). -/
def Dev.setHusk (d : Dev) (core : Nat) (l : List L1Line) : Dev :=
  { d with core := { d.core with husk := d.core.husk.put core (l.drop (l.length - 32)) } }

/-- A line as it leaves for Husk: only its VALID sectors (R233). -/
def L1Line.kept (l : L1Line) : L1Line := { l with st := l.st.map (fun s => if s = .valid then .valid else .invalid) }

/-- An empty line. -/
def L1Line.fresh (line : Nat) : L1Line :=
  { line := line, st := [.invalid, .invalid, .invalid, .invalid], data := [0, 0, 0, 0] }

/-- The line gets a way: recalled from Husk where it lies there, else fresh, the victim going to Husk; the second value is
its way, none where no way can be allocated (R229, R233). -/
def Dev.l1Place (d : Dev) (g : Gid) (part line : Nat) : Dev × Option Nat :=
  let core := g.core
  let set := l1Set line
  match d.l1Find core line with
  | some w => (d.l1Touch core set w, some w)
  | none =>
    match d.l1Victim core set with
    | none => (d, none)
    | some w =>
      let old := d.l1Way core set w
      let husk := d.huskOf core
      match husk.findIdx? (fun l => l.line == line) with
      | some i =>
        let rec' := husk.getD i default
        let husk' := if old.isEmpty then removeAt husk i else setAt husk i old.kept
        let d := ((d.setHusk core husk').setL1 core set w rec').incr (L1_STATS.RECALLS core)
        ((d.pmc core (some g.quarter) part 7 1).l1Touch core set w, some w)
      | none =>
        let d := if old.isEmpty then d else d.setHusk core (husk ++ [old.kept])
        ((d.setL1 core set w (L1Line.fresh line)).l1Touch core set w, some w)

/-- A sector of the line in a way. -/
def Dev.l1State (d : Dev) (core line : Nat) (way : Option Nat) (i : Nat) : L1State :=
  match way with
  | some w => (d.l1Way core (l1Set line) w).state i
  | none => .invalid

/-- A fill of a core that a later load of a sector may attach to. -/
def Dev.fillFor (d : Dev) (core sector : Nat) : Option Fill :=
  d.core.fills.find? (fun f => f.core == core && f.sector == sector && f.attach)

/-- Sends a request for a sector (R230). -/
def Dev.requestFill (d : Dev) (g : Gid) (part sector cls : Nat) (way : Option Nat) : Dev × Nat :=
  let id := d.core.nextId
  let f : Fill := { id := id, core := g.core, sector := sector, install := way.isSome, attach := true, stores := [], data := none }
  let r : L2Req := { id := id, returns := false, src := .core g.core, gid := some g, part := part, sector := sector, op := .fill, lc := cls }
  let line := sector / 4
  let d := match way with
    | some w =>
      let l := d.l1Way g.core (l1Set line) w
      d.setL1 g.core (l1Set line) w { l with st := setAt l.st (sector % 4) .pending }
    | none => d
  let d := { d with core := { d.core with nextId := id + 1, fills := d.core.fills ++ [f] } }
  let d := { d with mem := { d.mem with l2q := d.mem.l2q ++ [r] } }
  ((d.incr (L1_MISSES.COUNT g.core)).pmc g.core (some g.quarter) part 6 1, id)

/-- What a load finds of a sector in its core: the data, or the fill it waits on. -/
inductive L1Find where
  | hit (v : Sector)
  | wait (id seen : Nat)
deriving DecidableEq, Repr, Inhabited

/-- A sector of the L1, or of a line recalled from Husk, fails its parity check: it is treated as INVALID and fetched again. A core
that counts more than 16 of them within a second reports it once for that second (R236). -/
def Dev.parityRefetch (e : Env) (d : Dev) (core sector : Nat) (way : Option Nat) : Dev :=
  match way with
  | none => d
  | some w =>
    let set := l1Set (sector / 4)
    let l := d.l1Way core set w
    let d := (d.setL1 core set w { l with st := setAt l.st (sector % 4) .invalid }).bump (L1_STATS.PARITY core) 1
    let now := e.time / 1000000000
    let c := d.core.parity.look core
    let n := if c.1 = now then c.2 + 1 else 1
    let d := { d with core := { d.core with parity := d.core.parity.put core (now, n) } }
    if n = 17 then d.postD e 0x43 31 31 [core + n * 2 ^ 32] else d

/-- A load touches a sector through the L1 (R229, R230, R233). `bad`: sectors whose copy fails its parity check (R236). -/
def Dev.l1Load (e : Env) (d : Dev) (g : Gid) (part sector cls : Nat) (bad : List Nat) : Dev × L1Find :=
  let line := sector / 4
  let p := d.l1Place g part line
  let way := p.2
  let d := if p.1.l1State g.core line way (sector % 4) = .valid ∧ bad.contains sector then p.1.parityRefetch e g.core sector way else p.1
  match d.l1State g.core line way (sector % 4), way with
  | .valid, some w =>
    ((d.incr (L1_HITS.COUNT g.core)).pmc g.core (some g.quarter) part 5 1,
      .hit ((d.l1Way g.core (l1Set line) w).data.getD (sector % 4) 0))
  | _, _ =>
    match d.fillFor g.core sector with
    | some f => (d, .wait f.id f.stores.length)
    | none => let r := d.requestFill g part sector cls way; (r.1, .wait r.2 0)

/-- A load of a sector would miss (R230, R236). -/
def Dev.l1Misses (d : Dev) (core sector : Nat) (bad : List Nat) : Bool :=
  let line := sector / 4
  bad.contains sector ||
  match d.l1Find core line with
  | some w => (d.l1Way core (l1Set line) w).state (sector % 4) != .valid
  | none =>
    match (d.huskOf core).find? (fun l => l.line == line) with
    | some l => l.state (sector % 4) != .valid || (d.l1Victim core (l1Set line)).isNone
    | none => true

/-- A store updates the copies of its core: VALID sectors at once, PENDING ones by record; a fill without a way takes no
later load (R229, R232, R233, R263). -/
def Dev.l1Store (d : Dev) (g : Gid) (sector : Nat) (bs : List (Nat × Byte)) : Dev :=
  let core := g.core
  let line := sector / 4
  let i := sector % 4
  let upd := fun (l : L1Line) =>
    if l.state i = .valid then { l with data := setAt l.data i (mergeSector (l.data.getD i 0) bs) } else l
  let d := match d.l1Find core line with
    | some w => d.setL1 core (l1Set line) w (upd (d.l1Way core (l1Set line) w))
    | none => d
  let d := d.setHusk core ((d.huskOf core).map (fun l => if l.line = line then upd l else l))
  let rec' := fun (f : Fill) =>
    if f.core = core ∧ f.sector = sector then
      if f.install then { f with stores := f.stores ++ bs.map (fun p => (gidKey g, p.1, p.2)) } else { f with attach := false }
    else f
  { d with core := { d.core with fills := d.core.fills.map rec' } }

/-- An HBM atomic invalidates its core's copies of a sector (R231). -/
def Dev.l1Drop (d : Dev) (core sector : Nat) : Dev :=
  let line := sector / 4
  let i := sector % 4
  let inv := fun (l : L1Line) => { l with st := setAt l.st i .invalid }
  let d := match d.l1Find core line with
    | some w => d.setL1 core (l1Set line) w (inv (d.l1Way core (l1Set line) w))
    | none => d
  let d := d.setHusk core (((d.huskOf core).map (fun l => if l.line = line then inv l else l)).filter (fun l => !l.isEmpty))
  { d with core := { d.core with fills := d.core.fills.map (fun f =>
      if f.core = core ∧ f.sector = sector then { f with install := false, attach := false } else f) } }

/-- The sector a load receives from a fill: merged with the recorded stores, but for the later ones of its own group
(R232, R263). -/
def Fill.forLoad (f : Fill) (key seen : Nat) (v : Sector) : Sector :=
  mergeSector v (((f.stores.zipIdx).filter (fun p => decide (p.2 < seen) || p.1.1 != key)).map (fun p => p.1.2))

/-- L1_FILL: the data of a fill arrives at the core: installed where it may be, merged, and delivered to the loads that
wait (R229-R232, R235). Poisoned data is delivered and not kept. -/
def execL1Fill (core sector : Nat) (s : State) : Host.Outcome State Fault Refusal :=
  s.onDev fun _ d =>
    match d.core.fills.find? (fun f => f.core == core && f.sector == sector && f.data.isSome) with
    | none => d
    | some f =>
      match f.data with
      | none => d
      | some (v, poison) =>
        let line := sector / 4
        let all := mergeSector v (f.stores.map (fun p => p.2))
        let d := match f.install, d.l1Find core line with
          | true, some w =>
            let l := d.l1Way core (l1Set line) w
            let l := if poison then { l with st := setAt l.st (sector % 4) .invalid }
              else { l with st := setAt l.st (sector % 4) .valid, data := setAt l.data (sector % 4) all }
            d.setL1 core (l1Set line) w l
          | _, _ => d
        let d := { d with core := { d.core with fills := d.core.fills.filter (fun x => x.id != f.id) } }
        (d.core.groups.filter (fun x => (gidOf x.1).core == core && x.2.live)).foldl (fun d x =>
          let seens := (x.2.accs.flatMap (fun a => a.waits.map (fun y => y.1))).filterMap (fun y =>
            match y with | .fill i k => if i = f.id then some k else none | _ => none)
          seens.foldl (fun d k =>
            let w := f.forLoad x.1 k v
            d.answerGroup (gidOf x.1) (.fill f.id k) (fun o n => (sectorBytes w o n, poison))) d) d

/-! The L2 slices. -/

/-- A request writes the whole sector: nothing is read for it. -/
def L2Req.whole (r : L2Req) : Bool :=
  match r.op with
  | .write bs => fillsSector bs
  | _ => false

/-- A request is performed at its slice (R87, R237, R240, R259). -/
def Dev.l2Perform (d : Dev) (r : L2Req) (pick : Option Nat) : Dev :=
  match r.op with
  | .fill =>
    let d := d.l2Fetch r.sector r.part r.lc pick
    let v := d.homeSector r.sector
    { d with core := { d.core with fills := d.core.fills.map (fun f => if f.id = r.id then { f with data := some v } else f) } }
  | .read =>
    let d := d.l2Fetch r.sector r.part r.lc pick
    let v := d.homeSector r.sector
    match r.gid with
    | some g => d.answerGroup g (.l2 r.id) (fun o n => (sectorBytes v.1 o n, v.2))
    | none => d
  | .write bs => d.l2Store r.sector r.part bs false 1 pick
  | .atom a =>
    let d := d.l2Fetch r.sector r.part r.lc pick
    let v := d.homeSector r.sector
    let old := leOf (sectorBytes v.1 a.off a.size)
    let new := atomApply a.op a.size a.signed old (a.b.toNat % 2 ^ (8 * a.size)) (a.c.toNat % 2 ^ (8 * a.size))
    let d := d.l2Write r.sector r.part 1 (((leBytes a.size new).zipIdx).map (fun p => (a.off + p.2, p.1))) false pick
    match r.returns, r.gid with
    | true, some g => d.answerGroup g (.l2 r.id) (fun o n => (sectorBytes v.1 o n, v.2))
    | _, _ => d

/-- L2_ACCESS: the request at a place among those of a slice is performed, unless an earlier one to its sector waits (R238).
`victim`: which line leaves where the replacement leaves it open (R239; log entry 81); `find`: what the check of a sector read
finds. -/
def execL2Access (slice pos : Nat) (victim : Option Nat) (find : EccFind) (s : State) : Host.Outcome State Fault Refusal :=
  s.onDev fun e d =>
    let mine := d.mem.l2q.filter (fun r => d.sliceOf r.sector == slice)
    match mine[pos]? with
    | none => d
    | some r =>
      if (mine.take pos).any (fun q => q.sector == r.sector) then d
      else if d.mem.repairs.contains r.sector && !r.whole then d
      else
        let d := if r.whole then d else d.l2Check e r.sector find
        if d.mem.repairs.contains r.sector && !r.whole then d
        else
          let d := d.l2Perform r victim
          { d with mem := { d.mem with l2q := d.mem.l2q.filter (fun q => q.id != r.id) } }

/-- Bits go bad: a word of an event FIFO fails its check from then on, an error of another place lies there until it is met (log
entry 80). -/
def Dev.strike (d : Dev) (us : List Upset) : Dev :=
  us.foldl (fun d u =>
    match u.site with
    | .event i pos =>
      let q := d.fifo i
      match q.words[pos]? with
      | some w => d.setFifo i { q with words := setAt q.words pos { w with bad := true } }
      | none => d
    | _ => { d with mem := { d.mem with upsets := d.mem.upsets ++ [u] } }) d

/-- PATROL_SCRUB: the sector of an address is read at HBM whatever the L2 holds, in the bulk class (R240, R245, R246). `find.upsets`: what
has gone bad in the memories since the last one (log entry 80). -/
def execPatrolScrub (addr : Nat) (find : ScrubFind) (s : State) : Host.Outcome State Fault Refusal :=
  s.onDev fun e d =>
    let d := d.strike find.upsets
    let sec := addr / 32
    let ch := d.chanOf (sec * 32)
    if d.capacity ≤ addr ∨ d.chanDown ch then d
    else
      let d := (d.countBytes ch 2 32).sectors 16 1
      if d.anyPoison (sec * 32) 32 then d
      else
        let lies := d.hbmUpset sec
        let d := d.forget (.hbm sec)
        let d' := d.hbmUe e sec
        let bad := if (d.mem.l2.look sec).held then d' else d'.regionFailed e sec
        if d.mem.failed.contains sec then bad
        else
          match eccOr find.ecc lies with
          | .clean => d
          | .corrected => (d.bump (HBM_CH_ECC.CE ch) 1).countBytes ch 2 32
          | .uncorrectable => bad

/-- A channel is declared down (R253, R254). -/
def Dev.channelDown (e : Env) (d : Dev) (ch cause : Nat) : Dev :=
  (((d.put (HBM_CH_STATUS.STATE ch) 3).postDA e 0x31 [ch]).platformEvent 0x31 ch).retireChannel e ch cause

/-- HBM_CHANNEL_DOWN: a mapped channel fails in service. -/
def execHbmChannelDown (ch : Nat) (s : State) : Host.Outcome State Fault Refusal :=
  s.onDev fun e d =>
    if 128 ≤ ch ∨ !bit (d.get (HBM_MAP.MAPPED (ch / 64))) (ch % 64) ∨ d.chanDown ch then d
    else d.channelDown e ch 3

end Sys2Proof.Machine
end

