-- ==== Sys2Proof/Machine/Landing.lean ====
section
/-! DEFINITION. Writes to the scratchpads of other sections: credits, ports and landing zones (R209-R213). -/

namespace Sys2Proof.Machine

/-- Runs of consecutive keys with their values, none crossing a multiple of `blk`. -/
def runs (blk : Nat) : List (Nat × Byte) → List (Nat × List Byte)
  | [] => []
  | (a, b) :: t =>
    match runs blk t with
    | [] => [(a, [b])]
    | (a', l) :: r => if a' = a + 1 ∧ a' % blk ≠ 0 then (a, b :: l) :: r else (a, [b]) :: (a', l) :: r

/-- The values grouped by the block of `blk` their key lies in, keys in rising order. -/
def blocksOf (blk : Nat) : List (Nat × Byte) → List (Nat × List (Nat × Byte))
  | [] => []
  | (a, b) :: t =>
    match blocksOf blk t with
    | [] => [(a / blk, [(a, b)])]
    | (k, l) :: r => if k = a / blk then (k, (a, b) :: l) :: r else (a / blk, [(a, b)]) :: (k, l) :: r

/-- The credits of a sender for a receiver. -/
def Dev.creditOf (d : Dev) (s r : Nat) : Credit := d.mem.credit.look (s * 128 + r)

/-- Replaces them. -/
def Dev.setCredit (d : Dev) (s r : Nat) (c : Credit) : Dev :=
  { d with mem := { d.mem with credit := d.mem.credit.put (s * 128 + r) c } }

/-- Slots of a receiver that are neither granted nor occupied (R210, R211). -/
def Dev.lzFree (d : Dev) (r : Nat) : Nat :=
  512 - (((d.mem.credit.filter (fun x => x.1 % 128 == r)).map (fun x => x.2.held)).sum +
    (d.mem.lz.filter (fun z => z.receiver == r)).length)

/-- A sender asks for batches until its credits, held and asked, exceed 320 (R210). -/
def Dev.refill (d : Dev) (s r : Nat) : Nat → Dev
  | 0 => d
  | fuel + 1 =>
    let c := d.creditOf s r
    if c.held + c.asked ≤ 320 then
      let d := d.setCredit s r { c with asked := c.asked + 64 }
      Dev.refill { d with mem := { d.mem with askq := d.mem.askq ++ [(s, r)] } } s r fuel
    else d

/-- Unused credits go back; requests not yet granted stand (R210, R211). -/
def Dev.returnCredits (d : Dev) (s r : Nat) : Dev := d.setCredit s r { d.creditOf s r with held := 0 }

/-- Receivers, other than r, for which a sender holds credits. -/
def Dev.creditors (d : Dev) (s r : Nat) : List Nat := (List.range 128).filter (fun x => x != r && decide (0 < (d.creditOf s x).held))

/-- The receiver of a list that a sender wrote least recently. -/
def Dev.leastRecent (d : Dev) (s : Nat) (l : List Nat) : Option Nat :=
  l.foldl (fun b r =>
    match b with
    | none => some r
    | some x => if (d.creditOf s r).last < (d.creditOf s x).last then some r else some x) none

/-- A sender that holds credits for four other receivers returns the unused ones of the least recently written (R210, R211). -/
def Dev.fourCreditors (d : Dev) (s r : Nat) : Dev :=
  let l := d.creditors s r
  if l.length < 4 then d
  else match d.leastRecent s l with
    | some x => d.returnCredits s x
    | none => d

/-- A sender makes room for a receiver among its four, and asks for credit (R210, R211). -/
def Dev.askCredit (d : Dev) (s r : Nat) : Dev := (if (d.creditOf s r).held = 0 then d.fourCreditors s r else d).refill s r 6

/-- The port of a sender sends its waiting entries for a receiver while it holds credit, in order (R211, R212). `fuel`: at
least the entries waiting. -/
def Dev.sendPort (e : Env) (d : Dev) (s r : Nat) : Nat → Dev
  | 0 => d
  | fuel + 1 =>
    match d.mem.port.find? (fun z => z.sender == s && z.receiver == r) with
    | none => d
    | some z =>
      let c := d.creditOf s r
      if c.held = 0 then d
      else
        let d := d.setCredit s r { c with held := c.held - 1, last := e.time }
        let m : MemSys := { d.mem with port := d.mem.port.filter (fun y => y.id != z.id), lz := d.mem.lz ++ [z] }
        Dev.sendPort e (({ d with mem := m }).refill s r 6) s r fuel

/-- A write or atomic of one span leaves for another section (R209-R211). -/
def Dev.sendSpan (e : Env) (d : Dev) (z : LzEntry) : Dev :=
  let d := d.askCredit z.sender z.receiver
  let d := { d with mem := { d.mem with port := d.mem.port ++ [z] } }
  d.sendPort e z.sender z.receiver (d.mem.port.length + 1)

/-- CREDIT_GRANT: the receiver grants the batch asked for first, from 64 free slots (R211). A grant that would give its sender credits
for a fifth receiver first has those of another returned (log entry 101). -/
def execCreditGrant (receiver : Nat) (s : State) : Host.Outcome State Fault Refusal :=
  s.onDev fun e d =>
    match d.mem.askq.find? (fun x => x.2 == receiver) with
    | none => d
    | some (snd, r) =>
      if d.lzFree r < 64 then d
      else
        let d := d.fourCreditors snd r
        let c := d.creditOf snd r
        let d := d.setCredit snd r { c with held := c.held + 64, asked := c.asked - 64 }
        let d := { d with mem := { d.mem with askq := d.mem.askq.erase (snd, r) } }
        d.sendPort e snd r (d.mem.port.length + 1)

/-- CREDIT_IDLE_RETURN: credits unused for 4,096 ACLK cycles go back (R210). -/
def execCreditIdleReturn (sender receiver : Nat) (s : State) : Host.Outcome State Fault Refusal :=
  s.onDev fun e d =>
    let c := d.creditOf sender receiver
    let mhz := d.get (MGMT_SECTION.MHZ (sectOf sender))
    let waiting := d.mem.port.any (fun z => z.sender == sender && z.receiver == receiver)
    if 0 < c.held ∧ !waiting ∧ 4096 * 1000 ≤ (e.time - c.last) * mhz then
      d.setCredit sender receiver { c with held := 0 }
    else d

/-- An atomic at a scratchpad bank: the old value, its poison, the device after it (R87, R199). -/
def Dev.spAtom (d : Dev) (core : Nat) (a : AtomReq) : Nat × Bool × Dev :=
  let o := (a.off - spBase) % spStride
  let d := d.spCheck core o a.size
  let old := leOf (d.spRead core o a.size)
  let bad := d.anyPoison a.off a.size
  let new := atomApply a.op a.size a.signed old (a.b.toNat % 2 ^ (8 * a.size)) (a.c.toNat % 2 ^ (8 * a.size))
  (old, bad, d.spWrite core o (leBytes a.size new) bad)

/-- Atomics one after another: the old values in order (R54). -/
def Dev.spAtoms (d : Dev) (core : Nat) : List AtomReq → List (Nat × Bool) × Dev
  | [] => ([], d)
  | a :: t =>
    let r := d.spAtom core a
    let rest := Dev.spAtoms r.2.2 core t
    ((r.1, r.2.1) :: rest.1, rest.2)

/-- An entry of a landing zone is performed at its bank. -/
def Dev.lzPerform (d : Dev) (z : LzEntry) : Dev :=
  let d := (runs 64 z.bytes).foldl (fun d r => d.spWrite z.receiver ((r.1 - spBase) % spStride) r.2 false) d
  let r := d.spAtoms z.receiver z.atoms
  if z.returns then
    r.2.answerGroup z.gid (.lz z.id) (fun k n => let v := r.1.getD k (0, false); (leBytes n v.1, v.2))
  else r.2

/-- LANDING_ZONE_WRITE: the entry at a place in a landing zone is performed, unless an earlier one of its sender waits
(R212); its slot frees. In a clock switch of the receiver's section it waits (R20). -/
def execLandingZoneWrite (core pos : Nat) (s : State) : Host.Outcome State Fault Refusal :=
  s.onDev fun _ d =>
    let mine := d.mem.lz.filter (fun z => z.receiver == core)
    match mine[pos]? with
    | none => d
    | some z =>
      if (mine.take pos).any (fun y => y.sender == z.sender) || d.issueStopped (sectOf core) then d
      else
        let d := { d with mem := { d.mem with lz := d.mem.lz.filter (fun y => y.id != z.id) } }
        d.lzPerform z

end Sys2Proof.Machine
end

