-- ==== Sys2Proof/Machine/Lsu.lean ====
section
/-! DEFINITION. Loads, stores, prefetches, atomics and fences (R52-R57, R81-R91, R263-R267, R540). -/

namespace Sys2Proof.Machine

/-! Pieces. -/

/-- A piece of an access: the lane, its address, the first byte within the lane's access, its bytes. -/
structure Piece where
  lane : Nat
  addr : Nat
  at' : Nat
  n : Nat
deriving DecidableEq, Repr, Inhabited

/-- The pieces of an access of some bytes as (first byte, count): one where it is naturally aligned, two halves at 16
bytes, else its intersections with aligned 4-byte words (R85, R86). -/
def piecesOf (a size : Nat) : List (Nat × Nat) :=
  if a % size = 0 then (if size = 16 then [(0, 8), (8, 8)] else [(0, size)])
  else
    let first := a / 4
    let last := (a + size - 1) / 4
    (List.range (last - first + 1)).map (fun k =>
      let lo := max a ((first + k) * 4)
      let hi := min (a + size) ((first + k + 1) * 4)
      (lo - a, hi - lo))

/-- The pieces of the executing lanes. -/
def lanePieces (em size : Nat) (addr : Nat → Nat) : List Piece :=
  (lanesOf em).flatMap (fun l => (piecesOf (addr l) size).map (fun p => ⟨l, (addr l + p.1) % 2 ^ 64, p.1, p.2⟩))

/-- The address of a lane: the pair A, plus B, plus IMM32 in the 128-bit form (R82). -/
def Issue.laneAddr (i : Issue) (withB : Bool) (lane : Nat) : Nat :=
  let a := BitVec.ofNat 64 (i.x.rdN i.w.imm 2 i.w.a.toNat lane)
  let b := if withB then (BitVec.ofNat 32 (i.x.rd i.w.imm i.w.b.toNat lane)).signExtend 64 else 0
  let k := if i.w.x then i.w.imm.signExtend 64 else 0
  (a + b + k).toNat

/-! Modifiers (R81). -/

/-- SIZE in bytes. -/
def AWord.size (w : AWord) : Nat := 2 ^ bits w.mod.toNat 0 3
/-- SPACE. -/
def AWord.phys (w : AWord) : Bool := w.mod.getLsbD 3
/-- SCOPE. -/
def AWord.scope (w : AWord) : Nat := bits w.mod.toNat 4 3
/-- ORD. -/
def AWord.ord (w : AWord) : Bool := w.mod.getLsbD 7
/-- Registers of a datum of SIZE. -/
def AWord.sizeRegs (w : AWord) : Nat := (AWord.size w + 3) / 4

/-- The MOD of a MEM instruction is legal (R81, R90). -/
def AWord.memLegal (w : AWord) : Bool :=
  decide (bits w.mod.toNat 0 3 ≤ 4) && decide (AWord.scope w ≤ 5) && (AWord.ord w == (AWord.scope w != 0))

/-! Checks. -/

/-- A piece that passed: its place and its class. -/
abbrev Target := Piece × Place × Nat

/-- SEM_ACCESS, MISALIGNED_ATOMIC, ATOMIC_UNSUPPORTED, POISON_CONSUMED (R98). -/
def xSem : Nat := 0x0D
def xMisaligned : Nat := 0x0B
def xAtomic : Nat := 0x0C
def xPoison : Nat := 0x0E

/-- A place in a Sesame, local or of a peer (R21, R88). -/
def Place.isSes : Place → Bool
  | .ses _ => true
  | .fab _ o => decide (sesBase ≤ o) && decide (o < sesEnd)
  | _ => false

/-- The faults of the lanes: the first of each lane, as lane, code and address. -/
def firstFaults : List (Piece × Chk) → List (Nat × Nat × Nat)
  | [] => []
  | (p, .exc c) :: t => (p.lane, c, p.addr) :: (firstFaults t).filter (fun x => x.1 != p.lane)
  | _ :: t => firstFaults t

/-- The checks of every piece; `pre` gives a code for an address the instruction does not accept, `extra` for a place (R83,
R84, R87, R88). -/
def Dev.checkPieces (d : Dev) (i : Issue) (phys : Bool) (kinds : Nat) (ps : List Piece) (extra : Piece → Place → Option Nat)
    (pre : Piece → Option Nat) : List (Piece × Chk) :=
  ps.map (fun p =>
    match pre p with
    | some c => (p, .exc c)
    | none =>
    match d.checkKernel i.g.core i.launch phys p.addr p.n kinds with
    | .ok pl cls => (p, match extra p pl with | some c => .exc c | none => .ok pl cls)
    | .miss va => (p, if (i.x.denied.map (fun x => x.1)) = some (va / 4096 * 4096) then .exc xTranslation else .miss va)
    | c => (p, c))

/-- A lookup of a core's range cache is counted where it misses, and updates both caches (R329, R524). -/
def Dev.touchCore (d : Dev) (i : Issue) (va : Nat) : Dev :=
  let hit := (d.rt.caches.look i.g.core).any (fun r => r.has i.launch.asid va)
  let d := if hit then d else d.pmc i.g.core (some i.g.quarter) i.launch.part 14 1
  d.rtTouch i.g.core i.launch.asid va

/-- The address that a group waits on: one in the lowest missing page (R335). -/
def lowestMiss (rs : List (Piece × Chk)) : Option Nat :=
  (rs.filterMap (fun r => match r.2 with | .miss va => some va | _ => none)).foldl (fun (b : Option Nat) va =>
    match b with | some x => if va / 4096 < x / 4096 then some va else some x | none => some va) none

/-- The address unit checks every piece of every lane, then the access is performed (R84): a miss parks the group on its lowest missing
page (R335), a fault is reported for its lowest lane (R102). Once a page has been refused the instruction ends with its fault, whatever
other page still misses (R336). DEDUCED: until then a miss comes before a fault of another lane, so that the lowest faulting lane is known
(log entry 89). -/
def Dev.access (e : Env) (d : Dev) (i : Issue) (phys : Bool) (kinds : Nat) (ps : List Piece) (extra : Piece → Place → Option Nat)
    (body : Dev → List Target → Issued) (pre : Piece → Option Nat := fun _ => none) : Issued :=
  let d := if phys then d else ps.foldl (fun d p => d.rtCheck i.g.core i.launch.asid p.addr) d
  let rs := d.checkPieces i phys kinds ps extra pre
  let refused := i.x.denied.isSome && rs.any (fun r => r.2 == .exc xTranslation)
  match if refused then none else lowestMiss rs with
  | some va =>
    match d.parkTranslate e i.g i.x i.launch.asid va kinds with
    | some d => .park d
    | none => .wait
  | none =>
    match firstFaults rs with
    | (l, c, a) :: t =>
      let same := (l, c, a) :: t.filter (fun x => x.2.1 == c)
      .fault { code := c, lanes := maskOf (same.map (fun x => x.1)), addr := a,
               reqId := if c = xTranslation then (i.x.denied.map (fun x => x.2)).getD 0 else 0 }
    | [] =>
      let ts := rs.filterMap (fun r => match r.2 with | .ok pl cls => some (r.1, pl, cls) | _ => none)
      let d := if phys then d else ps.foldl (fun d p => d.touchCore i p.addr) d
      body d ts

/-! What holds an access back. -/

/-- A piece of the core's own scratchpad meets the scoreboard (R215). -/
def Dev.boardHolds (d : Dev) (core : Nat) (store : Bool) (ts : List Target) : Bool :=
  ts.any (fun t => match t.2.1 with
    | .sp c o => c == core && d.sbOverlaps core o t.1.n store
    | _ => false)

/-- An earlier store or atomic of the group to a 64-byte span is not acknowledged; and before a store or atomic at a peer, neither is an
earlier load answered, which would else see it (R263). Writes through a host window are performed in order, and a read of one takes
those before it along. -/
def Dev.spanHeld (d : Dev) (g : Gid) (store : Bool) (t : Target) : Bool :=
  match t.2.1 with
  | .sp c o =>
    let span := spAddr c o / 64
    let hits := fun (z : LzEntry) => z.gid == g && z.receiver == c &&
      (z.bytes.any (fun b => b.1 / 64 == span) || z.atoms.any (fun a => a.off / 64 == span))
    d.mem.lz.any hits || d.mem.port.any hits
  | .fab id o =>
    d.outstanding.any (fun x => x.1 == id && x.2.owner.isOf g && ((store && x.2.pkt.type == tRead) || (!x.2.acked && x.2.pkt.type != tRead)) &&
      decide (x.2.pkt.addr / 64 ≤ (o + t.1.n - 1) / 64) && decide (o / 64 ≤ (x.2.pkt.addr + max 1 x.2.pkt.length - 1) / 64))
  | _ => false

/-- Rows of a bank requested beyond the first (R53): the extra cycles of the fullest bank. -/
def extraPasses (ts : List Target) : Nat :=
  let rows := (ts.filterMap (fun t => match t.2.1 with | .sp c o => some (c * 65536 + bankOf o * 256 + rowOf o) | _ => none)).eraseDups
  let banks := (rows.map (fun r => r / 256)).eraseDups
  (banks.map (fun b => (rows.filter (fun r => r / 256 == b)).length)).foldl max 1 - 1

/-- Counts the extra scratchpad cycles for the section's owner (R524). -/
def Dev.countPasses (d : Dev) (core part : Nat) (ts : List Target) : Dev :=
  let n := extraPasses ts
  let d := d.moved part (ts.map (fun t => t.1.n)).sum
  if n = 0 then d else d.pmc core none (d.sectOwner (sectOf core)) 8 n

/-! Loads. -/

/-- Takes fresh identities. -/
def Dev.newId (d : Dev) : Nat × Dev := (d.core.nextId, { d with core := { d.core with nextId := d.core.nextId + 1 } })

/-- A request of a core joins the queues of the slices. -/
def Dev.pushL2 (d : Dev) (i : Issue) (id sector lc : Nat) (op : L2Op) (returns : Bool) : Dev :=
  let r : L2Req := { id := id, returns := returns, src := .core i.g.core, gid := some i.g, part := i.launch.part, sector := sector, op := op, lc := lc }
  { d with mem := { d.mem with l2q := d.mem.l2q ++ [r] } }

/-- The HBM sectors of the targets with their classes, in the order of the lanes. -/
def sectorsOf (ts : List Target) : List (Nat × Nat) :=
  let l := ts.filterMap (fun t => match t.2.1 with | .hbm a => some (a / 32, t.2.2) | _ => none)
  l.foldl (fun acc x => if acc.any (fun y => y.1 == x.1) then acc else acc ++ [x]) []

/-- The pieces in a sector, as what an access binds: place in the access, offset in the sector, bytes. -/
def bindingsIn (sector : Nat) (ts : List Target) : List (Nat × Nat × Nat) :=
  ts.filterMap (fun t => match t.2.1 with
    | .hbm a => if a / 32 = sector then some (t.1.lane * 16 + t.1.at', a % 32, t.1.n) else none
    | _ => none)

/-- A load takes one sector of HBM: through the L1, or around it where it is an acquire wider than block scope (R90). -/
def Dev.loadSector (e : Env) (d : Dev) (i : Issue) (around : Bool) (ts : List Target) (a : Access) (s : Nat × Nat) : Dev × Access :=
  let bs := bindingsIn s.1 ts
  if around then
    let r := d.newId
    (r.2.pushL2 i r.1 s.1 s.2 .read true, { a with waits := a.waits ++ [(.l2 r.1, bs)] })
  else
    let r := d.l1Load e i.g i.launch.part s.1 s.2 i.w.l1Bad
    match r.2 with
    | .hit v => (r.1, bs.foldl (fun a p => a.bind p.1 (sectorBytes v p.2.1 p.2.2)) a)
    | .wait id seen => (r.1, { a with waits := a.waits ++ [(.fill id seen, bs)] })

/-- The port of a host window accepts the writes that wait for it, in order: they are performed (R22, R259). -/
def Dev.hostAccept (d : Dev) (n : Nat) : Dev :=
  let mine := d.mem.hostq.filter (fun w => w.port == n)
  if mine.isEmpty then d
  else
    mine.foldl (fun d w =>
      match w.atom with
      | none => d.hostWrite n w.bus w.bytes
      | some a =>
        let old := leOf (d.hostRead n w.bus a.size)
        d.hostWrite n w.bus (leBytes a.size (atomApply a.op a.size a.signed old (a.b.toNat % 2 ^ (8 * a.size)) (a.c.toNat % 2 ^ (8 * a.size)))))
      { d with mem := { d.mem with hostq := d.mem.hostq.filter (fun w => w.port != n) } }

/-- A write of a core waits for a port. -/
def Dev.hostPush (d : Dev) (i : Issue) (n bus : Nat) (bs : List Byte) (atom : Option AtomReq) : Dev :=
  let w : HostStore := { port := n, core := i.g.core, part := i.launch.part, bus := bus, bytes := bs, atom := atom }
  { d with mem := { d.mem with hostq := d.mem.hostq ++ [w] } }

/-- A load takes one piece of another place: a scratchpad or a host window at once, a scratchpad of a section in a clock switch when that
has ended (R20), a Sesame word or a fabric address by a request (R88, R228, R286, R410). -/
def Dev.loadPiece (e : Env) (d : Dev) (i : Issue) (a : Access) (t : Target) : Dev × Access :=
  let p := t.1
  let key := p.lane * 16 + p.at'
  match t.2.1 with
  | .hbm _ | .unmapped => (d, a)
  | .sp c o =>
    if d.issueStopped (sectOf c) then (d, { a with waits := a.waits ++ [(.remote c, [(key, o, p.n)])] }) else
    let d := d.spCheck c o p.n
    let a := a.bind key (d.spRead c o p.n)
    (d, if d.anyPoison (spAddr c o) p.n then { a with poison := a.poison ||| BitVec.ofNat 32 (2 ^ p.lane) } else a)
  | .host n x =>
    let d := d.hostAccept n
    (d, { a.bind key (d.hostRead n (d.busAddr n x) p.n) with host := a.host ++ [(p.lane, n)] })
  | .ses w =>
    let r := d.newId
    let o : SesOp :=
      { id := r.1, src := .group i.g i.x.launch a.id, kind := .load, addr := w, n := 0, scope := 0, pd := 0, pc := i.x.pc,
        timeout := 0, deadline := none, lanes := [], mask := 0, check := false, held := false, again := false }
    ({ r.2 with ses := { r.2.ses with queue := r.2.ses.queue ++ [o] } }, { a with waits := a.waits ++ [(.sesame r.1, [(key, 0, 8)])] })
  | .fab id o =>
    if d.peerDead id then (d, { a with poison := a.poison ||| BitVec.ofNat 32 (2 ^ p.lane) })
    else
      let r := d.newId
      let word := decide (sesBase ≤ o) && decide (o < sesEnd)
      let q := r.2.packet id tRead t.2.2 (r.2.tagOf i.launch.kernel i.launch.part) 0 (if word then p.n else 32) (if word then o else o / 32 * 32) []
      (r.2.fabSend e id (.load i.g r.1) none q, { a with waits := a.waits ++ [(.fabric r.1, [(key, if word then 0 else o % 32, p.n)])] })

/-- The load of some targets is performed: its data is bound, or awaited. -/
def Dev.loadAll (e : Env) (d : Dev) (i : Issue) (around : Bool) (ts : List Target) (a : Access) : Dev × Access :=
  let r := (sectorsOf ts).foldl (fun r s => r.1.loadSector e i around ts r.2 s) (d, a)
  ts.foldl (fun r t => r.1.loadPiece e i r.2 t) r

/-- The group has a miss outstanding (R230). -/
def Group.missing (x : Group) : Bool :=
  x.accs.any (fun a => a.waits.any (fun w => match w.1 with | .fill _ _ => true | _ => false))

/-- The group with one more access in flight; an acquire holds it until the answer (R90, R267). -/
def Issue.withAccess (i : Issue) (a : Access) : Group :=
  { i.past with accs := i.x.accs ++ [a], st := if a.acq = 0 then .run else .acquire a.id }

/-- A place LD or LDS does not accept (R86, R88). -/
def loadExtra (size : Nat) (p : Piece) (pl : Place) : Option Nat :=
  if pl.isSes && !(size == 8 && p.n == 8) then some xSem else none

/-- LD and LDS. -/
def Dev.load (e : Env) (d : Dev) (g : Gid) (w : AWord) (op : Nat) (signed : Bool) : Dev :=
  let size := AWord.size w
  let acq := if AWord.ord w then AWord.scope w else 0
  let around := decide (3 ≤ acq)
  d.issue e g w { cls := 7, op := op } (AWord.memLegal w) [dst w.d (AWord.sizeRegs w), src w.a 2, src w.b] fun i =>
    if i.em = 0 then i.finish d i.x
    else
      d.access e i (AWord.phys w) kRead (lanePieces i.em size (i.laneAddr true)) (loadExtra size) fun d ts =>
        if d.boardHolds g.core false ts then .wait 9
        else if ts.any (d.spanHeld g false) then .wait
        else if !around && i.x.missing && (sectorsOf ts).any (fun s => d.l1Misses g.core s.1 w.l1Bad) then .wait
        else
          let r := (d.countPasses g.core i.launch.part ts).newId
          let a : Access :=
            { id := r.1, pc := i.x.pc, kind := if signed then .signExt else .zeroExt, size := size, d := w.d.toNat,
              lanes := (lanesOf i.em).map (fun l => (l, i.laneAddr true l)), bytes := [], waits := [], poison := 0, acq := acq, host := [] }
          let q := r.2.loadAll e i around ts a
          .done (q.1.setGrp g (i.withAccess q.2))

/-- LD (R82, R85, R86, R90). -/
def execLd (g : Gid) (w : AWord) (s : State) : Host.Outcome State Fault Refusal := s.onDev fun e d => d.load e g w 0 false

/-- LDS (R82). -/
def execLds (g : Gid) (w : AWord) (s : State) : Host.Outcome State Fault Refusal := s.onDev fun e d => d.load e g w 1 true

/-- PREF: the touched sectors are requested into the L1; other places have no L1 copy (R82, R228). -/
def execPref (g : Gid) (w : AWord) (s : State) : Host.Outcome State Fault Refusal :=
  s.onDev fun e d =>
    let legal := AWord.memLegal w && !AWord.ord w
    d.issue e g w { cls := 7, op := 3 } legal [vzero w.d, src w.a 2, src w.b] fun i =>
      if i.em = 0 then i.finish d i.x
      else
        d.access e i (AWord.phys w) kRead (lanePieces i.em (AWord.size w) (i.laneAddr true))
          (fun _ pl => if pl.isSes then some xSem else none) fun d ts =>
          let ss := sectorsOf ts
          if i.x.missing && ss.any (fun s => d.l1Misses g.core s.1 w.l1Bad) then .wait
          else i.finish (ss.foldl (fun d s => (d.l1Load e g i.launch.part s.1 s.2 w.l1Bad).1) d) i.x

/-! Answers. -/

/-- The value of an answered access in a lane. -/
def Access.value (a : Access) (lane : Nat) : Nat :=
  let v := leOf ((List.range a.size).map (fun k => a.bytes.look (16 * lane + k)))
  match a.kind with
  | .signExt => if a.size < 4 then ofSigned 32 (toSigned (8 * a.size) v) else v
  | _ => v

/-- The registers of a group with an answered access written, lane by lane: where the destination is a u register the highest lane's value
stands. DESIGN CHOICE (R74; log entry 103). -/
def Access.writeBack (a : Access) (x : Group) : Group :=
  a.lanes.foldl (fun x l => x.wrN ((a.size + 3) / 4) a.d l.1 (a.value l.1)) x

/-- ACCESS_RESPONSE: an access whose data is all bound is answered. Poisoned data halts the group where it stands (R540);
an acquiring access runs the acquire side once no older access is unanswered (R267). -/
def execAccessResponse (g : Gid) (id : Nat) (s : State) : Host.Outcome State Fault Refusal :=
  s.onDev fun e d =>
    let x := d.grp g
    match x.accs.find? (fun a => a.id == id) with
    | none => d
    | some a =>
      let oldest := (x.accs.head?.map (fun y => y.id)) == some id
      if !x.live || !a.waits.isEmpty || (a.acq != 0 && !oldest) then d
      else
        let y := { x with accs := x.accs.filter (fun b => b.id != id) }
        let bad := a.poison.toNat
        if bad ≠ 0 then
          if x.st = .halted ∨ x.st = .stopped then d.setGrp g y
          else
            let l := lowLane bad
            let addr := ((a.lanes.find? (fun p => p.1 == l)).getD (0, 0)).2
            d.raise e g y { code := xPoison, lanes := bad, addr := addr, tilePc := a.pc.toNat }
        else
          let y := a.writeBack y
          if a.acq = 0 then d.setGrp g y
          else
            let y := if y.st = .acquire id then { y with st := .run } else y
            (d.setGrp g y).acquireSide g.core a.acq

/-! Stores. -/

/-- Key of a byte in the map of a store: local addresses, host windows, fabric addresses. -/
def Place.key : Place → Nat
  | .hbm a => a
  | .sp c o => spAddr c o
  | .ses a => a
  | .host n x => (2 ^ 20 + n) * 2 ^ 64 + x
  | .fab id o => (2 * 2 ^ 20 + id) * 2 ^ 64 + o
  | .unmapped => 0

/-- The bytes a store leaves, by place: the highest lane's value stands (R54). -/
def storeBytes (ts : List Target) (data : Nat → Nat) : Sparse Byte :=
  ts.foldl (fun m t =>
    (List.range t.1.n).foldl (fun m k =>
      Sparse.put m (t.2.1.key + k) (BitVec.ofNat 8 (bits (data t.1.lane) (8 * (t.1.at' + k)) 8))) m) []

/-- Bytes of HBM: one write per sector, which updates the copies of the core at once (R229, R231, R261). -/
def Dev.storeHbm (d : Dev) (i : Issue) (bs : List (Nat × Byte)) : Dev :=
  (blocksOf 32 bs).foldl (fun d b =>
    let l := b.2.map (fun p => (p.1 % 32, p.2))
    let r := d.newId
    (r.2.pushL2 i r.1 b.1 1 (.write l) false).l1Store i.g b.1 l) d

/-- Bytes of scratchpads: at the banks of the section, else through the landing zone (R209). -/
def Dev.storeSp (e : Env) (d : Dev) (i : Issue) (bs : List (Nat × Byte)) : Dev :=
  (blocksOf 64 bs).foldl (fun d b =>
    let core := (b.1 * 64 - spBase) / spStride
    if sectOf core = sectOf i.g.core then
      (runs 64 b.2).foldl (fun d r => d.spWrite core ((r.1 - spBase) % spStride) r.2 false) d
    else
      let r := d.newId
      r.2.sendSpan e { id := r.1, gid := i.g, part := i.launch.part, sender := i.g.core, receiver := core, bytes := b.2,
                       atoms := [], returns := false }) d

/-- Bytes of a peer: one WRITE per run, dropped and counted where the peer is dead (R286, R410). -/
def Dev.storeFab (e : Env) (d : Dev) (i : Issue) (cls : Nat) (bs : List (Nat × Byte)) : Dev :=
  (runs (2 ^ 64) bs).foldl (fun d r =>
    let id := r.1 / 2 ^ 64 % 2 ^ 20
    if d.peerDead id then d.fabLoss i.g i.x.block 1 true
    else
      let q := d.packet id tWrite cls (d.tagOf i.launch.kernel i.launch.part) 0 r.2.length (r.1 % 2 ^ 64) r.2
      d.fabSend e id (.store [(i.g, i.x.block)]) (some i.g.core) q) d

/-- Bytes of the hosts' memory through the windows: they wait for the port (R22). -/
def Dev.storeHost (d : Dev) (i : Issue) (bs : List (Nat × Byte)) : Dev :=
  (runs (2 ^ 64) bs).foldl (fun d r =>
    let n := r.1 / 2 ^ 64 % 2 ^ 20
    d.hostPush i n (d.busAddr n (r.1 % 2 ^ 64)) r.2 none) d

/-- The issue with the fabric status word its own lost stores have left (R286, R287). -/
def Issue.lossKept (i : Issue) (d : Dev) : Issue := { i with x := { i.x with fabStat := (d.grp i.g).fabStat } }

/-- The bytes of a store go to their homes. DESIGN CHOICE: the pieces of a lane's misaligned or 16-byte store that lie in one sector of
HBM, or in one 64-byte span of a scratchpad, are performed together (R85, R86; log entry 102). -/
def Dev.storeAll (e : Env) (d : Dev) (i : Issue) (bs : List (Nat × Byte)) : Dev :=
  let loc := bs.filter (fun b => b.1 < 2 ^ 64)
  let d := d.storeHbm i (loc.filter (fun b => b.1 < hbmEnd))
  let d := d.storeSp e i (loc.filter (fun b => hbmEnd ≤ b.1))
  let d := d.storeHost i (bs.filter (fun b => 2 ^ 64 ≤ b.1 ∧ b.1 < 2 * 2 ^ 84))
  d.storeFab e i 1 (bs.filter (fun b => 2 * 2 ^ 84 ≤ b.1))

/-- ST (R82, R85, R86, R90). -/
def execSt (g : Gid) (w : AWord) (s : State) : Host.Outcome State Fault Refusal :=
  s.onDev fun e d =>
    let size := AWord.size w
    let n := AWord.sizeRegs w
    d.issue e g w { cls := 7, op := 2 } (AWord.memLegal w) [vzero w.d, src w.a 2, src w.b, src w.c n] fun i =>
      if i.em = 0 then i.finish d i.x
      else if AWord.ord w && !d.releaseReady g i.x (AWord.scope w) then .wait 12
      else
        d.access e i (AWord.phys w) kWrite (lanePieces i.em size (i.laneAddr true)) (fun _ pl => if pl.isSes then some xSem else none)
          fun d ts =>
            if d.boardHolds g.core true ts then .wait 9
            else if ts.any (d.spanHeld g true) then .wait
            else
              let bs := storeBytes ts (fun l => i.x.rdN w.imm n w.c.toNat l)
              let d := (d.countPasses g.core i.launch.part ts).storeAll e i bs
              i.finish d (i.lossKept d).x

/-! Atomics. -/

/-- The operation of an ATOM (R87). -/
def AWord.atomOp (w : AWord) : Nat := bits w.ext.toNat 0 4
/-- Its ordering. -/
def AWord.atomOrd (w : AWord) : Nat := bits w.ext.toNat 4 2

/-- The fields of an ATOM are legal (R87). -/
def AWord.atomLegal (w : AWord) : Bool :=
  decide (w.ext.toNat < 64) && decide (AWord.atomOp w ≤ 9) && (AWord.size w == 4 || AWord.size w == 8) &&
  decide (AWord.scope w ≤ 5) && (AWord.atomOrd w == 0 || AWord.scope w != 0) &&
  (decide (AWord.atomOp w < 8) || AWord.size w == 4)

/-- What an ATOM does not accept: Sesame, and in a host window all but ADD, EXCH and CAS (R87, R88). -/
def atomExtra (op : Nat) (pl : Place) : Option Nat :=
  if pl.isSes then some xSem
  else
    match pl with
    | .host _ _ => if op = 0 ∨ op = 6 ∨ op = 7 then none else some xAtomic
    | _ => none

/-- The atomic of a lane at a local offset. -/
def Issue.atomReq (i : Issue) (lane off : Nat) : AtomReq :=
  let n := AWord.sizeRegs i.w
  { op := AWord.atomOp i.w, size := AWord.size i.w, off := off, signed := AWord.ord i.w,
    b := BitVec.ofNat 64 (i.x.rdN i.w.imm n i.w.b.toNat lane), c := BitVec.ofNat 64 (i.x.rdN i.w.imm n i.w.c.toNat lane), lane := lane }

/-- The atomic of one lane goes to its home; `a` records what its answer binds (R54, R87, R231). Atomics of other sections'
scratchpads are gathered by span and sent after (R210). -/
def Dev.atomLane (e : Env) (d : Dev) (i : Issue) (returns : Bool) (a : Access) (t : Target) : Dev × Access :=
  let p := t.1
  let size := AWord.size i.w
  let key := p.lane * 16
  match t.2.1 with
  | .hbm x =>
    let r := d.newId
    let d := (r.2.pushL2 i r.1 (x / 32) 1 (.atom (i.atomReq p.lane (x % 32))) returns).l1Drop i.g.core (x / 32)
    (d, { a with waits := a.waits ++ [(.l2 r.1, [(key, x % 32, size)])] })
  | .sp c o =>
    if sectOf c = sectOf i.g.core then
      let r := d.spAtom c (i.atomReq p.lane (spAddr c o))
      let a := a.bind key (leBytes size r.1)
      (r.2.2, if r.2.1 then { a with poison := a.poison ||| BitVec.ofNat 32 (2 ^ p.lane) } else a)
    else (d, a)
  | .host n x =>
    let bus := d.busAddr n x
    if !returns then (d.hostPush i n bus [] (some (i.atomReq p.lane 0)), a) else
    let d := d.hostAccept n
    let old := leOf (d.hostRead n bus size)
    let q := i.atomReq p.lane 0
    let new := atomApply q.op size q.signed old (q.b.toNat % 2 ^ (8 * size)) (q.c.toNat % 2 ^ (8 * size))
    let a := a.bind key (leBytes size old)
    (d.hostWrite n bus (leBytes size new), { a with host := a.host ++ [(p.lane, n)] })
  | .fab id o =>
    if d.peerDead id then
      if returns then (d, { a with poison := a.poison ||| BitVec.ofNat 32 (2 ^ p.lane) }) else (d.fabLoss i.g i.x.block 1 true, a)
    else
      let r := d.newId
      let q := i.atomReq p.lane 0
      let sub := q.op + 16 * b2n q.signed + 32 * b2n (size == 8)
      let k := r.2.packet id tAtomic t.2.2 (r.2.tagOf i.launch.kernel i.launch.part) sub 16 o (beBytes 8 q.b.toNat ++ beBytes 8 q.c.toNat)
      (r.2.fabSend e id (if returns then .load i.g r.1 else .store [(i.g, i.x.block)]) none k,
        { a with waits := a.waits ++ [(.fabric r.1, [(key, 0, size)])] })
  | .ses _ | .unmapped => (d, a)

/-- The atomics for other sections, as (span, lane, address). -/
def remoteAtoms (core : Nat) (ts : List Target) : List (Nat × Nat × Nat) :=
  ts.filterMap (fun t => match t.2.1 with
    | .sp c o => if sectOf c = sectOf core then none else some (spAddr c o / 64, t.1.lane, spAddr c o)
    | _ => none)

/-- The atomics for one span leave together, in lane order. -/
def Dev.sendAtoms (e : Env) (d : Dev) (i : Issue) (returns : Bool) (l : List (Nat × Nat × Nat)) (a : Access) (span : Nat) : Dev × Access :=
  let mine := l.filter (fun x => x.1 == span)
  let r := d.newId
  let z : LzEntry :=
    { id := r.1, gid := i.g, part := i.launch.part, sender := i.g.core, receiver := (span * 64 - spBase) / spStride, bytes := [],
      atoms := mine.map (fun x => i.atomReq x.2.1 x.2.2), returns := returns }
  let bs := (mine.zipIdx).map (fun x => (x.1.2.1 * 16, x.2, AWord.size i.w))
  (r.2.sendSpan e z, { a with waits := a.waits ++ [(.lz r.1, bs)] })

/-- ATOM (R87, R88, R90). DESIGN CHOICE: a misaligned one at a Sesame address raises MISALIGNED_ATOMIC, as its alignment is checked before
its place (log entry 104). -/
def execAtom (g : Gid) (w : AWord) (s : State) : Host.Outcome State Fault Refusal :=
  s.onDev fun e d =>
    let size := AWord.size w
    let n := AWord.sizeRegs w
    let ops := [dst w.d n, src w.a 2, src w.b n] ++ (if AWord.atomOp w = 7 then [src w.c n] else [])
    let acq := if AWord.atomOrd w % 2 = 1 then AWord.scope w else 0
    let rel := decide (2 ≤ AWord.atomOrd w)
    d.issue e g w { cls := 8, op := 0, form := .long, ext := true } (AWord.atomLegal w) ops fun i =>
      let addr := i.laneAddr false
      let pre := fun (p : Piece) => if addr p.lane % size = 0 then none else some xMisaligned
      if i.em = 0 then i.finish d i.x
      else if rel && !d.releaseReady g i.x (AWord.scope w) then .wait 12
      else
        d.access e i (AWord.phys w) (kRead + kWrite) (lanePieces i.em size addr) (fun _ pl => atomExtra (AWord.atomOp w) pl)
          (pre := pre) fun d ts =>
          if d.boardHolds g.core true ts then .wait 9
          else if ts.any (d.spanHeld g true) then .wait
          else
            let returns := w.d.toNat != vZ || acq != 0
            let r := (d.countPasses g.core i.launch.part ts).newId
            let a : Access :=
              { id := r.1, pc := i.x.pc, kind := .atom, size := size, d := w.d.toNat,
                lanes := (lanesOf i.em).map (fun l => (l, addr l)), bytes := [], waits := [], poison := 0, acq := acq, host := [] }
            let q := ts.foldl (fun q t => q.1.atomLane e i returns q.2 t) (r.2, a)
            let rem := remoteAtoms g.core ts
            let q := ((rem.map (fun x => x.1)).eraseDups).foldl (fun q k => q.1.sendAtoms e i returns rem q.2 k) q
            let i := i.lossKept q.1
            if returns then .done (q.1.setGrp g (i.withAccess q.2)) else i.finish q.1 i.x

/-! Fences. -/

/-- A fence: its release and acquire sides (R89, R266, R267, R284, R287). -/
def Dev.fence (e : Env) (d : Dev) (g : Gid) (w : AWord) (op : Nat) (rel acq : Bool) : Dev :=
  let scope := AWord.scope w
  let fab := scope == 5
  let legal := bits w.mod.toNat 0 4 == 0 && !w.mod.getLsbD 7 && decide (1 ≤ scope) && decide (scope ≤ 5)
  d.issue e g w { cls := 9, op := op, form := .short } legal
    ([vzero w.a, vzero w.b, vzero w.c] ++ (if fab then [udst w.d] else [])) fun i =>
    if i.em = 0 then i.finish d i.x
    else if rel && !d.releaseReady g i.x scope then .wait 12
    else if acq && !i.x.accs.isEmpty then .wait 12
    else
      let d := if acq then d.acquireSide g.core scope else d
      let x :=
        if fab && w.d.toNat != vZ then { i.x.wr w.d.toNat 0 i.x.fabStat.toNat with fabStat := 0 } else i.x
      i.finish d x

/-- FENCE.LD. -/
def execFenceLd (g : Gid) (w : AWord) (s : State) : Host.Outcome State Fault Refusal := s.onDev fun e d => d.fence e g w 0 false true

/-- FENCE.ST. -/
def execFenceSt (g : Gid) (w : AWord) (s : State) : Host.Outcome State Fault Refusal := s.onDev fun e d => d.fence e g w 1 true false

/-- FENCE.ALL. -/
def execFenceAll (g : Gid) (w : AWord) (s : State) : Host.Outcome State Fault Refusal := s.onDev fun e d => d.fence e g w 2 true true

end Sys2Proof.Machine
end

