-- ==== Sys2Proof/Machine/Matrix.lean ====
section
/-! DEFINITION. The four MX instructions (R92, R93, R120-R125), the completion of tiles and drains (R104, R115, R123, R131,
R136, R173), the current states of the arrays (R133-R135) and poison reports (R99). -/

namespace Sys2Proof.Machine

/-! The instructions. -/

/-- ARRAY_ABSENT, MX_OPERAND. -/
def xNoArray : Nat := 0x18
def xMx : Nat := 0x19

/-- MX words: MOD[52] alone may be set, and only where it has a meaning (R92). -/
def AWord.mxLegal (w : AWord) (has52 : Bool) : Bool := if has52 then w.mod.toNat < 2 else w.mod == 0

/-- Issue of an MX instruction on a core with its array enabled, for a kernel that uses it; that of a failed core is absent (R93, R128,
R219). The table of R71 gives these instructions the 64-bit form, so an operand IMM, which R92 admits, has no encoding. DEDUCED. -/
def Dev.mx (e : Env) (d : Dev) (g : Gid) (w : AWord) (op : Nat) (has52 : Bool) (ops : List Opnd) (body : Issue → Issued) : Dev :=
  d.issue e g w { cls := 10, op := op, form := .short } (AWord.mxLegal w has52) ops fun i =>
    if i.em = 0 then i.finish d i.x
    else if !bit e.chip.arrays g.core || d.get (SP_STATUS.FAILED g.core) == 1 || !i.launch.array then i.fault xNoArray
    else body i

/-- The issuing agent of an instruction. -/
def Issue.agent (i : Issue) : Agent := { kernel := i.launch.kernel, part := i.launch.part, dma := false, march := false }

/-- A span of the core's own scratchpad is not reached by the kernel (R201, R202). -/
def Issue.spanFault (i : Issue) (d : Dev) (o n : Nat) : Option Exc :=
  if d.spAdmits i.agent i.g.core o n then none else some { code := xAccess, lanes := i.em, addr := spAddr i.g.core o }

/-- Appends to the queue of the core's array and runs its head. -/
def Dev.enqueue (d : Dev) (c : Nat) (q : ArrCmd) (f : Arr → Arr) : Dev :=
  let a := f (d.arr c)
  (d.setArr c { a with queue := a.queue ++ [q] }).pumpAll c

/-- MX.MODE (R120, R121). -/
def execMxMode (g : Gid) (w : AWord) (s : State) : Host.Outcome State Fault Refusal :=
  s.onDev fun e d => d.mx e g w 0 false [usrc w.a] fun i =>
    let m := i.x.rd w.imm w.a.toNat 0
    if !mwLegal m then i.fault xMx
    else if 32 ≤ (d.arr g.core).queue.length then .wait
    else i.finish (d.enqueue g.core (.mode m) (fun a => { a with modeIssue := some m })) i.x

/-- The shape checks of MX.TILE (R121). -/
def tileLegal (m a b c : Nat) : Bool :=
  let s := shapeOf m
  decide (1 ≤ c) && decide (c ≤ maxRecords m) && a % 128 == 0 && b % 128 == 0 &&
  decide (a + c * s.wRec ≤ spSize) && decide (b + c * s.aRec ≤ spSize) && (mwBroad m || decide (c * s.aRec ≤ 262144))

/-- MX.TILE (R93, R114, R121, R124, R125). -/
def execMxTile (g : Gid) (w : AWord) (s : State) : Host.Outcome State Fault Refusal :=
  s.onDev fun e d => d.mx e g w 1 true [usrc w.a, usrc w.b, usrc w.c, udst w.d] fun i =>
    let arr := d.arr g.core
    let a := i.x.rd w.imm w.a.toNat 0
    let b := i.x.rd w.imm w.b.toNat 0
    let c := i.x.rd w.imm w.c.toNat 0
    match arr.modeIssue with
    | none => i.fault xMx
    | some m =>
      let sh := shapeOf m
      if !tileLegal m a b c then i.fault xMx
      else
        match i.spanFault d a (c * sh.wRec), i.spanFault d b (c * sh.aRec) with
        | some x, _ => .fault x
        | none, some x => .fault x
        | none, none =>
          if 32 ≤ arr.queue.length then .wait
          else if d.sbOverlaps g.core a (c * sh.wRec) false || d.sbOverlaps g.core b (c * sh.aRec) false then .wait 9
          else
            let tag := arr.issued % 65536
            let q : ArrCmd := .tile g i.x.block i.x.pc tag a b c (w.mod.getLsbD 0)
            let d := if arr.hasTile then d else d.arrWake g.core
            let d := d.enqueue g.core q (fun a => { a with issued := a.issued + 1 })
            let d := d.trace e 7 g i.launch.part (tag + 65536 * mwW m + 1048576 * b2n (mwBroad m))
            i.finish d (i.x.wr w.d.toNat 0 tag)

/-- The output format suits the accumulators; reserved fields are 0 (R123). -/
def drainLegal (m desc : Nat) : Bool :=
  let f := bits desc 0 4
  bits desc 4 12 == 0 && (if fmtInt (mwW m) then f == 5 || f == 6 else decide (f ≤ 4))

/-- Stride and bytes of a drain's output (R123). -/
def drainStride (m desc : Nat) : Nat :=
  let n := (shapeOf m).rows * outBytes (bits desc 0 4)
  if bits desc 16 16 = 0 then n else 16 * bits desc 16 16
def drainBytes (m desc : Nat) : Nat :=
  let s := shapeOf m
  (s.toks - 1) * drainStride m desc + s.rows * outBytes (bits desc 0 4)

/-- MX.DRAIN (R114, R121, R123, R173, R214-R216). -/
def execMxDrain (g : Gid) (w : AWord) (s : State) : Host.Outcome State Fault Refusal :=
  s.onDev fun e d => d.mx e g w 2 true [usrc w.a, usrc w.b] fun i =>
    let arr := d.arr g.core
    let a := i.x.rd w.imm w.a.toNat 0
    let desc := i.x.rd w.imm w.b.toNat 0
    match arr.modeIssue with
    | none => i.fault xMx
    | some m =>
      if !drainLegal m desc then i.fault xMx
      else if w.mod.getLsbD 0 then
        if bits desc 0 4 ≠ 0 ∨ bits a 28 4 ≠ 0 then i.fault xMx
        else if 32 ≤ arr.queue.length then .wait
        else i.finish (d.enqueue g.core (.drain g a desc true 0) id) i.x
      else
        let n := drainBytes m desc
        if spSize < a + n then i.fault xMx
        else
          match i.spanFault d a n with
          | some x => .fault x
          | none =>
            let me : SbWait := { core := g.core, drain := some (g, i.x.pc), engine := 0 }
            if 32 ≤ arr.queue.length then .wait
            else if d.sbOverlaps g.core a n true then .wait 9
            else if d.sbFull g.core 1 me then .park (d.sbAsk me)
            else
              let r := (d.sbGot me).newId
              let entry : SbEntry := { id := r.1, core := g.core, lo := a / 128 * 128, hi := roundUp (a + n) 128, write := true }
              let d := { r.2 with mem := { r.2.mem with sb := r.2.mem.sb ++ [entry] } }
              i.finish (d.enqueue g.core (.drain g a desc false r.1) id) i.x

/-- Tiles completed: those executed; of those before a drain at work, all but the last (R124). -/
def Arr.completed (a : Arr) : Int :=
  match a.draining with
  | some x => (x.tiles : Int) - 1
  | none => a.executed

/-- The tile with a tag, and every earlier one, has completed (R124; modulo 2^16, within 32,768). -/
def Arr.tagDone (a : Arr) (tag : Nat) : Bool := decide (((a.completed - 1 - (tag : Int)) % 65536).toNat < 32768)

/-- MX.WAIT: not ready while the tag has not completed, or poison of the group waits to be reported (R99, R124). -/
def execMxWait (g : Gid) (w : AWord) (s : State) : Host.Outcome State Fault Refusal :=
  s.onDev fun e d => d.mx e g w 3 false [usrc w.a] fun i =>
    let arr := d.arr g.core
    if arr.reports.any (fun r => r.gid == g && r.block == i.x.block) then .wait
    else if arr.tagDone (i.x.rd w.imm w.a.toNat 0 % 65536) then i.finish d i.x
    else .wait

/-! Tiles and drains. -/

/-- The parts of a span that are read: offset and bytes of each, record by record (R111). -/
def weightParts (s : Shape) (a c : Nat) : List (Nat × Nat) :=
  (List.range c).flatMap (fun k =>
    [(a + k * s.wRec, s.rows * s.vb), (a + k * s.wRec + s.metaAt, s.rows * s.mb), (a + k * s.wRec + s.scaleAt, s.rows * s.sb)])

/-- Some part of a scratchpad carries poison. -/
def Dev.partsPoison (d : Dev) (c : Nat) (l : List (Nat × Nat)) : Bool := l.any (fun p => d.anyPoison (spAddr c p.1) p.2)

/-- The parts of an activation span that are read. -/
def actParts (s : Shape) (b n : Nat) : List (Nat × Nat) := (List.range n).map (fun k => (b + k * s.aRec, s.toks * (s.ab + s.sab)))

/-- The activation span of a tile as bytes, with its poison: from the buffer where the tag matches, else from the scratchpad,
which loads the buffer (R110). Third: it was loaded. -/
def Dev.activations (d : Dev) (c : Nat) (a : Arr) (m b n : Nat) (force : Bool) : List Byte × Bool × Bool :=
  let s := shapeOf m
  if !mwBroad m && !force && a.bufTag == some (b, n * s.aRec, m) then (a.buf, a.bufPoison, false)
  else
    (d.spRead c b (n * s.aRec),
     d.partsPoison c (actParts s b n), true)

/-- The records of two spans as little-endian numbers. -/
def recordsOf (s : Shape) (w a : List Byte) (n : Nat) : List (Nat × Nat) :=
  (List.range n).map (fun k => (leOf ((w.drop (k * s.wRec)).take s.wRec), leOf ((a.drop (k * s.aRec)).take s.aRec)))

/-- The checks of the scratchpad words that a tile reads (R131, R218). -/
def Dev.readParts (d : Dev) (c : Nat) (l : List (Nat × Nat)) : Dev :=
  if d.mem.upsets.isEmpty then d else l.foldl (fun d p => d.spCheck c p.1 p.2) d

/-- What the feeder keeps of a tile's weights: the last bytes read, and of a broad tile the last two blocks (R103, R115, R118). -/
def Arr.fed (a : Arr) (m n : Nat) (w : List Byte) : Arr :=
  let rec' := (shapeOf m).wRec
  let blocks := (List.range (min 2 n)).map (fun i => (w.drop ((n - min 2 n + i) * rec')).take rec')
  let regs := a.wregs ++ blocks
  { a with feed := w.drop (w.length - 65536), wregs := if mwBroad m then regs.drop (regs.length - 2) else a.wregs }

/-- MX_TILE_COMPLETE: the tile at the head has executed its K-steps into the accumulating bank (R104, R115, R122, R131, R136). `r.lost`:
ACLK cycles without a complete record because another requester was granted a bank (R113, R133). -/
def execMxTileComplete (r : TileEnd) (s : State) : Host.Outcome State Fault Refusal :=
  s.onDev fun _ d =>
    let core := r.core
    let a := d.arr core
    match a.queue with
    | .tile g block pc tag wOff aOff n force :: rest =>
      if a.clockFreeze || a.blocked then d
      else
        let m := a.modeNow.getD 0
        let sh := shapeOf m
        let act := d.activations core a m aOff n force
        let d := d.readParts core (weightParts sh wOff n ++ (if act.2.2 then actParts sh aOff n else []))
        let act := d.activations core a m aOff n force
        let w := d.spRead core wOff (n * sh.wRec)
        let bad := d.partsPoison core (weightParts sh wOff n) || act.2.1
        let bank := tileBank m sh (recordsOf sh w act.1 n) (a.acc.getD a.bank [])
        let d := if a.st = .run ∨ a.st = .rampUp then d else d.arrWake core
        let steps := tileSteps m n
        let load := if act.2.2 && !mwBroad m && ((d.arr core).st != .rampUp || a.midTile) then ceilDiv (n * sh.aRec) 32768 else 0
        let d := (d.rampCount core).freezeCycles core (feedFreeze m steps + load + r.lost)
        let d := d.countSteps core m steps
        let d := if act.2.2 then d.moved (d.sectOwner (sectOf core)) (n * sh.aRec) else d
        let b := a.putBank a.bank bank (a.poison.getD a.bank false || bad)
        let b := if act.2.2 && !mwBroad m then { b with bufTag := some (aOff, n * sh.aRec, m), buf := act.1, bufPoison := act.2.1 } else b
        let b := { b.fed m n w with
          queue := rest, executed := a.executed + 1,
          reports := if bad then a.reports ++ [{ gid := g, block := block, pc := pc, tag := tag }] else a.reports,
          st := .run, since := d.cycles (sectOf core), midTile := false }
        ((d.setArr core b).pumpAll core).arraySettle core
    | _ => d

/-- The bytes of one token of a drained bank. -/
def drainRow (s : Shape) (desc t : Nat) (bank : Sparse Word) : List Byte :=
  let f := bits desc 0 4
  (List.range s.rows).flatMap (fun r => leBytes (outBytes f) (drainValue f (bank.look (t * 1024 + r)).toNat))

/-- MX_DRAIN_COMPLETE: the drain at work has written its bank, or its last score has been accepted (R123, R131, R157, R173). -/
def execMxDrainComplete (core : Nat) (s : State) : Host.Outcome State Fault Refusal :=
  s.onDev fun _ d =>
    let a := d.arr core
    match a.draining with
    | some x =>
      if x.toEdu then
        if (d.edu.scores.look (halfOf core)).any (fun y => y.core == some core) then d else (d.drainEnd core).arraySettle core
      else
        let sh := shapeOf x.mode
        let bank := a.acc.getD (1 - a.bank) []
        let d := (List.range sh.toks).foldl (fun d t =>
          d.spWrite core (x.dest + t * drainStride x.mode x.desc) (drainRow sh x.desc t bank) (a.poison.getD (1 - a.bank) false)) d
        let d := d.moved (d.sectOwner (sectOf core)) (sh.toks * sh.rows * outBytes (bits x.desc 0 4))
        let d := { d with mem := { d.mem with sb := d.mem.sb.filter (fun b => b.id != x.sb) } }
        (d.drainEnd core).arraySettle core
    | none => d

/-! The current states (R133-R135) and poison reports (R99). -/

/-- ARRAY_RAMP_DOWN: gap cycle 64; the 63 cycles before ran at full level (R134). -/
def execArrayRampDown (core : Nat) (s : State) : Host.Outcome State Fault Refusal :=
  s.onDev fun _ d =>
    let a := d.arr core
    if a.st = .idleGap ∧ !a.clockFreeze then
      (d.dummy core 63 (64 * 63)).setArr core { a with st := .rampDown, level := 63, since := d.cycles (sectOf core) }
    else d

/-- ARRAY_OFF: gap cycle 128; the ramp ran at the levels 63 to 1 (R134). -/
def execArrayOff (core : Nat) (s : State) : Host.Outcome State Fault Refusal :=
  s.onDev fun _ d =>
    let a := d.arr core
    if a.st = .rampDown ∧ !a.clockFreeze then
      (d.dummy core a.level (a.level * (a.level + 1) / 2)).setArr core { a with st := .off, level := 0, since := d.cycles (sectOf core) }
    else d

/-- ARRAY_FREEZE_IDLE: a freeze has lasted 1,024 ACLK cycles and is treated as idle from then on (R133). -/
def execArrayFreezeIdle (core : Nat) (s : State) : Host.Outcome State Fault Refusal :=
  s.onDev fun _ d =>
    let a := d.arr core
    if a.hasTile && (a.st == .run || a.st == .freeze) && !a.clockFreeze then
      (d.freezeCycles core 1024).setArr core { a with st := .idleGap, since := d.cycles (sectOf core) }
    else d

/-- ARRAY_POISON_REPORT: the oldest report reaches its group, which halts at an instruction boundary (R99). -/
def execArrayPoisonReport (core : Nat) (s : State) : Host.Outcome State Fault Refusal :=
  s.onDev fun e d =>
    let a := d.arr core
    match a.reports with
    | [] => d
    | r :: rest =>
      let x := d.grp r.gid
      if x.live && x.block == r.block && x.st != .halted && x.st != .stopped then
        if x.st = .run then
          (d.setArr core { a with reports := rest }).raise e r.gid x
            { code := xPoison, lanes := x.mask.toNat, mxTag := r.tag, tilePc := r.pc.toNat }
        else d
      else d.setArr core { a with reports := rest }

end Sys2Proof.Machine
end

