-- ==== Sys2Proof/Machine/FabRecv.lean ====
section
/-! DEFINITION. The receive side of the fabric (R400-R404): receive flows, acknowledgements and refusals. -/

namespace Sys2Proof.Machine

/-- The receive flow of a source, indexed by its ID [15:0] (R400). -/
def Dev.rflow (d : Dev) (id : Nat) : RecvFlow := d.fab.recv.look (id % 65536)

/-- Replaces it. -/
def Dev.setRflow (d : Dev) (id : Nat) (f : RecvFlow) : Dev := { d with fab := { d.fab with recv := d.fab.recv.put (id % 65536) f } }

/-- Sends an unreliable packet to a peer on the path R399 gives it; lost where no path is up. -/
def Dev.sendPlain (e : Env) (d : Dev) (id : Nat) (p : Packet) : Dev :=
  match d.pickPort id true with
  | some l => d.emit (.klp l { p with tstamp := e.time })
  | Option.none => d

/-- The cumulative point after the performed PSNs above it; `fuel`: at least their number. -/
def advance (cum : Nat) (done : List Nat) : Nat → Nat × List Nat
  | 0 => (cum, done)
  | fuel + 1 => if done.contains cum then advance ((cum + 1) % 2 ^ 32) (done.filter (fun x => x != cum)) fuel else (cum, done)

/-- The distance of a PSN above another, modulo 2^32. -/
def psnAbove (a b : Nat) : Nat := (a + 2 ^ 32 - b) % 2 ^ 32

/-- Sends an ACK: cumulative PSN, bitmap of the 64 PSNs after it, echoed TSTAMP (R390, R401). -/
def Dev.sendAck (e : Env) (d : Dev) (id : Nat) : Dev :=
  let f := d.rflow id
  let map := maskOf ((f.done.map (fun p => psnAbove p (f.cum + 1))).filter (fun k => decide (k < 64)))
  let data := beBytes 8 f.cum ++ beBytes 8 map ++ beBytes 8 f.newest
  let p := { (d.packet id tAck 0 0 0 24 0 data) with epoch := f.epoch }
  (d.setRflow id { f with newPkts := 0 }).sendPlain e id p

/-- A reliable packet of a source has been performed: it is marked, and acknowledged after 8 new packets (R401, R402). -/
def Dev.performed (e : Env) (d : Dev) (id psn : Nat) : Dev :=
  let f := d.rflow id
  if !f.live || !f.opened.contains psn then d else
  let r := advance f.cum (psn :: f.done) (f.done.length + 1)
  let d := d.setRflow id { f with cum := r.1, done := r.2, newPkts := f.newPkts + 1, firstNew := if f.newPkts = 0 then e.time else f.firstNew, opened := f.opened.filter (fun x => x != psn) }
  if 8 ≤ f.newPkts + 1 then d.sendAck e id else d

/-- A NAK of a packet with its reason (R390, R404): 1 address, 2 ownership, 3 tenant, 4 busy. -/
def Dev.sendNak (e : Env) (d : Dev) (id psn reason : Nat) : Dev :=
  d.sendPlain e id { (d.packet id tNak 0 0 0 8 0 (beBytes 4 psn ++ beBytes 4 reason)) with epoch := (d.rflow id).epoch }

/-- A request is refused: the NAK counts as its acknowledgement, and the PSN as performed (R404). -/
def Dev.refusePsn (e : Env) (d : Dev) (id psn reason : Nat) : Dev := (d.sendNak e id psn reason).performed e id psn

end Sys2Proof.Machine
end

