-- ==== Sys2Proof/Machine/FeOps.lean ====
section
/-! DEFINITION. Command contexts of Chanter (R342-R348, R354, R365-R367): their fields, how a command starts and how it comes to
an end that COMMAND_COMPLETE then admits. -/

namespace Sys2Proof.Machine

/-- A command context. -/
def Dev.ctx (d : Dev) (c : Nat) : Ctx := d.fe.ctxs.look c

/-- Replaces a command context. -/
def Dev.setCtx (d : Dev) (c : Nat) (x : Ctx) : Dev := { d with fe := { d.fe with ctxs := d.fe.ctxs.put c x } }

/-- A number of n bytes of a command's slots. -/
def Ctx.num (x : Ctx) (off n : Nat) : Nat := leOf ((x.bytes.drop off).take n)

/-- A word of a command's slots. -/
def Ctx.word (x : Ctx) (off : Nat) : Nat := x.num off 8

/-- The opcode of a command (R342). -/
def Ctx.opcode (x : Ctx) : Nat := x.num 0 1

/-- A command's queue acts for its partition, ASID and kind (R347). -/
def Dev.qPart (d : Dev) (q : Nat) : Nat := d.get (QUEUE_CFG.PART q)
def Dev.qKernel (d : Dev) (q : Nat) : Bool := d.get (QUEUE_CFG.KERNEL q) == 1
def Dev.qFunc (d : Dev) (q : Nat) : Nat := d.get (QUEUE_CFG.FUNC q)
def Dev.qAsid (d : Dev) (q : Nat) : Nat := d.get (QUEUE_CFG.ASID q)

/-- A command waits to start. -/
def Ctx.canStart (x : Ctx) (op : Nat) : Bool := x.live && x.st == .fetched && x.opcode == op

/-- A command that its agent runs. -/
def Ctx.running (x : Ctx) : Bool := x.live && x.st == .started

/-- A command starts. -/
def Dev.ctxStart (d : Dev) (c : Nat) : Dev := d.setCtx c { d.ctx c with st := .started }

/-- A command that has started and has no terminal state (R371). -/
def Ctx.active (x : Ctx) : Bool := x.live && (x.st == .started || (x.st == .ending && x.began))

/-- A command has performed its last effect: how it will end is fixed (R354, R365); a fault is captured (R367). -/
def Dev.ctxFinish (e : Env) (d : Dev) (c : Nat) (t : Terminal) (progress : Nat) (f : Option FaultData) : Dev :=
  let x := d.ctx c
  if x.live && (x.st == .fetched || x.st == .started) then
    let y := { x with st := .ending, began := x.st == .started, outcome := some t, progress := progress, fault := f, reads := [], denied := [] }
    d.setCtx c (if f.isNone then y else
      { y with head := d.get (QUEUE_STATUS.HEAD x.queue), tail := d.get (QUEUE_TAIL.TAIL x.queue), capTime := e.time })
  else d

/-- Fault data of a kind and code with nothing else. -/
def FaultData.of (kind code : Nat) : FaultData := { (default : FaultData) with kind := kind, code := code }

/-- A command faults. -/
def Dev.ctxFault (e : Env) (d : Dev) (c kind code addr : Nat) : Dev :=
  d.ctxFinish e c .faulted 0 (some { FaultData.of kind code with addr := addr })

end Sys2Proof.Machine
end

