-- ==== Sys2Proof/Machine/SesStore.lean ====
section
/-! DEFINITION. The Sesame stores (R289-R313): operations on semaphores, locks, barriers and counters, parked waiters and their
wakes, answers to every kind of source. -/

namespace Sys2Proof.Machine

/-! Sources. -/

/-- The index of a source (R301). -/
def SesSrc.index : SesSrc → Nat
  | .group g _ _ => g.core
  | .engine e => 128 + e
  | .edu u => 192 + u
  | .chanter _ => 194
  | .bassoon => 195
  | .coll c => 256 + 8 * (c % 6)
  | .peer _ l _ => 256 + l / 4

/-- The operation codes of SEM (R71). -/
def semKind : Nat → SesKind
  | 0 => .wait
  | 1 => .take
  | 2 => .add
  | 3 => .sub
  | 4 => .set
  | 5 => .lock
  | 6 => .unlock
  | 7 => .arrive
  | 8 => .prod
  | _ => .cons

/-- The code of an operation. -/
def SesKind.code : SesKind → Nat
  | .wait => 0
  | .take => 1
  | .add => 2
  | .sub => 3
  | .set => 4
  | .lock => 5
  | .unlock => 6
  | .arrive => 7
  | .prod => 8
  | .cons => 9
  | .load => 10

/-- The word of a Sesame accepts the operation (Table: Sesame words and the accesses they accept). -/
def SesWord.accepts (w : SesWord) (k : SesKind) : Bool :=
  match w, k with
  | _, .load => true
  | .sem _, .wait | .sem _, .take | .sem _, .add | .sem _, .sub | .sem _, .set | .sem _, .lock | .sem _, .unlock => true
  | .barState _, .arrive => true
  | .barConfig _, .set => true
  | .produced _, .prod | .produced _, .cons | .produced _, .wait => true
  | .consumed _, .wait => true
  | .limit _, .set => true
  | _, _ => false

/-- The words an operation names. -/
def SesOp.words (o : SesOp) : List Nat := if o.lanes.isEmpty then [o.addr] else o.lanes.map (fun l => l.addr)

/-- Index and kind of a word in a trace packet (Table: Trace packet kinds). -/
def wordPayload (a : Nat) : Nat :=
  match sesWord a with
  | .sem i => i % 65536
  | .barState n | .barConfig n => n + 65536
  | .produced m | .consumed m | .limit m | .reserved m => m + 2 * 65536

/-- The owner of the sync block of a word, as a partition, 31 where none (R312). -/
def Dev.wordPart (d : Dev) (a : Nat) : Nat :=
  let o := d.get (SYNC_OWN.OWNER (syncBlock a))
  if o < 16 then o else 31

/-! Registers. -/

/-- SYNC_STATUS follows the lists (R314). -/
def Dev.syncStat (d : Dev) (st : Nat) : Dev :=
  (d.put (SYNC_STATUS.PARKED st) (d.ses.parked.filter (fun o => sesStore o.addr == st)).length).put (SYNC_STATUS.TAGS st)
    (d.ses.tags.filter (fun t => sesStore t.addr == st)).length

/-- Joins an operation to those on their way to a store. -/
def Dev.sesPush (d : Dev) (o : SesOp) : Dev := { d with ses := { d.ses with queue := d.ses.queue ++ [o] } }

/-- A plain operation of a device agent on a local word. -/
def SesOp.plain (id : Nat) (src : SesSrc) (k : SesKind) (a n : Nat) : SesOp :=
  { id := id, src := src, kind := k, addr := a, n := BitVec.ofNat 64 n, scope := 4, pd := 0, pc := 0, timeout := 0, deadline := none,
    lanes := [], mask := 0, check := false, held := false, again := false }

/-! Answers. -/

/-- The operation's release side runs before it (R92). -/
def SesKind.releases : SesKind → Bool
  | .add | .sub | .set | .unlock | .arrive | .prod => true
  | _ => false

/-- The operation's acquire side runs after its answer (R92). -/
def SesKind.acquires : SesKind → Bool
  | .wait | .take | .lock | .arrive | .cons => true
  | _ => false

/-- A waiting group goes on: past its instruction, after the acquire side of an operation that has one (R267, R299). -/
def Dev.sesResume (d : Dev) (g : Gid) (k : SesKind) (next : DWord) (scope pd mask v : Nat) (writes : Bool) : Dev :=
  let x := d.grp g
  let y := if writes then x.setPred pd mask v else x
  let d := d.setGrp g { y with pc := next, st := .run }
  if k.acquires then d.acquireSide g.core scope else d

/-- The group of an operation still waits for it. -/
def Dev.sesWaits (d : Dev) (g : Gid) (launch : Nat) : Bool :=
  let x := d.grp g
  x.live && x.launch == launch && (x.st == .sesame || x.st == .asked)

/-- A SEM packet to a peer (R390, R410): N or value, then the timeout or the owner tag. -/
def Dev.semPacket (d : Dev) (peer : Nat) (l : Launch) (o : SesOp) (second : Nat) : Packet :=
  d.packet peer tSem 1 (d.tagOf l.kernel l.part) o.kind.code 16 (o.addr % 2 ^ 40) (beBytes 8 o.n.toNat ++ beBytes 8 second)

/-- The plan of a lock's lanes at peers: one operation for each lock, asked for by its lowest lane (R63). -/
def farLocks : List (Nat × LockLane) → List (Nat × List LockLane)
  | [] => []
  | (p, l) :: t =>
    let rest := farLocks t
    match rest.find? (fun x => x.1 == p && (x.2.headD l).addr == l.addr) with
    | some x => (p, l :: x.2) :: rest.filter (fun y => !(y.1 == p && (y.2.headD l).addr == l.addr))
    | none => (p, [l]) :: rest

/-- A lock at a peer is asked for. -/
def Dev.askFar (e : Env) (d : Dev) (l : Launch) (base : SesOp) (f : FarLock) : Dev :=
  match f.lanes with
  | [] => d
  | h :: _ =>
    let o : SesOp := { base with id := f.id, addr := h.addr, lanes := f.lanes }
    let d := { d with ses := { d.ses with remote := d.ses.remote ++ [(f.peer, o)] } }
    d.fabSend e f.peer (.sem o.id) none (d.semPacket f.peer l o h.tag)

/-- Locks of peers that one part of an instruction won are given back where another part raises (R64; log entry 85). -/
def Dev.giveBack (e : Env) (d : Dev) (l : Launch) (base : SesOp) (fs : List FarLock) : Dev :=
  fs.foldl (fun d f =>
    match f.won, f.lanes with
    | true, h :: _ => if d.peerDead f.peer then d else d.fabSend e f.peer .other none (d.semPacket f.peer l { base with kind := .unlock, addr := h.addr } h.tag)
    | _, _ => d) d

/-- The lanes of a lock that a peer has answered with an exception: the code of each follows from the tag found (R64, R65). -/
def FarLock.excs (f : FarLock) (code : Nat) (tag : Option Nat) : List (Nat × Nat × Nat × Option Nat) :=
  f.lanes.map (fun l =>
    let c := match tag with
      | some t => if code = 0x13 ∨ code = 0x14 then (if t = l.tag then 0x14 else 0x13) else code
      | none => code
    (l.lane, c, l.addr, tag))

/-- The exception of a lock instruction: of its lowest lane, with every lane that raised that code (R102). -/
def lockFault (excs : List (Nat × Nat × Nat × Option Nat)) : Option Exc :=
  (excs.foldl (fun (b : Option (Nat × Nat × Nat × Option Nat)) y =>
      match b with | some z => if y.1 < z.1 then some y else some z | none => some y) none).map (fun y =>
    { code := y.2.1, lanes := maskOf ((excs.filter (fun z => z.2.1 == y.2.1)).map (fun z => z.1)), addr := y.2.2.1, owner := y.2.2.2 })

/-- Another wait for its locks stands for the group. -/
def Dev.setLock (d : Dev) (g : Gid) (w : Option LockWait) : Dev :=
  { d with ses := { d.ses with locks := d.ses.locks.filter (fun v => !(v.g == g)) ++ w.toList } }

/-- A part of a SEM.LOCK has been answered. With the last part of a phase the next begins; with the last phase the group goes on. An
exception of any lane ends the instruction with no lock taken (R63, R64, R102; log entry 85). -/
def Dev.lockPart (e : Env) (d : Dev) (g : Gid) (id won : Nat) (excs : List (Nat × Nat × Nat × Option Nat)) : Dev :=
  match d.ses.locks.find? (fun w => w.g == g && w.left.contains id) with
  | none => d
  | some w =>
    let far := w.far.map (fun f => if f.id = id then { f with won := won != 0 } else f)
    let w := { w with left := w.left.filter (fun i => i != id), won := w.won ||| won, excs := w.excs ++ excs, far := far }
    let x := d.grp g
    let l := d.launchOf x.launch
    let base : SesOp := { (default : SesOp) with src := .group g x.launch 0, kind := .lock, scope := w.scope, pd := w.pd, pc := w.next, mask := w.mask }
    if !w.left.isEmpty then d.setLock g (some w)
    else if !d.sesWaits g x.launch then d.setLock g none
    else
      match lockFault w.excs with
      | some ex => ((d.setLock g none).giveBack e l base w.far).raise e g { x with st := .run } ex
      | none =>
        if w.phase = 0 then
          let dead := w.far.filter (fun f => d.peerDead f.peer)
          match lockFault (dead.flatMap (fun f => f.excs 0x0E none)) with
          | some ex => (d.setLock g none).raise e g { x with st := .run } ex
          | none => w.far.foldl (fun d f => d.askFar e l base f) (d.setLock g (some { w with phase := 1, left := w.far.map (fun f => f.id) }))
        else
          match w.phase, w.near with
          | 1, h :: _ =>
            let id := d.core.nextId
            let d := { d with core := { d.core with nextId := id + 1 } }
            (d.setLock g (some { w with phase := 2, left := [id] })).sesPush { base with id := id, addr := h.addr, lanes := w.near }
          | _, _ => (d.setLock g none).sesResume g .lock w.next w.scope w.pd w.mask w.won true

/-- A SEM_RESP to a peer: PD, the withdrawn mark; an exception the store found travels as its code in STATUS, and the tag a lock met
above bit 8 (R390; log entry 24). -/
def Dev.semResp (e : Env) (d : Dev) (id psn : Nat) (pd withdrawn : Bool) (status : Nat) (tag : Nat := 0) : Dev :=
  let p := { (d.packet id tSemResp 1 0 0 8 psn (beBytes 8 (b2n pd + 2 * b2n withdrawn + 256 * tag))) with status := status }
  d.fabSend e id .response none p

/-- The fault of a Chanter command whose operation meets poison (R291; log entry 25). -/
def semFault : Nat := 0x32

/-- The store answers an operation: satisfied, or ended with PD false (R94, R299). -/
def Dev.sesAnswer (e : Env) (d : Dev) (o : SesOp) (ok : Bool) : Dev :=
  match o.src with
  | .group g l _ =>
    if o.kind.holds && d.sesWaits g l then
      let writes := match o.kind with | .wait | .take | .arrive => true | _ => false
      d.sesResume g o.kind o.pc o.scope o.pd (2 ^ 32 - 1) (if ok then 2 ^ 32 - 1 else 0) writes
    else d
  | .engine n =>
    match o.kind with
    | .wait | .take =>
      { d with dma := { d.dma with engines := d.dma.engines.put n { d.dma.engines.look n with semOk := some ok } } }
    | _ => d
  | .chanter c =>
    if ok then d.ctxFinish e c .done 0 none else d.ctxFault e c 4 semFault o.addr
  | .peer id _ psn =>
    let d := d.performed e id psn
    if o.kind.holds then d.semResp e id psn ok false 0 else d
  | .edu _ | .bassoon | .coll _ => d

/-- The store finds an exception for an operation, in the lanes that execute it: precise for the waiting forms, deferred for the others
(R70, R291, R303, R305, R308, R540). UNVERIFIED: an operation of a peer that the peer's group does not wait for completes there without
effect, and nothing tells that group (log entry 86). -/
def Dev.sesExc (e : Env) (d : Dev) (o : SesOp) (code : Nat) (counts : Option (Nat × Nat) := none) : Dev :=
  match o.src with
  | .group g l _ =>
    let x := d.grp g
    if o.kind.holds then
      if d.sesWaits g l then d.raise e g { x with st := .run } { code := code, lanes := o.mask, addr := o.addr, counts := counts } else d
    else if x.live && x.launch == l && x.st != .halted && x.st != .stopped then
      d.raise e g x { code := code, lanes := o.mask, addr := o.addr, tilePc := o.pc.toNat }
    else d
  | .engine n =>
    match o.kind with
    | .wait | .take =>
      { d with dma := { d.dma with engines := d.dma.engines.put n { d.dma.engines.look n with semOk := some false } } }
    | _ => d
  | .chanter c => d.ctxFault e c 4 semFault o.addr
  | .peer id _ psn =>
    let d := d.performed e id psn
    if o.kind.holds then d.semResp e id psn false false (if code = xPoison then 1 else code) else d
  | .edu _ | .bassoon | .coll _ => d

/-! Waiters. -/

/-- Takers are served in the order of arrival while the value holds out (R300): the value left and those served. -/
def serveTakers (v : Nat) : List SesOp → Nat × List Nat
  | [] => (v, [])
  | o :: t =>
    if o.n.toNat ≤ v then
      let r := serveTakers (v - o.n.toNat) t
      (r.1, o.id :: r.2)
    else (v, [])

/-- Parked operations end: each gets a wake, in the order of arrival (R299). -/
def Dev.sesWake (e : Env) (d : Dev) (p : SesOp → Bool) (ok : Bool) : Dev :=
  let out := d.ses.parked.filter p
  let ws := out.map (fun o => ({ store := sesStore o.addr, op := o, ok := ok } : Wake))
  let _ := e
  let d := { d with ses := { d.ses with parked := d.ses.parked.filter (fun o => !p o), wakes := d.ses.wakes ++ ws } }
  (d.syncStat 0).syncStat 1

/-- After a write to a word: WAIT waiters whose threshold it meets are released, then takers are served (R300). -/
def Dev.sesSettle (e : Env) (d : Dev) (a : Nat) : Dev :=
  let v := d.sesVal a
  let here := d.ses.parked.filter (fun o => o.addr == a)
  let ws := (here.filter (fun o => o.kind == .wait && decide (o.n.toNat ≤ v))).map (fun o => o.id)
  let r := serveTakers v (here.filter (fun o => o.kind == .take))
  (d.setSes a r.1).sesWake e (fun o => ws.contains o.id || r.2.contains o.id) true

/-- Every waiter parked on a word ends with PD false (R303, R307, R313). -/
def Dev.sesDismiss (e : Env) (d : Dev) (a : Nat) : Dev := d.sesWake e (fun o => o.addr == a) false

/-- Entries of a store's parked-waiter list. -/
def sesCapacity : Nat := 8192

/-- An operation parks, or is refused an entry and repeats (R297, R298). `count`: what a parked arrival counts. -/
def Dev.sesPark (e : Env) (d : Dev) (o : SesOp) (count : Dev → Dev) : Dev :=
  let st := sesStore o.addr
  let dl := match o.deadline with
    | some t => some t
    | none => if o.timeout = 0 then none else some (e.time + 1000 * o.timeout)
  let o := { o with deadline := dl }
  if sesCapacity ≤ (d.ses.parked.filter (fun p => sesStore p.addr == st)).length then
    (d.bump (SYNC_EXC.LIST_FULL st) 1).sesPush { o with again := true }
  else
    let d := count ({ d with ses := { d.ses with parked := d.ses.parked ++ [{ o with again := false }] } }.syncStat st)
    match o.src with
    | .group g l _ =>
      let d := if d.sesWaits g l then d.setGrp g { d.grp g with st := .sesame } else d
      d.trace e 5 g (d.launchOf l).part (wordPayload o.addr)
    | .peer id _ psn => d.performed e id psn
    | _ => d

/-- Writes a word and clears its poison mark. -/
def Dev.sesPut (d : Dev) (a v : Nat) : Dev :=
  let d := d.setSes a v
  { d with ses := { d.ses with poison := Sparse.put d.ses.poison ((a - sesBase) / 8) false } }

/-! Saturation (R292). -/

/-- Counts a saturation; at most one event per store and millisecond. -/
def Dev.saturated (e : Env) (d : Dev) (o : SesOp) (a : Nat) : Dev :=
  let st := sesStore a
  let d := d.bump (SYNC_EXC.SATURATIONS st) 1
  let ms := e.time / 1000000
  if d.ses.satMs.getD st none = some ms then d
  else
    let l := [d.ses.satMs.getD 0 none, d.ses.satMs.getD 1 none]
    let d := { d with ses := { d.ses with satMs := setAt l st (some ms) } }
    d.postP e 0x10 (d.wordPart a) [a, o.src.index]

/-- A signed change of a semaphore value with its waiters (R292, R300). -/
def Dev.sesAdd (e : Env) (d : Dev) (o : SesOp) (a : Nat) (v : Int) : Dev :=
  if v < 0 then ((d.setSes a 0).saturated e o a).sesSettle e a
  else if (2 ^ 64 : Int) ≤ v then ((d.setSes a (2 ^ 64 - 1)).saturated e o a).sesSettle e a
  else (d.setSes a v.toNat).sesSettle e a

/-! Locks (R63-R65, R294, R295). -/

/-- The tag recorded for a word. -/
def Dev.tagOn (d : Dev) (a : Nat) : Option Nat := (d.ses.tags.find? (fun t => t.addr == a)).map (fun t => t.tag)

/-- Removes the tag of a word. -/
def Dev.dropTag (d : Dev) (a : Nat) : Dev :=
  ({ d with ses := { d.ses with tags := d.ses.tags.filter (fun t => t.addr != a) } }).syncStat (sesStore a)

/-- Tags of one group: equal but for the lane (R51, R367). -/
def tagGroup (t : Nat) : Nat := t % 2 ^ 34

/-- What the check before a lock finds for a lane: poison, its own tag, a sibling's tag (R64, R291). -/
def Dev.lockExc (d : Dev) (l : LockLane) : Option Nat :=
  if d.sesPoison l.addr then some xPoison
  else
    match d.tagOn l.addr with
    | some t => if t = l.tag then some 0x14 else if tagGroup t = tagGroup l.tag then some 0x13 else none
    | none => none

/-- A lane tries its lock (R63, R294, R300): at most one lane of an instruction wins each. Third: the locks won. -/
def Dev.lockLane (e : Env) (d : Dev) (launch : Nat) (won : Nat) (taken : List Nat) (l : LockLane) : Dev × Nat × List Nat :=
  let st := sesStore l.addr
  let v := d.sesVal l.addr
  if taken.contains l.addr || v = 0 then (d, won, taken)
  else if 4096 ≤ (d.ses.tags.filter (fun t => sesStore t.addr == st)).length then
    (d.bump (SYNC_EXC.TAG_FULL st) 1, won, taken)
  else
    let d := (d.dropTag l.addr).setSes l.addr (v - 1)
    let d := ({ d with ses := { d.ses with tags := d.ses.tags ++ [(⟨l.addr, l.tag, launch⟩ : LockTag)] } } : Dev).syncStat st
    (d.sesSettle e l.addr, won ||| 2 ^ l.lane, taken ++ [l.addr])

/-- The lanes of a lock instruction in ascending order; no lane takes a lock where one raises (R63, R64). Answer: the lanes that
won and the exceptions as lane, code, address and tag found. -/
def Dev.lockAll (e : Env) (d : Dev) (o : SesOp) : Dev × Nat × List (Nat × Nat × Nat × Option Nat) :=
  let excs := o.lanes.filterMap (fun l => (d.lockExc l).map (fun c => (l.lane, c, l.addr, d.tagOn l.addr)))
  if !excs.isEmpty then (d, 0, excs)
  else if o.check then (d, 0, [])
  else
    let r := o.lanes.foldl (fun (r : Dev × Nat × List Nat) l => r.1.lockLane e o.src.launch r.2.1 r.2.2 l) (d, 0, [])
    (r.1, r.2.1, [])

/-- A lane releases its lock (R295). -/
def Dev.unlockLane (e : Env) (d : Dev) (o : SesOp) (l : LockLane) : Dev :=
  let st := sesStore l.addr
  let t := d.tagOn l.addr
  let d := d.dropTag l.addr
  let d := if t = some l.tag then d else
    (d.bump (SYNC_EXC.FOREIGN_UNLOCK st) 1).postP e 0x11 (d.wordPart l.addr) [l.addr, t.getD 0, l.tag]
  d.sesAdd e o l.addr ((d.sesVal l.addr : Int) + 1)

/-! Barriers (R303-R306). -/

/-- ARRIVED, HELD, ROUND and PHASE of a STATE word. -/
def barArrived (v : Nat) : Nat := bits v 0 16
def barHeld (v : Nat) : Nat := bits v 16 16
def barRound (v : Nat) : Nat := bits v 32 16
def barPhase (v : Nat) : Nat := bits v 48 1

/-- A STATE word. -/
def barWord (arrived held round phase : Nat) : Nat :=
  arrived % 65536 + held % 65536 * 2 ^ 16 + round % 65536 * 2 ^ 32 + phase % 2 * 2 ^ 48

/-- A round completes: ROUND rises, PHASE is 1, its parked arrivals get their wakes, the completing arrival with them (R304). -/
def Dev.barComplete (e : Env) (d : Dev) (a : Nat) (last : Option SesOp) : Dev :=
  let v := d.sesVal a
  let d := d.setSes a (barWord (barArrived v) (barHeld v) (barRound v + 1) 1)
  let d := d.sesWake e (fun o => o.addr == a && o.kind == .arrive && !o.held) true
  match last with
  | some o => { d with ses := { d.ses with wakes := d.ses.wakes ++ [(⟨sesStore a, o, true⟩ : Wake)] } }
  | none => d

/-- A wake of a completed round of a barrier has yet to be issued. -/
def Dev.barWaking (d : Dev) (a : Nat) : Bool := d.ses.wakes.any (fun w => w.op.addr == a && w.op.kind == .arrive && w.ok)

/-- The next round opens once the last wake of a round has been issued (R304 step 4); one that completes at once without a waiter
left to wake opens the round after it. -/
def Dev.barOpen (e : Env) (d : Dev) (a : Nat) : Dev :=
  let v := d.sesVal a
  if barPhase v = 0 || d.barWaking a then d
  else
    let n := barHeld v
    let d := d.setSes a (barWord n 0 (barRound v) 0)
    let opened := d.ses.parked.map (fun o => if o.addr = a ∧ o.kind = .arrive then { o with held := false } else o)
    let d := { d with ses := { d.ses with parked := opened } }
    if n ≠ 0 ∧ n = bits (d.sesVal (a + 8)) 0 16 then
      let d := d.barComplete e a none
      if d.barWaking a then d else d.setSes a (barWord 0 0 (barRound (d.sesVal a)) 0)
    else d

/-- Wakes that are not issued any more leave; a barrier that waited for the last of them opens (R304, R311). -/
def Dev.dropWakes (e : Env) (d : Dev) (p : Wake → Bool) : Dev :=
  let out := (d.ses.wakes.filter p).filter (fun w => w.op.kind == .arrive && w.ok)
  let d := { d with ses := { d.ses with wakes := d.ses.wakes.filter (fun w => !p w) } }
  out.foldl (fun d w => d.barOpen e w.op.addr) d

/-- SEM.ARRIVE at its store. -/
def Dev.sesArrive (e : Env) (d : Dev) (o : SesOp) : Dev :=
  let a := o.addr
  let v := d.sesVal a
  let want := bits (d.sesVal (a + 8)) 0 16
  if want = 0 then d.sesExc e o xSem
  else if barPhase v = 1 then
    if want < barHeld v + 1 then d.sesExc e o 0x15
    else
      d.sesPark e { o with held := true }
        (fun d => d.setSes a (barWord (barArrived v) (barHeld v + 1) (barRound v) 1))
  else
    let up := fun (d : Dev) => d.setSes a (barWord (barArrived v + 1) (barHeld v) (barRound v) 0)
    if want ≤ barArrived v + 1 then
      let d := match o.src with | .peer id _ psn => d.performed e id psn | _ => d
      (up d).barComplete e a (some o)
    else d.sesPark e { o with held := false } up

/-- A parked arrival is withdrawn: ARRIVED or HELD falls by 1 (R306). -/
def Dev.barWithdraw (d : Dev) (o : SesOp) : Dev :=
  let v := d.sesVal o.addr
  if o.kind != .arrive then d
  else if o.held then d.setSes o.addr (barWord (barArrived v) (barHeld v - 1) (barRound v) (barPhase v))
  else d.setSes o.addr (barWord (barArrived v - 1) (barHeld v) (barRound v) (barPhase v))

/-! The operations at the store. -/

/-- The words whose poison an operation meets (R291). -/
def SesOp.reads (o : SesOp) : List Nat :=
  match o.kind with
  | .arrive => [o.addr, o.addr + 8]
  | .prod | .cons => [o.addr, o.addr + 8, o.addr + 16]
  | _ => o.words

/-- SEM.SET on each kind of word (R293, R303, R307). -/
def Dev.sesSet (e : Env) (d : Dev) (o : SesOp) : Dev :=
  let a := o.addr
  let n := o.n.toNat
  let d := match sesWord a with
    | .barConfig _ => (((d.sesPut a (n % 65536)).sesPut (a - 8) 0).sesDismiss e (a - 8))
    | .limit _ =>
      let d := ((d.sesPut a n).sesPut (a - 16) 0).sesPut (a - 8) 0
      (d.sesDismiss e (a - 16)).sesDismiss e (a - 8)
    | _ => ((d.sesPut a n).dropTag a).sesSettle e a
  d.sesAnswer e o true

/-- An advance of a counter under its bound (R308). -/
def Dev.sesAdvance (e : Env) (d : Dev) (o : SesOp) : Dev :=
  let a := o.addr
  let n := o.n.toNat
  let p := d.sesVal a
  let c := d.sesVal (a + 8)
  if o.kind = .prod then
    if p + n ≤ c + d.sesVal (a + 16) then ((d.setSes a (p + n)).sesSettle e a).sesAnswer e o true else d.sesExc e o 0x16 (some (p, c))
  else if c + n ≤ p then ((d.setSes (a + 8) (c + n)).sesSettle e (a + 8)).sesAnswer e o true
  else d.sesExc e o 0x16 (some (p, c))

/-- The operations performed are counted at their stores, a lock or unlock in each lane (R314). -/
def Dev.countOps (d : Dev) (o : SesOp) : Dev := o.words.foldl (fun d a => d.bump (SYNC_OPS.COUNT (sesStore a)) 1) d

/-- SEM.UNLOCK: the lanes whose word carries poison raise, the word of the lowest lane named; the others release their locks (R102, R291,
R295, R540). -/
def Dev.sesUnlock (e : Env) (d : Dev) (o : SesOp) : Dev :=
  let bad := o.lanes.filter (fun l => d.sesPoison l.addr)
  let d := (o.lanes.filter (fun l => !d.sesPoison l.addr)).foldl (fun d l => d.unlockLane e o l) d
  match bad with
  | [] => d.sesAnswer e o true
  | l :: _ => d.sesExc e { o with addr := l.addr, mask := maskOf (bad.map (fun x => x.lane)) } xPoison

/-- Who rewrites a poisoned word by SEM.SET: Chanter's privileged command. DESIGN CHOICE: a SEM.SET of a group raises
POISON_CONSUMED and changes nothing, as R540 says; the SET of R291 that rewrites the word is the command's (log entry 87). -/
def SesSrc.rewrites : SesSrc → Bool
  | .group _ _ _ | .peer _ _ _ => false
  | _ => true

/-- An operation is performed at its store (R291-R308). -/
def Dev.sesPerform (e : Env) (d : Dev) (o : SesOp) : Dev :=
  let d := d.countOps o
  let d := if d.mem.upsets.isEmpty then d else o.reads.foldl (fun d a => d.sesCheck a) d
  let bad := o.reads.any d.sesPoison
  match o.kind with
  | .load =>
    match o.src with
    | .group g _ _ => d.answerGroup g (.sesame o.id) (fun k n => (((leBytes 8 (d.sesVal o.addr)).drop k).take n, bad))
    | .peer id _ psn =>
      let p := { (d.packet id tReadResp 1 0 0 8 psn (leBytes 8 (d.sesVal o.addr))) with status := b2n bad }
      (d.performed e id psn).fabSend e id .response none p
    | _ => d
  | .lock =>
    let r := d.lockAll e o
    match o.src with
    | .group g _ _ => r.1.lockPart e g o.id r.2.1 r.2.2
    | .peer id _ psn =>
      let st := match r.2.2 with | (_, c, _, t) :: _ => ((if c = xPoison then 1 else c), t.getD 0) | [] => (0, 0)
      (r.1.performed e id psn).semResp e id psn (r.2.1 != 0) false st.1 st.2
    | _ => r.1
  | .set => if bad && !o.src.rewrites then d.sesExc e o xPoison else d.sesSet e o
  | .unlock => d.sesUnlock e o
  | _ =>
    if !(sesWord o.addr).accepts o.kind then d.sesExc e o xSem
    else if bad then d.sesExc e o xPoison
    else
      let a := o.addr
      let v := d.sesVal a
      let n := o.n.toNat
      match o.kind with
      | .wait => if n ≤ v then d.sesAnswer e o true else d.sesPark e o id
      | .take =>
        let queued := d.ses.parked.any (fun p => p.addr == a && p.kind == .take)
        if n = 0 ∨ (n ≤ v ∧ !queued) then (d.setSes a (v - n)).sesAnswer e o true else d.sesPark e o id
      | .add => (d.sesAdd e o a ((v : Int) + n)).sesAnswer e o true
      | .sub => (d.sesAdd e o a ((v : Int) - n)).sesAnswer e o true
      | .arrive => d.sesArrive e o
      | _ => d.sesAdvance e o

/-- The operations on their way to a store; `again`: those refused an entry, which repeat. -/
def Dev.sesQueue (d : Dev) (st : Nat) (again : Bool) : List SesOp :=
  d.ses.queue.filter (fun o => sesStore o.addr == st && o.again == again)

/-- Two operations come from one group, or from one other agent. -/
def SesSrc.same : SesSrc → SesSrc → Bool
  | .group g l _, .group h m _ => g == h && l == m
  | a, b => a == b

/-- An earlier operation of the same agent to one of the same words, a load too, has not been performed (R263). -/
def Dev.sesBehind (d : Dev) (o : SesOp) : Bool :=
  (d.ses.queue.takeWhile (fun p => p.id != o.id)).any (fun p => p.src.same o.src && p.words.any o.words.contains)

/-- Takes an operation out of those on their way. -/
def Dev.sesTake (d : Dev) (o : SesOp) : Dev := { d with ses := { d.ses with queue := d.ses.queue.filter (fun p => p.id != o.id) } }

/-- Inserts an operation in the order in which a store performs those that arrive in one cycle: writes before a WAIT or TAKE, then by
ascending source index (R301). -/
def arriveOrder (o : SesOp) : List SesOp → List SesOp
  | [] => [o]
  | p :: t =>
    let key := fun (x : SesOp) => (if x.kind = .wait ∨ x.kind = .take then 1024 else 0) + x.src.index
    if key o < key p then o :: p :: t else p :: arriveOrder o t

/-- The operations at some places among those on their way to a store arrive in one cycle, each unless an earlier one of its source to
one of its words waits. -/
def Dev.sesArrivals (e : Env) (d : Dev) (store : Nat) (arrive : List Nat) : Dev :=
  let q := d.sesQueue store false
  let ops := ((arrive.eraseDups.filterMap (fun i => q[i]?)).filter (fun o => !d.sesBehind o)).foldl (fun l o => arriveOrder o l) []
  ops.foldl (fun d o => ((d.sesTake o).sesPerform e o).settleTags e o.src.launch) d

/-- SESAME_OPERATION: the operations that arrive at a store in one cycle are performed (R291, R300, R301). -/
def execSesameOperation (store : Nat) (arrive : List Nat) (s : State) : Host.Outcome State Fault Refusal :=
  s.onDev fun e d => d.sesArrivals e store arrive

/-- GROUP_WAKE: the oldest wake of a store reaches its waiter (R299); after the last wake of a round the next one opens
(R304). A group of a section whose clocks are off for a switch takes it when the switch has ended (R20). -/
def execGroupWake (store : Nat) (s : State) : Host.Outcome State Fault Refusal :=
  s.onDev fun e d =>
    match d.ses.wakes.find? (fun w => w.store == store) with
    | none => d
    | some w =>
      if match w.op.src with | .group g _ _ => d.issueStopped (sectOf g.core) | _ => false then d else
      let d := { d with ses := { d.ses with wakes := d.ses.wakes.filter (fun v => v.op.id != w.op.id) } }
      let d := d.bump (SYNC_WAKES.COUNT store) 1
      let d := match w.op.src with
        | .group g l _ => if d.sesWaits g l then d.trace e 6 g (d.launchOf l).part (wordPayload w.op.addr) else d
        | _ => d
      let d := d.sesAnswer e w.op w.ok
      if w.op.kind = .arrive ∧ w.ok then d.barOpen e w.op.addr else d

/-- SEM_TIMEOUT: the deadline of a parked entry has passed; a taker has taken nothing, an arrival is withdrawn (R302, R306). The
operations that arrive in the same cycle come first: one that satisfies the entry wins. -/
def execSemTimeout (store : Nat) (x : Deadline) (s : State) : Host.Outcome State Fault Refusal :=
  s.onDev fun e d =>
    match (d.ses.parked.filter (fun o => sesStore o.addr == store))[x.entry]? with
    | none => d
    | some o =>
      match o.deadline with
      | some t =>
        if t ≤ e.time then
          let d := d.sesArrivals e store x.arrive
          match d.ses.parked.find? (fun p => p.id == o.id) with
          | some o => ((d.barWithdraw o).bump (SYNC_MISC.TIMEOUTS store) 1).sesWake e (fun p => p.id == o.id) false
          | none => d
        else d
      | none => d

/-- SEM_RETRY: an operation refused an entry is repeated; past its deadline it ends instead (R298, R302). -/
def execSemRetry (store pos : Nat) (s : State) : Host.Outcome State Fault Refusal :=
  s.onDev fun e d =>
    match (d.sesQueue store true)[pos]? with
    | none => d
    | some o =>
      match o.deadline with
      | some t =>
        if t ≤ e.time then (((d.sesTake o).bump (SYNC_MISC.TIMEOUTS store) 1).sesAnswer e o false)
        else (d.sesTake o).sesPerform e { o with again := false }
      | none => (d.sesTake o).sesPerform e { o with again := false }

/-! Removal and ownership (R310, R311, R313). -/

/-- Operations of some sources leave the stores: parked takers have taken nothing, parked arrivals are withdrawn where `back`
(R306, R310, R311). -/
def Dev.sesRemove (d : Dev) (p : SesOp → Bool) (back : Bool) : Dev :=
  let out := d.ses.parked.filter p
  let d := if back then out.foldl (fun d o => d.barWithdraw o) d else d
  let d := { d with ses := { d.ses with
    parked := d.ses.parked.filter (fun o => !p o),
    queue := d.ses.queue.filter (fun o => !(p o && o.kind.holds)) } }
  (d.syncStat 0).syncStat 1

/-- The words of a sync block (R312). -/
def blockWords (j : Nat) : List Nat :=
  (List.range 1024).map (fun i => sesAddr (.sem (1024 * j + i))) ++
  (List.range 64).flatMap (fun i => [sesAddr (.barState (64 * j + i)), sesAddr (.barConfig (64 * j + i))]) ++
  (List.range 32).flatMap (fun i => [sesAddr (.produced (32 * j + i)), sesAddr (.consumed (32 * j + i)), sesAddr (.limit (32 * j + i)), sesAddr (.reserved (32 * j + i))])

/-- A sync block is cleared: its waiters end with PD false, its words, tags and marks are cleared (R313). -/
def Dev.clearBlock (e : Env) (d : Dev) (j : Nat) : Dev :=
  let d := d.sesWake e (fun o => syncBlock o.addr == j) false
  let inBlock := fun (k : Nat) => decide (syncBlock (sesBase + 8 * k) = j)
  let d := { d with ses := { d.ses with
    words := Sparse.clearIf d.ses.words inBlock, poison := Sparse.clearIf d.ses.poison inBlock,
    tags := d.ses.tags.filter (fun t => syncBlock t.addr != j) } }
  let d := { d with mem := { d.mem with
    upsets := d.mem.upsets.filter (fun u => match u.site with | .ses w => syncBlock (w * 8) != j | _ => true) } }
  (d.syncStat 0).syncStat 1

/-- A sync block changes its owner (R313): cleared where it leaves a partition. -/
def Dev.syncOwner (e : Env) (d : Dev) (j new : Nat) : Dev × Bool :=
  let old := d.get (SYNC_OWN.OWNER j)
  let zero := decide (old < 16) && new != old
  let d := if zero then d.clearBlock e j else d
  let d := d.put (SYNC_OWN.OWNER j) new
  (if old = new then d else d.report e (.handover 1 old new 1), zero)

/-- An owner code that a handover may name: a partition, 16 or 31 (R312). -/
def syncOwnerCode (n : Nat) : Bool := decide (n ≤ 16) || n == 31

/-- A write that sets RESULT. `zeroed`: whether the change cleared the block. -/
def Dev.syncResult (d : Dev) (r : Nat) (zeroed : Option Bool) : Dev :=
  let d := (d.put SYNC_HANDOVER_STATUS.RESULT r).incr SYNC_HANDOVER_STATUS.SEQ
  match zeroed with
  | some z => d.put SYNC_HANDOVER_STATUS.ZEROED (b2n z)
  | none => d

/-- A change of a sync block's owner that was asked for by one who may (R313). -/
def Dev.syncGive (e : Env) (d : Dev) (j new : Nat) : Dev :=
  let r := d.syncOwner e j new
  r.1.syncResult 0 (some r.2)

/-- A write to SYNC_HANDOVER (R313). -/
def Dev.wrSyncHandover (e : Env) (d : Dev) (src : Src) (v : Nat) : Dev :=
  let go :=
    let j := bits v 0 6
    let n := bits v 6 5
    if !syncOwnerCode n ∨ (n < 16 ∧ d.get (PART_CFG.STATE n) = 2) then d.syncResult 1 none
    else d.syncGive e j n
  match src with
  | .host f => if d.isOwner f then d.syncResult 2 none else d.refuse e f SYNC_HANDOVER.off
  | .queue q => if d.qKernel q then go else d.syncResult 2 none
  | .bassoon => go

/-- SYNC_HANDOVER. -/
def execSyncHandover (src : Src) (value : DWord) (s : State) : Host.Outcome State Fault Refusal :=
  s.onDev fun e d => d.wrSyncHandover e src value.toNat

end Sys2Proof.Machine
end

