-- ==== Sys2Proof/Machine/SemInstr.lean ====
section
/-! DEFINITION. The SEM instructions (R63-R65, R88, R92, R94, R290-R311) of a group, on local words and on words of a peer. -/

namespace Sys2Proof.Machine

/-- The MOD of a SEM instruction: SIZE 3, SCOPE 0-5, bit [59] reserved (R81, R94). -/
def AWord.semLegal (w : AWord) : Bool := bits w.mod.toNat 0 3 == 3 && decide (AWord.scope w ≤ 5) && !AWord.ord w

/-- The word of a place in a Sesame, local or of a peer. -/
def Place.sesWord : Place → Option SesWord
  | .ses a => if a % 8 = 0 then some (Machine.sesWord a) else none
  | .fab _ o => if sesBase ≤ o ∧ o < sesEnd ∧ o % 8 = 0 then some (Machine.sesWord o) else none
  | _ => none

/-- A place at a peer. -/
def Place.isFab : Place → Bool
  | .fab _ _ => true
  | _ => false

/-- SEM_ACCESS: the place is not a word that accepts the operation (R88, R290). -/
def semExtra (k : SesKind) (pl : Place) : Option Nat :=
  match pl.sesWord with
  | some w => if w.accepts k then none else some xSem
  | none => some xSem

/-- The owner tag of a lane (R51, R367). -/
def ownerTag (fab : Nat) (g : Gid) (lane : Nat) : Nat :=
  fab % 2 ^ 20 + g.core * 2 ^ 20 + g.quarter * 2 ^ 28 + g.slot * 2 ^ 30 + lane * 2 ^ 34

/-- Accesses an operation needs (R332). -/
def SesKind.access : SesKind → Nat
  | .wait | .load => kRead
  | .add | .sub | .set | .unlock => kWrite
  | _ => kRead + kWrite

/-- An operation of a group goes to a peer's store; one to a dead peer ends at once (R286, R310). Answer: whether the group
waits for it. -/
def Dev.semRemote (e : Env) (d : Dev) (i : Issue) (peer : Nat) (o : SesOp) (second : Nat) : Dev × Bool :=
  if d.peerDead peer then
    if o.kind.holds then (d, false)
    else (d.fabLoss i.g i.x.block 1 true, false)
  else
    let d := if o.kind.holds then { d with ses := { d.ses with remote := d.ses.remote ++ [(peer, o)] } } else d
    let own : FabOwner := if o.kind.holds then .sem o.id else .store [(i.g, i.x.block)]
    (d.fabSend e peer own none (d.semPacket peer i.launch o second), o.kind.holds)

/-- The group after it has issued an operation it waits for: at the instruction, until the store of this device or of a peer (`far`)
answers. -/
def Issue.parkSes (i : Issue) (far : Bool) (d : Dev) : Issued :=
  .done ((d.setGrp i.g { i.x with st := if far then .sesame else .asked, fabStat := (d.grp i.g).fabStat }).pmc i.g.core (some i.g.quarter)
    i.launch.part 13 1)

/-- The group after it has issued an operation it does not wait for. -/
def Issue.passSes (i : Issue) (d : Dev) : Issued :=
  i.finish (d.pmc i.g.core (some i.g.quarter) i.launch.part 13 1) { i.x with fabStat := (d.grp i.g).fabStat }

/-- What the order of an operation makes it wait for (R89, R94, R266, R267). -/
def Dev.semOrder (d : Dev) (i : Issue) (k : SesKind) : Bool :=
  let scope := AWord.scope i.w
  scope == 0 || ((!k.releases || d.releaseReady i.g i.x scope) && (!k.acquires || i.x.accs.isEmpty))

/-- A SEM instruction on one word: A names it, B holds N (R92, R94). -/
def Dev.semOne (e : Env) (d : Dev) (g : Gid) (w : AWord) (op : Nat) (timed hasB : Bool) : Dev :=
  let k := semKind op
  let ops := [usrc w.a 2] ++ (if hasB then [usrc w.b (if w.b.toNat = immCode then 1 else 2)] else [])
  d.issue e g w { cls := 12, op := op, ext := timed } (AWord.semLegal w) ops fun i =>
    if i.em = 0 then i.finish d i.x
    else if k == .set && !i.launch.kernel then i.fault 0x03
    else
      let a := i.x.rdN w.imm 2 w.a.toNat 0
      let n := if hasB then (if w.b.toNat = immCode then w.imm.toNat else i.x.rdN w.imm 2 w.b.toNat 0) else 0
      let timeout := if timed && w.x then w.ext.toNat else 0
      d.access e i (AWord.phys w) k.access [⟨lowLane i.em, a, 0, 8⟩] (fun _ pl => semExtra k pl) fun d ts =>
        if !d.semOrder i k then .wait 12
        else if ts.any (d.spanHeld g true) then .wait
        else
          let r := d.newId
          let o := fun (addr : Nat) => ({
            id := r.1, src := .group g i.x.launch 0, kind := k, addr := addr, n := BitVec.ofNat 64 n, scope := AWord.scope w,
            pd := w.pd.toNat, pc := if k.holds then i.next else i.x.pc, timeout := timeout, deadline := none, lanes := [],
            mask := i.em, check := false, held := false, again := false } : SesOp)
          match ts with
          | [(_, .ses b, _)] => if k.holds then i.parkSes false (r.2.sesPush (o b)) else i.passSes (r.2.sesPush (o b))
          | [(_, .fab id b, _)] =>
            let q := r.2.semRemote e i id (o b) timeout
            if q.2 then i.parkSes true q.1
            else if k.holds then
              match k with
              | .prod | .cons => .fault { code := xPoison, lanes := i.em, addr := a }
              | _ => i.finish (if k.acquires then d.acquireSide g.core (AWord.scope w) else d) (i.x.setPred w.pd.toNat (2 ^ 32 - 1) 0)
            else i.passSes q.1
          | _ => .wait

/-- SEM.WAIT (R292, R300). -/
def execSemWait (g : Gid) (w : AWord) (s : State) : Host.Outcome State Fault Refusal := s.onDev fun e d => d.semOne e g w 0 true true
/-- SEM.TAKE (R292, R300). -/
def execSemTake (g : Gid) (w : AWord) (s : State) : Host.Outcome State Fault Refusal := s.onDev fun e d => d.semOne e g w 1 true true
/-- SEM.ADD (R292). -/
def execSemAdd (g : Gid) (w : AWord) (s : State) : Host.Outcome State Fault Refusal := s.onDev fun e d => d.semOne e g w 2 false true
/-- SEM.SUB (R292). -/
def execSemSub (g : Gid) (w : AWord) (s : State) : Host.Outcome State Fault Refusal := s.onDev fun e d => d.semOne e g w 3 false true
/-- SEM.SET (R94, R293, R303, R307). -/
def execSemSet (g : Gid) (w : AWord) (s : State) : Host.Outcome State Fault Refusal := s.onDev fun e d => d.semOne e g w 4 false true
/-- SEM.ARRIVE (R304). -/
def execSemArrive (g : Gid) (w : AWord) (s : State) : Host.Outcome State Fault Refusal := s.onDev fun e d => d.semOne e g w 7 true false
/-- SEM.PROD (R308). -/
def execSemProd (g : Gid) (w : AWord) (s : State) : Host.Outcome State Fault Refusal := s.onDev fun e d => d.semOne e g w 8 false true
/-- SEM.CONS (R308). -/
def execSemCons (g : Gid) (w : AWord) (s : State) : Host.Outcome State Fault Refusal := s.onDev fun e d => d.semOne e g w 9 false true

/-- The lanes of a lock instruction at local words. -/
def localLocks (fab : Nat) (g : Gid) (ts : List Target) : List LockLane :=
  ts.filterMap (fun t => match t.2.1 with
    | .ses b => some { lane := t.1.lane, addr := b, tag := ownerTag fab g t.1.lane }
    | _ => none)

/-- The lanes at words of peers: the peer and the lane. -/
def remoteLocks (fab : Nat) (g : Gid) (ts : List Target) : List (Nat × LockLane) :=
  ts.filterMap (fun t => match t.2.1 with
    | .fab id b => some (id, { lane := t.1.lane, addr := b, tag := ownerTag fab g t.1.lane })
    | _ => none)

/-- Fresh identities for some things, in order. -/
def Dev.numbered {α : Type} (d : Dev) : List α → List (Nat × α) × Dev
  | [] => ([], d)
  | a :: t =>
    let r := d.newId
    let q := Dev.numbered r.2 t
    ((r.1, a) :: q.1, q.2)

/-- SEM.UNLOCK: the local lanes form one operation, each lane at a peer a packet of its own (R295, R410). -/
def Issue.unlockAll (i : Issue) (e : Env) (d : Dev) (base : SesOp) (near : List LockLane) (far : List (Nat × LockLane)) : Dev :=
  let d := match near with
    | [] => d
    | l :: _ => let r := d.newId; r.2.sesPush { base with id := r.1, addr := l.addr, lanes := near }
  far.foldl (fun d p => let n := d.newId; (n.2.semRemote e i p.1 { base with id := n.1, addr := p.2.addr, lanes := [p.2] } p.2.tag).1) d

/-- SEM.LOCK: its local lanes form one operation; each lock of a peer is asked for by the lowest lane that names it, after the local
lanes have been asked what they would raise (R63-R65, R410; log entry 85). -/
def Issue.lockAll (i : Issue) (e : Env) (d : Dev) (base : SesOp) (near : List LockLane) (far : List (Nat × LockLane)) : Issued :=
  let fs := d.numbered (farLocks far)
  let far : List FarLock := fs.1.map (fun f => { id := f.1, peer := f.2.1, lanes := f.2.2, won := false })
  let lw : LockWait := { g := i.g, left := [], won := 0, excs := [], mask := i.em, pd := base.pd, next := i.next, scope := base.scope, near := near,
                         far := far, phase := 1 }
  match near with
  | [] =>
    i.parkSes true (far.foldl (fun d f => d.askFar e i.launch base f) (fs.2.setLock i.g (some { lw with left := far.map (fun f => f.id) })))
  | l :: _ =>
    let r := fs.2.newId
    let d := r.2.setLock i.g (some { lw with left := [r.1], phase := if far.isEmpty then 2 else 0 })
    i.parkSes false (d.sesPush { base with id := r.1, addr := l.addr, lanes := near, check := !far.isEmpty })

/-- SEM.LOCK and SEM.UNLOCK, in each lane (R63-R65, R295, R410). -/
def Dev.semLocks (e : Env) (d : Dev) (g : Gid) (w : AWord) (op : Nat) : Dev :=
  let k := semKind op
  d.issue e g w { cls := 12, op := op } (AWord.semLegal w) [src w.a 2] fun i =>
    if i.em = 0 then i.finish d i.x
    else
      let ps := (lanesOf i.em).map (fun l => (⟨l, i.x.rdN w.imm 2 w.a.toNat l, 0, 8⟩ : Piece))
      d.access e i (AWord.phys w) k.access ps (fun _ pl => semExtra k pl) fun d ts =>
        if !d.semOrder i k then .wait 12
        else if ts.any (d.spanHeld g true) then .wait
        else
          let fab := d.fabId
          let near := localLocks fab g ts
          let far := remoteLocks fab g ts
          let base : SesOp := { (default : SesOp) with
            src := .group g i.x.launch 0, kind := k, scope := AWord.scope w, pd := w.pd.toNat, pc := if k.holds then i.next else i.x.pc, mask := i.em }
          let dead := far.filter (fun p => d.peerDead p.1)
          if k != .lock then i.passSes (i.unlockAll e d base near far)
          else if !dead.isEmpty then
            .fault { code := xPoison, lanes := maskOf (dead.map (fun p => p.2.lane)), addr := ((dead.map (fun p => p.2.addr)).headD 0) }
          else i.lockAll e d base near far

/-- SEM.LOCK (R63, R64, R294). -/
def execSemLock (g : Gid) (w : AWord) (s : State) : Host.Outcome State Fault Refusal := s.onDev fun e d => d.semLocks e g w 5
/-- SEM.UNLOCK (R295). -/
def execSemUnlock (g : Gid) (w : AWord) (s : State) : Host.Outcome State Fault Refusal := s.onDev fun e d => d.semLocks e g w 6

/-- An operation of a group waiting at a peer is withdrawn there (R311, R410). -/
def Dev.semWithdrawAll (e : Env) (d : Dev) (p : SesOp → Bool) : Dev :=
  let out := d.ses.remote.filter (fun x => p x.2)
  let d := { d with ses := { d.ses with remote := d.ses.remote.filter (fun x => !p x.2) } }
  out.foldl (fun d x =>
    match (d.flow x.1).pkts.find? (fun s => s.owner == .sem x.2.id) with
    | some s => d.fabSend e x.1 .other none (d.packet x.1 tSemWithdraw 1 s.pkt.tenant 0 0 s.pkt.psn [])
    | none => d) d

end Sys2Proof.Machine
end

