-- ==== Sys2Proof/Machine/Dma.lean ====
section
/-! DEFINITION. The DMA engines (R315-R326): the checks of a descriptor, its wait, its start, its moves and its end. -/

namespace Sys2Proof.Machine

/-! Signals of device agents. -/

/-- An agent of the device adds to or subtracts from a semaphore, local or of a peer (R272, R319). -/
def Dev.signal (e : Env) (d : Dev) (src : SesSrc) (own : FabOwner) (part : Nat) (kernel : Bool) (sem n : Nat) : Dev :=
  match d.place sem with
  | .ses a =>
    let r := d.newId
    r.2.sesPush { SesOp.plain r.1 src .add a n with part := if kernel then 31 else part }
  | .fab id o =>
    if d.peerDead id then d
    else d.fabSend e id own none (d.packet id tSem 1 (d.tagOf kernel part) SesKind.add.code 16 o (beBytes 8 n ++ beBytes 8 0))
  | _ => d

/-- An operation of an agent leaves the stores and peers (R311, R366). -/
def Dev.sesForget (e : Env) (d : Dev) (src : SesSrc) : Dev :=
  let d := d.sesRemove (fun o => o.src == src) true
  let d := d.dropWakes e (fun w => w.op.src == src && w.op.kind.holds)
  d.semWithdrawAll e (fun o => o.src == src)

/-- The local address of a place. -/
def Place.addr : Place → Nat
  | .hbm a => a
  | .sp c o => spAddr c o
  | .host n x => (n + 1) * winBase + x
  | .ses a => a
  | .fab _ o => o
  | .unmapped => 0

/-! The descriptor (Table: DMA descriptor). -/

/-- A descriptor's fields. -/
structure Desc where
  op : Nat
  srcV : Bool
  dstV : Bool
  serial : Bool
  event : Bool
  cls : Nat
  chain : Bool
  asid : Nat
  src : Nat
  dst : Nat
  xlen : Nat
  rows : Nat
  planes : Nat
  ssy : Int
  ssz : Int
  dsy : Int
  dsz : Int
  waitSem : Nat
  waitVal : Nat
  startSem : Nat
  doneSem : Nat
  next : Nat
  rsv : Bool       -- some reserved field is not 0
deriving DecidableEq, Repr, Inhabited

/-- The descriptor of 128 bytes. -/
def descOf (bs : List Byte) : Desc :=
  let w := fun (o : Nat) => leOf ((bs.drop o).take 8)
  let h := w 0
  { op := bits h 0 8, srcV := bit h 8, dstV := bit h 9, serial := bit h 10, event := bit h 11, cls := bits h 12 2, chain := bit h 14,
    asid := bits h 32 16, src := w 0x08, dst := w 0x10, xlen := bits (w 0x18) 0 32, rows := bits (w 0x18) 32 16 + 1,
    planes := bits (w 0x18) 48 16 + 1, ssy := toSigned 64 (w 0x20), ssz := toSigned 64 (w 0x28), dsy := toSigned 64 (w 0x30),
    dsz := toSigned 64 (w 0x38), waitSem := w 0x40, waitVal := w 0x48, startSem := w 0x50, doneSem := w 0x58, next := w 0x60,
    rsv := bits h 15 17 != 0 || bits h 48 16 != 0 || w 0x68 != 0 }

/-- The address of byte j of row y of plane z, modulo 2^64. -/
def descAddr (base : Nat) (sy sz : Int) (y z j : Nat) : Nat := ofSigned 64 ((base : Int) + sz * z + sy * y + j)

/-- The bytes of the whole move. -/
def Desc.total (x : Desc) : Nat := x.xlen * x.rows * x.planes

/-- The bounding range of one side, from the lowest to past the highest byte (R318). -/
def spanOf (base : Nat) (sy sz : Int) (x : Desc) : Int × Int :=
  let ry := sy * ((x.rows : Int) - 1)
  let rz := sz * ((x.planes : Int) - 1)
  ((base : Int) + min 0 ry + min 0 rz, (base : Int) + max 0 ry + max 0 rz + x.xlen)

/-- The cores whose scratchpad a range of local addresses overlaps. -/
def coresIn (r : Int × Int) : List Nat :=
  (List.range 128).filter (fun c => decide (r.1 < ((spAddr c 0 + spSize : Nat) : Int)) && decide (((spAddr c 0 : Nat) : Int) < r.2))

/-- An address form of a local address, for spans (R24, R25). -/
def Dev.localOf (d : Dev) (a : Nat) : Nat := if a.testBit 63 ∧ (bits a 40 20 = 0 ∨ bits a 40 20 = d.fabId) then a % 2 ^ 40 else a

/-- The address of a Sesame word, local or of a peer, that accepts an operation (R290, R307). -/
def Dev.isSemAddr (d : Dev) (a : Nat) (k : SesKind) : Bool := (d.place a).sesWord.any (fun w => w.accepts k)

/-- The agent of a descriptor. -/
def DmaEntry.agent (x : DmaEntry) : Agent := { kernel := x.kernel, part := x.part, dma := true, march := false }

/-- A place that a move of the agent may name by a physical or fabric address (R82, R83, R88). -/
def placeData (kernel : Bool) : Place → Bool
  | .hbm _ | .host _ _ => kernel
  | .ses _ | .unmapped => false
  | _ => true

/-- The checks of R318 on a descriptor that was read, as a Chanter fault code; 0 passes. `asid`: the queue's. -/
def Dev.descCheck (d : Dev) (x : Desc) (q : DmaEntry) : Nat :=
  let badSem := fun (a : Nat) (k : SesKind) => a != 0 && !(d.isSemAddr a k)
  let copy := x.op == 1
  let srcAt := copy && !x.srcV
  let reach := fun (a : Nat) => placeData q.kernel (d.place a) && d.admits q.agent (d.place a) 1 false
  let reachW := fun (a : Nat) => placeData q.kernel (d.place a) && d.admits q.agent (d.place a) 1 true
  let semOk := fun (a : Nat) => a == 0 || d.admits q.agent (d.place a) 8 true
  if !(x.op == 1 || x.op == 2) || x.cls == 3 || x.rsv || x.xlen == 0 || (!q.kernel && x.asid != q.asid) then 0x03
  else if badSem x.waitSem .wait || badSem x.startSem .add || badSem x.doneSem .add || (srcAt && d.place x.src == .unmapped) ||
      (!x.dstV && d.place x.dst == .unmapped) then 0x06
  else if (srcAt && !reach x.src) || (!x.dstV && !reachW x.dst) || !semOk x.waitSem || !semOk x.startSem || !semOk x.doneSem then 0x07
  else if (!x.dstV && decide (1 < (coresIn (spanOf (d.localOf x.dst) x.dsy x.dsz x)).length)) ||
      (srcAt && decide (1 < (coresIn (spanOf (d.localOf x.src) x.ssy x.ssz x)).length)) then 0x03
  else 0

/-- Reading a descriptor (R317, R318): its bytes, a miss, unreadable, outside the queue's reach. -/
inductive DescRead where
  | ok (bs : List Byte)
  | miss (va : Nat)
  | bad
  | denied
deriving DecidableEq, Repr, Inhabited

/-- The check of half a descriptor, 64 bytes that lie in one page: virtual under the queue's ASID for a user queue, local physical for a
kernel queue. -/
def Dev.descHalf (d : Dev) (who : Nat) (q : DmaEntry) (a : Nat) : Chk :=
  if q.kernel then d.checkPhysical q.agent a 64 kRead else d.checkVirtual who q.asid a 64 kRead true

/-- Half a descriptor is read at its home. -/
def Dev.readHalf (d : Dev) (who : Nat) (q : DmaEntry) (a : Nat) : DescRead :=
  match d.descHalf who q a with
  | .miss va => .miss va
  | .exc c => if c = xAccess then .denied else .bad
  | .ok (.fab _ _) _ => .bad
  | .ok p _ =>
    match d.homeBytes p.addr 64 with
    | some (bs, bad) => if bad then .bad else .ok bs
    | none => .bad

/-- The descriptor at an address: its two halves may lie in two pages. -/
def Dev.readDesc (d : Dev) (who : Nat) (q : DmaEntry) : DescRead :=
  match d.readHalf who q q.addr with
  | .ok bs =>
    match d.readHalf who q (q.addr + 64) with
    | .ok cs => .ok (bs ++ cs)
    | r => r
  | r => r

/-- The lookups of a descriptor's halves (R329). -/
def Dev.descTouch (d : Dev) (who : Nat) (q : DmaEntry) : Dev :=
  if q.kernel then d else (d.rtTouch who q.asid q.addr).rtTouch who q.asid (q.addr + 64)

/-- A descriptor's bytes are read at their homes in a class: the checks there, and the sectors that the L2 takes (R240, R247). DESIGN
CHOICE: an engine reads its descriptors in the normal class, Chanter in the latency-critical one (log entry 93). -/
def Dev.descTake (e : Env) (d : Dev) (who : Nat) (q : DmaEntry) : Dev :=
  let cls := if who = whoChanter then 0 else 1
  [q.addr, q.addr + 64].foldl (fun d a =>
    match d.descHalf who q a with
    | .ok p _ => d.takeHome e p.addr 64 (if q.kernel then 31 else q.part) cls
    | _ => d) d

/-- Sectors of a descriptor are under repair (log entry 80). -/
def Dev.descRepairs (d : Dev) (who : Nat) (q : DmaEntry) : Bool :=
  [q.addr, q.addr + 64].any (fun a => match d.descHalf who q a with | .ok p _ => d.repairing p.addr 64 | _ => false)

/-! Engines. -/

/-- Engine e. -/
def Dev.eng (d : Dev) (n : Nat) : Engine := d.dma.engines.look n

/-- DMA_STATUS.STATE codes (R338). -/
def DmaState.code : DmaState → Nat
  | .idle => 0
  | .waitSem => 1
  | .waitBoard => 2
  | .moving => 3
  | .draining => 4
  | .waitTrans => 5

/-- The state that the register shows: an engine whose last descriptor only waits for its writes drains. -/
def Engine.shown (x : Engine) : DmaState :=
  if x.endReq ≠ 0 then .waitTrans else if x.st = .idle ∧ !x.ends.isEmpty then .draining else x.st

/-- Replaces engine n; its registers follow. -/
def Dev.setEng (d : Dev) (n : Nat) (x : Engine) : Dev :=
  let d := { d with dma := { d.dma with engines := d.dma.engines.put n x } }
  let d := (d.put (DMA_STATUS.QUEUE n) (x.ends.length + x.queue.length)).put (DMA_STATUS.STATE n) x.shown.code
  d.put (DMA_CURRENT.ADDR n) (if x.desc.isEmpty then (match x.ends with | h :: _ => h.entry.addr | [] => 0) else match x.queue with | q :: _ => q.addr | [] => 0)

/-- The engine ready for its next descriptor; those before it still complete. -/
def Engine.clear (x : Engine) : Engine :=
  { x with st := .idle, desc := [], started := false, semOk := none, aborted := false, reqId := 0, denied := 0, tokens := [], reads := [],
           lost := none, semPeer := none, run := 0, pos := 0, poison := false, barred := [] }

/-- The scoreboard entries of a run: of its destination, of its source (R214). -/
def boardOf (run : Nat) : Nat := 2 ^ 48 + 2 * run
def readBoardOf (run : Nat) : Nat := 2 ^ 48 + 2 * run + 1

/-- Scoreboard entries leave. -/
def Dev.unboard (d : Dev) (p : Nat → Bool) : Dev := { d with mem := { d.mem with sb := d.mem.sb.filter (fun b => !p b.id) } }

/-- A local range of addresses as an entry of the one scratchpad it touches: core, first row, end (R214, R318). -/
def boardRange (r : Int × Int) : List (Nat × Nat × Nat) :=
  (coresIn r).map (fun c =>
    let base : Int := (spAddr c 0 : Nat)
    (c, (r.1 - base).toNat / 128 * 128, min spSize (roundUp (r.2 - base).toNat 128)))

/-- The scoreboard ranges of a descriptor: core, first row, end, write (R214); of a virtual side as far as the entries that the engine or
the device holds map it. DEDUCED: a page that is not translated when the descriptor starts gets no entry (log entry 92). -/
def Dev.boardRanges (d : Dev) (n : Nat) (x : Desc) : List (Nat × Nat × Nat × Bool) :=
  let side := fun (virt : Bool) (base : Nat) (sy sz : Int) (write : Bool) =>
    let all :=
      if virt then
        let r := spanOf base sy sz x
        ((d.rt.caches.look (whoEngine n) ++ d.rt.device).filter (fun g => g.asid == x.asid)).eraseDups.flatMap (fun g =>
          let lo := max r.1 (g.vstart : Int)
          let hi := min r.2 ((g.vstart + g.len : Nat) : Int)
          let p : Int := (d.localOf g.pstart : Int) - (g.vstart : Int)
          if lo < hi then boardRange (lo + p, hi + p) else [])
      else boardRange (spanOf (d.localOf base) sy sz x)
    ((all.map (fun r => r.1)).eraseDups).map (fun c =>
      let mine := all.filter (fun r => r.1 == c)
      (c, (mine.map (fun r => r.2.1)).foldl min spSize, (mine.map (fun r => r.2.2)).foldl max 0, write))
  side x.dstV x.dst x.dsy x.dsz true ++ (if x.op = 1 then side x.srcV x.src x.ssy x.ssz false else [])

/-! One side of a move. -/

/-- A running descriptor reaches the bytes of a scratchpad: their owner admits it, and no set in a handover was so when it started
(R201, R205). -/
def Dev.spRuns (d : Dev) (g : Agent) (barred : List (Nat × Nat)) (c o n : Nat) : Bool :=
  (setsOf o n).all (fun k => (d.get (SP_OWN.PENDING c k) == 0 || !barred.contains (c, k)) && g.reaches (d.get (SP_OWN.OWNER c k)))

/-- The agent of a run reaches the bytes of a place (R83, R201, R330). -/
def Dev.runAdmits (d : Dev) (g : Agent) (barred : List (Nat × Nat)) (p : Place) (n : Nat) (write : Bool) : Bool :=
  match p with
  | .sp c o => d.spRuns g barred c o n
  | p => d.admits g p n write

/-- One side of a piece as an engine reaches it (R318, R324, R330): its place, a miss, or a fault. -/
inductive Side where
  | at' (p : Place)
  | miss (va : Nat)
  | fault (f : Nat)
deriving DecidableEq, Repr, Inhabited

/-- The check of one side, of bytes within one page. -/
def Dev.side (d : Dev) (n : Nat) (q : DmaEntry) (virt : Bool) (asid a len kinds : Nat) : Side :=
  let barred := (d.eng n).barred
  if virt then
    if 2 ^ 57 ≤ a then .fault 0x01
    else if !d.asidBound asid then .fault 0x03
    else
      match d.rtFind (whoEngine n) asid a with
      | none => .miss a
      | some r =>
        let p := d.place (r.pstart + (a - r.vstart))
        let g : Agent := { kernel := false, part := d.asidPart asid, dma := true, march := false }
        if !r.allows kinds then .fault 0x02
        else if p = .unmapped then .fault 0x01
        else if p.sesWord.isNone && d.runAdmits g barred p len (bit kinds 1) then .at' p
        else .fault 0x02
  else
    let p := d.place a
    if p = .unmapped then .fault 0x01
    else if placeData q.kernel p && d.runAdmits q.agent barred p len (bit kinds 1) then .at' p
    else .fault 0x02

/-! The end of a descriptor. -/

/-- A write packet of a run awaits its acknowledgement. -/
def Dev.runPending (d : Dev) (n run : Nat) : Bool :=
  d.fabPending (fun o => match o with | .dma k r _ => k == n && r == run | _ => false)

/-- Waits for a translation of the running descriptor; an engine waits on one request at a time (R315, R335). -/
def Dev.engMiss (e : Env) (d : Dev) (n asid va kinds : Nat) : Dev :=
  if (d.eng n).endReq ≠ 0 then d
  else
    match d.rtRequest e asid va kinds 1 n (.engine n) with
    | some (id, d) => d.setEng n { d.eng n with st := .waitTrans, reqId := id }
    | none => d

/-- The outcome with the writes that were not performed: its prefix ends at the first of them (R321, R324). -/
def DmaEnd.final (h : DmaEnd) : DmaOut :=
  let o := if h.aborted then { h.out with state := 3, fault := 0 } else h.out
  match h.lost with
  | some (pos, f) => if pos < o.progress then { o with state := if o.state = 1 then 2 else o.state, fault := if o.state = 1 then f else o.fault, progress := pos } else o
  | none => o

/-- A descriptor completes: entries are released, STATUS and PROGRESS written where they can be, DONESEM signalled, DMA_DONE posted; with
the last of its chain its command ends. One that ends otherwise than done ends its chain: what had started of it leaves the engine
(R319, R324, R325; log entry 92). `at'`: where STATUS lies. -/
def Dev.descDone (e : Env) (d : Dev) (n : Nat) (h : DmaEnd) (at' : Option Place) : Dev :=
  let q := h.entry
  let z := descOf h.desc
  let o := h.final
  let d := d.unboard (fun i => i == boardOf h.run || i == readBoardOf h.run)
  let status := o.state + o.fault * 256 + b2n o.poison * 65536 + o.reqId * 2 ^ 32
  let d := if h.readable then
      let d := match at' with
        | some p => d.writeHome p.addr (if q.kernel then 31 else q.part) (leBytes 8 status ++ leBytes 8 o.progress) false
        | none => d
      if z.doneSem = 0 then d else d.signal e (.engine n) .other q.part q.kernel z.doneSem 1
    else d
  let d := match o.state with
    | 2 => d.bump (DMA_ENDS.FAULTED n) 1
    | 3 => d.bump (DMA_ENDS.ABORTED n) 1
    | _ => d
  let d := if o.poison then d.bump (DMA_ENDS.POISONED n) 1 else d
  let c := d.ctx q.ctx
  let d := if h.readable && z.event then
      d.postF e 0x02 (d.qFunc c.queue) (d.qPart c.queue) [q.addr, o.state + o.fault * 256 + n * 65536] else d
  if o.state = 1 ∧ z.chain then d
  else if o.state = 1 then d.ctxFinish e q.ctx .done (q.done + 1) none
  else
    let x := d.eng n
    let cut := fun (y : DmaEntry) => y.ctx == q.ctx
    let d := d.unboard (fun i => x.ends.any (fun y => cut y.entry && (i == boardOf y.run || i == readBoardOf y.run)))
    let d := d.setEng n { x with ends := x.ends.filter (fun y => !cut y.entry) }
    let d := if x.queue.head?.any cut then
        let d := if x.st = .waitSem then d.sesForget e (.engine n) else d
        let d := d.unboard (fun i => x.run != 0 && (i == boardOf x.run || i == readBoardOf x.run))
        let d := { d with dma := { d.dma with tokenReq := d.dma.tokenReq.filter (fun t => t.1 != n) } }
        let y := d.eng n
        d.setEng n { y.clear with queue := y.queue.drop 1 }
      else d
    if o.state = 3 then d.ctxFinish e q.ctx .aborted q.done none
    else
      d.ctxFinish e q.ctx .faulted q.done (some { FaultData.of 2 0x31 with
        reqId := o.reqId, engine := some n, descAddr := q.addr, descStatus := if h.readable then status else 0,
        descProgress := if h.readable then o.progress else 0 })

/-- Descriptors whose writes are performed complete, in queue order (R316, R319). Where the page of STATUS misses, the engine waits for
its translation; where it is refused, STATUS is not written. `fuel`: at least those that wait. -/
def Dev.endsSettle (e : Env) (d : Dev) (n : Nat) : Nat → Dev
  | 0 => d
  | fuel + 1 =>
    let x := d.eng n
    match x.ends with
    | [] => d
    | h :: rest =>
      if d.runPending n h.run || x.endReq != 0 then d
      else
        let q := h.entry
        let done := fun (d : Dev) (p : Option Place) =>
          Dev.endsSettle e ((d.setEng n { d.eng n with ends := rest, endDenied := false }).descDone e n h p) n fuel
        if !h.readable || x.endDenied then done d none
        else
          let a := q.addr + 0x70
          let d := if q.kernel then d else d.rtTouch (whoEngine n) q.asid a
          match d.side n q (!q.kernel) q.asid a 16 kWrite with
          | .at' p => done d (some p)
          | .fault _ => done d none
          | .miss va =>
            if x.st = .waitTrans then d
            else
              match d.rtRequest e q.asid va kWrite 1 n (.engine n) with
              | some (id, d) => d.setEng n { d.eng n with endReq := id }
              | none => d

/-- The running descriptor has issued its last write, or will issue none: its source's entry and its tokens are released, its chain goes
on, and it waits to complete (R214, R319, R322, R324). `readable`: the descriptor could be read. -/
def Dev.descEnd (e : Env) (d : Dev) (n : Nat) (o : DmaOut) (readable : Bool) : Dev :=
  let x := d.eng n
  match x.queue with
  | [] => d
  | q :: rest =>
    let z := descOf x.desc
    let d := if x.run = 0 then d else d.unboard (fun i => i == readBoardOf x.run)
    let d := { d with dma := { d.dma with tokenReq := d.dma.tokenReq.filter (fun t => t.1 != n) } }
    let h : DmaEnd := { entry := q, run := x.run, desc := x.desc, out := o, lost := x.lost, readable := readable, aborted := false }
    let next := if o.state = 1 ∧ z.chain then { q with addr := z.next, done := q.done + 1 } :: rest else rest
    (d.setEng n { x.clear with queue := next, ends := x.ends ++ [h] }).endsSettle e n (x.ends.length + 2)

/-- A fault or an abort before any move. -/
def dmaFault (f : Nat) : DmaOut := { state := 2, fault := f, progress := 0, poison := false, reqId := 0 }
def dmaStopped : DmaOut := { state := 3, fault := 0, progress := 0, poison := false, reqId := 0 }

/-! The start. -/

/-- The bank sets in a handover that some ranges touch. -/
def Dev.barredIn (d : Dev) (rs : List (Nat × Nat × Nat × Bool)) : List (Nat × Nat) :=
  rs.flatMap (fun r => ((setsOf r.2.1 (r.2.2.1 - r.2.1)).filter (fun k => d.get (SP_OWN.PENDING r.1 k) == 1)).map (fun k => (r.1, k)))

/-- The rows of 128 bytes that n bytes from an offset touch. -/
def rowSpan (o n : Nat) : Nat := if n = 0 then 0 else (o + n - 1) / 128 - o / 128 + 1

/-- A mover asks for intake tokens of a core, at most 8 with those it holds (R315, R322). -/
def Dev.askTokens (d : Dev) (mover held core want : Nat) : Dev :=
  let asked := (d.dma.tokenReq.filter (fun t => t == (mover, core))).length
  { d with dma := { d.dma with tokenReq := d.dma.tokenReq ++ List.replicate (min 8 want - held - asked) (mover, core) } }

/-- The start of a descriptor: translation of its first bytes, the order after the one before it, the scoreboard, the acquire, STARTSEM
(R319 step 2, R214-R216). -/
def Dev.descStart (e : Env) (d : Dev) (n : Nat) : Dev :=
  let x := d.eng n
  match x.queue with
  | [] => d
  | q :: _ =>
    let z := descOf x.desc
    let missing := fun (virt : Bool) (a : Nat) => virt && d.asidBound z.asid && decide (a < 2 ^ 57) && (d.rtFind (whoEngine n) z.asid a).isNone
    let rs := d.boardRanges n z
    let need := fun (c : Nat) => (rs.filter (fun t => t.1 == c)).length
    let me := fun (c : Nat) => ({ core := c, drain := none, engine := n } : SbWait)
    if missing z.dstV z.dst && x.denied == 0 then d.engMiss e n z.asid z.dst kWrite
    else if missing (z.srcV && z.op == 1) z.src && x.denied == 0 then d.engMiss e n z.asid z.src kRead
    else if z.serial && !x.ends.isEmpty then d.setEng n { x with st := .waitBoard }
    else if rs.any (fun r => d.mem.sb.any (fun b =>
        b.core == r.1 && (r.2.2.2 || b.write) && decide (r.2.1 < b.hi) && decide (b.lo < r.2.2.1))) then d.setEng n { x with st := .waitBoard }
    else if rs.any (fun r => d.sbFull r.1 (need r.1) (me r.1)) then
      let d := d.setEng n { x with st := .waitBoard }
      rs.foldl (fun d r => d.sbAsk (me r.1)) d
    else
      let d := rs.foldl (fun d r => d.sbGot (me r.1)) d
      let d := { d with mem := { d.mem with sb := d.mem.sb ++ rs.map (fun (r : Nat × Nat × Nat × Bool) =>
        (⟨if r.2.2.2 then boardOf x.run else readBoardOf x.run, r.1, r.2.1, r.2.2.1, r.2.2.2⟩ : SbEntry)) } }
      let d := if z.startSem = 0 then d else d.signal e (.engine n) .other q.part q.kernel z.startSem 1
      (d.setEng n { x with st := .moving, started := true, barred := d.barredIn rs }).ctxStart q.ctx

/-- The WAITSEM wait of a descriptor begins (R319 step 1). -/
def Dev.descWait (e : Env) (d : Dev) (n : Nat) (z : Desc) (q : DmaEntry) : Dev :=
  let x := d.eng n
  let r := d.newId
  let o := fun (a : Nat) => { SesOp.plain r.1 (.engine n) .wait a z.waitVal with scope := 4 }
  match d.place z.waitSem with
  | .ses a => ((r.2.setEng n { x with st := .waitSem }).sesPush (o a)).ctxStart q.ctx
  | .fab id a =>
    let d := r.2.setEng n { x with st := .waitSem, semPeer := some id }
    if d.peerDead id then d.setEng n { x with st := .waitSem, semPeer := some id, semOk := some false }
    else
      let d := { d with ses := { d.ses with remote := d.ses.remote ++ [(id, o a)] } }
      (d.fabSend e id (.sem r.1) none (d.packet id tSem 1 (d.tagOf q.kernel q.part) SesKind.wait.code 16 a (beBytes 8 z.waitVal ++ beBytes 8 0))).ctxStart q.ctx
  | _ => d.descEnd e n (dmaFault 0x01) true

/-- The checks that a descriptor which was read passes at the engine: all of R318 for one reached through NEXT; the first, which Chanter
checked, its form only, and what its addresses name is found as they are used (R324). -/
def Dev.chainCheck (d : Dev) (z : Desc) (q : DmaEntry) : Bool :=
  let c := d.descCheck z q
  if q.done = 0 then c != 0x03 else c == 0

/-- DMA_START: the engine takes up its next descriptor: it reads and checks it, waits on WAITSEM, and starts it once the wait has
ended and the scoreboard admits it (R317-R319). -/
def execDmaStart (engine : Nat) (s : State) : Host.Outcome State Fault Refusal :=
  s.onDev fun e d =>
    let x := d.eng engine
    match x.queue with
    | [] => d
    | q :: _ =>
      let stop := x.aborted || q.aborted
      if x.desc.isEmpty then
        if x.st = .waitTrans then d
        else
          let d := (d.descTouch (whoEngine engine) q).descTake e (whoEngine engine) q
          if d.descRepairs (whoEngine engine) q then d
          else
          match d.readDesc (whoEngine engine) q with
          | .miss va =>
            if stop then d.descEnd e engine dmaStopped false
            else if x.denied ≠ 0 then d.descEnd e engine { dmaFault x.denied with reqId := x.reqId } false
            else d.engMiss e engine q.asid va kRead
          | .bad | .denied => d.descEnd e engine (if stop then dmaStopped else dmaFault 0x06) false
          | .ok bs =>
            let z := descOf bs
            let r := d.newId
            let d := r.2.setEng engine { x with desc := bs, run := r.1, st := .idle, denied := 0 }
            if stop then d.descEnd e engine dmaStopped true
            else if !d.chainCheck z q then d.descEnd e engine (dmaFault 0x06) true
            else if z.waitSem ≠ 0 then d.descWait e engine z q
            else d.descStart e engine
      else
        match x.st with
        | .waitSem =>
          if x.aborted then d.descEnd e engine dmaStopped true
          else
            match x.semOk with
            | none => d
            | some true => d.descStart e engine
            | some false =>
              let dead := match x.semPeer with | some p => d.peerDead p | none => false
              d.descEnd e engine (dmaFault (if dead then 0x05 else 0x07)) true
        | .waitBoard =>
          if x.aborted then d.descEnd e engine dmaStopped true
          else if x.denied ≠ 0 then d.descEnd e engine { dmaFault x.denied with reqId := x.reqId } true
          else d.descStart e engine
        | _ => d

/-! Moves. -/

/-- A piece of the moves: the position of its first byte in descriptor order, source and destination addresses, bytes. -/
structure Move where
  pos : Nat
  src : Nat
  dst : Nat
  n : Nat
deriving DecidableEq, Repr, Inhabited

/-- The rest of a piece after its first k bytes. -/
def Move.after (m : Move) (k : Nat) : Move := { pos := m.pos + k, src := m.src + k, dst := m.dst + k, n := m.n - k }

/-- The pieces of a row, none crossing a page on either side. `fuel`: at least the pages touched. -/
def rowMoves (pos src dst : Nat) : Nat → Nat → List Move
  | _, 0 => []
  | len, fuel + 1 =>
    if len = 0 then [] else
    let n := min len (min (4096 - src % 4096) (4096 - dst % 4096))
    ⟨pos, src, dst, n⟩ :: rowMoves (pos + n) (src + n) (dst + n) (len - n) fuel

/-- The pieces of a descriptor in descriptor order (R317). A FILL has no source. -/
def Desc.moves (x : Desc) : List Move :=
  (List.range x.planes).flatMap (fun z => (List.range x.rows).flatMap (fun y =>
    let pos := (z * x.rows + y) * x.xlen
    let dst := descAddr x.dst x.dsy x.dsz y z 0
    rowMoves pos (if x.op = 1 then descAddr x.src x.ssy x.ssz y z 0 else dst) dst x.xlen (2 * (x.xlen / 4096) + 4)))

/-- The pieces left from a position on. -/
def Desc.movesFrom (x : Desc) (pos : Nat) : List Move :=
  (x.moves.filter (fun m => decide (pos < m.pos + m.n))).map (fun m => m.after (pos - m.pos))

/-- What holds the moves up: nothing; a miss (address and kinds); a fault; an answer or event still to come; a READ to be sent; intake
tokens of a core. -/
inductive Stop where
  | none
  | miss (va kinds : Nat)
  | fault (f : Nat)
  | hold
  | read
  | token (core want : Nat)
deriving DecidableEq, Repr, Inhabited

/-- The answered or asked READ that covers a position. -/
def Engine.readAt (x : Engine) (pos : Nat) : Option DmaRead := x.reads.find? (fun r => decide (r.pos ≤ pos) && decide (pos < r.pos + r.len))

/-- The data of k bytes of a piece: from its source, from an answered READ, or the pattern of a FILL. -/
def Dev.moveData (d : Dev) (eng : Engine) (x : Desc) (m : Move) (k : Nat) (p : Place) : List (Byte × Bool) :=
  if x.op = 2 then (List.range k).map (fun i => (BitVec.ofNat 8 (bits x.src (8 * ((m.pos + i) % 8)) 8), false))
  else
    match p with
    | .fab _ _ =>
      match (eng.readAt m.pos).bind (fun r => r.data.map (fun v => (r.pos, v))) with
      | some (pos, bs, bad) => ((bs.drop (m.pos - pos)).take k).map (fun b => (b, bad))
      | Option.none => []
    | _ => (d.homeMarked p.addr k).getD (List.replicate k (0, true))

/-- Writes and accesses for a scratchpad of a section in a clock switch wait for its end (R20). -/
def Dev.placeSwitches (d : Dev) : Place → Bool
  | .sp c _ => d.issueStopped (sectOf c)
  | _ => false

/-- What holds one piece up at its source (R315, R320; log entry 80). -/
def Dev.sourceStop (d : Dev) (n : Nat) (m : Move) : Place → Stop
  | .fab id _ =>
    match (d.eng n).readAt m.pos with
    | some r => if r.fault ≠ 0 then .fault r.fault else if r.data.isNone then .hold else .none
    | Option.none => if d.peerDead id then .fault 0x05 else .read
  | p => if d.placeSwitches p || d.repairing p.addr m.n then .hold else .none

/-- The bytes of a piece that one write carries, and what holds it up at its destination: a row of an intake needs a token (R322). -/
def Dev.destStop (d : Dev) (n : Nat) (m : Move) : Place → Nat × Stop
  | .fab id _ => (m.n, if d.peerDead id then .fault 0x05 else .none)
  | .sp c o =>
    (min m.n (128 - o % 128),
     if d.placeSwitches (.sp c o) then .hold else if (d.eng n).tokens.look c = 0 then .token c (rowSpan o m.n) else .none)
  | _ => (m.n, .none)

/-- k bytes of a piece are moved: written at their home, or sent to a peer; a token returns with the row it guards (R322). -/
def Dev.moveBytes (e : Env) (d : Dev) (n : Nat) (q : DmaEntry) (x : Desc) (m : Move) (k : Nat) (src dst : Place) : Dev :=
  let part := if q.kernel then 31 else q.part
  let bs := d.moveData (d.eng n) x m k src
  let bad := bs.any (fun b => b.2)
  let d := match dst with
    | .fab id o =>
      d.fabSend e id (.dma n (d.eng n).run m.pos) none
        { (d.packet id tWrite x.cls (d.tagOf q.kernel q.part) 0 k o (bs.map Prod.fst)) with status := b2n bad }
    | p => d.writeMarked p.addr part x.cls bs (k + 1)
  let d := (d.bump (DMA_BYTES.COUNT n) k).moved part k
  let y := d.eng n
  let tokens := match dst with | .sp c _ => y.tokens.put c (y.tokens.look c - 1) | _ => y.tokens
  d.setEng n { y with
    pos := m.pos + k, poison := y.poison || bad, tokens := tokens, reads := y.reads.filter (fun r => decide (m.pos + k < r.pos + r.len)) }

/-- One write of a piece, or what holds it up; second: the bytes moved (R319 step 3, R324). A piece that has been read is not checked
again at its source. -/
def Dev.moveStep (e : Env) (d : Dev) (n : Nat) (q : DmaEntry) (x : Desc) (m : Move) : Dev × Nat × Stop :=
  let d := if x.op = 1 && x.srcV then d.rtTouch (whoEngine n) x.asid m.src else d
  let d := if x.dstV then d.rtTouch (whoEngine n) x.asid m.dst else d
  let s :=
    if x.op ≠ 1 then .at' .unmapped
    else if ((d.eng n).readAt m.pos).any (fun r => r.data.isSome) then .at' (.fab 0 0)
    else d.side n q x.srcV x.asid m.src m.n kRead
  match s, d.side n q x.dstV x.asid m.dst m.n kWrite with
  | .miss va, _ => (d, 0, .miss va kRead)
  | .fault f, _ => (d, 0, .fault f)
  | _, .miss va => (d, 0, .miss va kWrite)
  | _, .fault f => (d, 0, .fault f)
  | .at' p, .at' r =>
    match if x.op = 1 then d.sourceStop n m p else .none, d.destStop n m r with
    | .none, (k, .none) =>
      let d := if x.op = 1 then d.takeHome e p.addr k (if q.kernel then 31 else q.part) x.cls else d
      if x.op = 1 && d.repairing p.addr k then (d, 0, .hold) else (d.moveBytes e n q x m k p r, k, .none)
    | .none, (_, t) => (d, 0, t)
    | t, _ => (d, 0, t)

/-- The moves go on up to a position, until something holds them up. `fuel`: at least the writes. -/
def Dev.moveLoop (e : Env) (n : Nat) (q : DmaEntry) (x : Desc) (limit : Nat) : Dev → List Move → Nat → Dev × Stop
  | d, [], _ | d, _ :: _, 0 => (d, .none)
  | d, m :: t, fuel + 1 =>
    if limit ≤ m.pos then (d, .none)
    else
      let r := d.moveStep e n q x m
      match r.2.2 with
      | .none => Dev.moveLoop e n q x limit r.1 (if r.2.1 < m.n then m.after r.2.1 :: t else t) fuel
      | s => (r.1, s)

/-- READs of the pieces whose source is at a peer, in order, as far as 64 KiB of responses are reserved (R315, R410). -/
def Dev.askReads (e : Env) (d : Dev) (n : Nat) (q : DmaEntry) (x : Desc) (l : List Move) : Dev :=
  l.foldl (fun d m =>
    match d.side n q x.srcV x.asid m.src m.n kRead with
    | .at' (.fab id o) =>
      let eng := d.eng n
      if (eng.readAt m.pos).isSome || decide (65536 < (eng.reads.map (fun r => r.len)).sum + m.n) || d.peerDead id then d
      else
        let r := d.newId
        let rd : DmaRead := { id := r.1, pos := m.pos, len := m.n, data := none, fault := 0 }
        let d := r.2.setEng n { eng with reads := eng.reads ++ [rd] }
        d.fabSend e id (.bind r.1) none (d.packet id tRead x.cls (d.tagOf q.kernel q.part) 0 m.n o [])
    | _ => d) d

/-- The moves of the running descriptor go on: to its end, or up to what holds it up; an abort stops it at a boundary of 128 bytes, open
which (R319 step 3, R324; log entry 91). -/
def Dev.descMove (e : Env) (d : Dev) (n : Nat) (q : DmaEntry) : Dev :=
  let x := d.eng n
  let z := descOf x.desc
  let f := if x.aborted then d.fresh else (0, d)
  let limit := if x.aborted then min z.total (roundUp x.pos 128 + 128 * f.1) else z.total
  let left := z.movesFrom x.pos
  let r := Dev.moveLoop e n q z limit f.2 left (34 * left.length + 1)
  let d := r.1
  let y := d.eng n
  let out := fun (state fault reqId : Nat) => ({ state := state, fault := fault, progress := y.pos, poison := y.poison, reqId := reqId } : DmaOut)
  if x.aborted then d.descEnd e n (out 3 0 0) true
  else
    match r.2 with
    | .none => d.descEnd e n (out 1 0 0) true
    | .fault f => d.descEnd e n (out 2 f 0) true
    | .miss va kinds => if x.denied = 0 then d.engMiss e n z.asid va kinds else d.descEnd e n (out 2 x.denied x.reqId) true
    | .hold => d
    | .read => d.askReads e n q z (z.movesFrom y.pos)
    | .token c want => d.askTokens n (y.tokens.look c) c want

/-- DMA_COMPLETE: the moves of the running descriptor are performed as far as they can be, and descriptors whose writes are all
performed complete (R319, R321, R324). -/
def execDmaComplete (engine : Nat) (s : State) : Host.Outcome State Fault Refusal :=
  s.onDev fun e d =>
    let d := d.endsSettle e engine ((d.eng engine).ends.length + 1)
    let x := d.eng engine
    match x.queue, x.st with
    | q :: _, .moving => d.descMove e engine q
    | _, _ => d

/-- Row buffers of a core's intake that are not granted (R322). -/
def Dev.intakeFree (d : Dev) (core : Nat) : Nat :=
  32 - (d.dma.engines.map (fun x => x.2.tokens.look core)).sum - ((List.range 2).map (fun u => d.edu.tokens.look (128 * u + core))).sum

/-- A mover of the Expert Dispatch Unit of half u as a requester of tokens. -/
def moverOf (u : Nat) : Nat := 64 + u

/-- What passed its checks while the host window of a port was usable, and now is overtaken by the link going down or by ENABLE being
cleared (R22): writes the port has not accepted are discarded; loads and atomics not yet answered, and the piece that an engine was
reading, come back as poison. -/
def Dev.windowLost (d : Dev) (n : Nat) : Dev :=
  let d := { d with mem := { d.mem with hostq := d.mem.hostq.filter (fun w => w.port != n) } }
  let lose := fun (a : Access) => { a with poison := a.poison ||| BitVec.ofNat 32 (maskOf ((a.host.filter (fun h => h.2 == n)).map (fun h => h.1))) }
  let d := { d with core := { d.core with groups := d.core.groups.map (fun (x : Nat × Group) =>
    if x.2.accs.any (fun a => a.host.any (fun h => h.2 == n)) then (x.1, { x.2 with accs := x.2.accs.map lose }) else x) } }
  (d.dma.engines.map (fun x => x.1)).foldl (fun d k =>
    let x := d.eng k
    match x.queue, x.st with
    | q :: _, .moving =>
      let z := descOf x.desc
      match if z.op = 1 then (z.movesFrom x.pos).head? else none with
      | some m =>
        match d.side k q z.srcV z.asid m.src m.n kRead with
        | .at' (.host p _) =>
          if p = n ∧ (x.readAt m.pos).isNone then
            d.setEng k { x with reads := x.reads ++ [{ id := 0, pos := m.pos, len := m.n, data := some (List.replicate m.n 0, true), fault := 0 }] }
          else d
        | _ => d
      | none => d
    | _, _ => d) d

/-- A function-level reset removes the engine's descriptors of a partition without a status (R326): the engine, and how many were
removed. -/
def Dev.engFlr (d : Dev) (n : Nat) (mine : DmaEntry → Bool) : Dev × Nat :=
  let x := d.eng n
  let out := x.ends.filter (fun h => mine h.entry)
  let gone := (x.queue.filter mine).length + out.length
  if gone = 0 then (d, 0)
  else
    let first := x.queue.head?.any mine
    let runs := out.map (fun h => h.run) ++ (if first && x.run != 0 then [x.run] else [])
    let d := d.unboard (fun i => runs.any (fun r => i == boardOf r || i == readBoardOf r))
    let d := if first then { d with dma := { d.dma with tokenReq := d.dma.tokenReq.filter (fun t => t.1 != n) } } else d
    let y := if first then x.clear else x
    let mineEnd := x.ends.head?.any (fun h => mine h.entry)
    (d.setEng n { y with queue := x.queue.filter (fun q => !mine q), ends := x.ends.filter (fun h => !mine h.entry),
                         endReq := if mineEnd then 0 else x.endReq, endDenied := x.endDenied && !mineEnd }, gone)

end Sys2Proof.Machine
end

