-- ==== Sys2Proof/Machine/RangeUnit.lean ====
section
/-! DEFINITION. The range translation unit (R327-R338): request records, replies, timeouts, invalidation, binding. -/

namespace Sys2Proof.Machine

/-- A posted write of the device to the host of a function; a port whose link is down accepts none (R22). -/
def Dev.postHost (d : Dev) (f bus : Nat) (bs : List Byte) : Dev :=
  if d.get (HOST_PORT.LINK_UP (portOf f)) = 1 then d.hostWrite (portOf f) bus bs else d

/-! Requests. -/

/-- Changes the pending request of a number. -/
def Dev.mapReq (d : Dev) (id : Nat) (g : RangeReq → RangeReq) : Dev :=
  { d with rt := { d.rt with reqs := d.rt.reqs.map (fun r => if r.id = id then g r else r) } }

/-- The 64 bytes of a request record (Table: Range request record). -/
def RangeReq.record (r : RangeReq) (prod size : Nat) : List Byte :=
  leBytes 8 (r.id % 2 ^ 32 + r.asid % 65536 * 2 ^ 32 + r.kinds % 8 * 2 ^ 48) ++ leBytes 8 r.page ++ leBytes 8 r.addr ++
  leBytes 8 (r.srcKind % 256 + r.srcIndex % 256 * 256) ++ leBytes 8 r.time ++ leBytes 8 0 ++ leBytes 8 0 ++
  leBytes 8 (prod % 2 ^ 32 + b2n (bit prod size) * 2 ^ 32)

/-- RANGE_REQUEST_RECORD: a pending request is written to its function's ring once there is room (R332). -/
def execRangeRequestRecord (reqId : Nat) (s : State) : Host.Outcome State Fault Refusal :=
  s.onDev fun _ d =>
    match d.rt.reqs.find? (fun r => r.id == reqId) with
    | none => d
    | some r =>
      let size := d.get (RT_RING_CTL.SIZE r.f)
      let prod := d.get (RT_RING_PROD.PROD r.f)
      let used := (prod + 2 ^ 32 - d.get (RT_RING_CONS.CONS r.f)) % 2 ^ 32
      if r.written ∨ d.get (RT_RING_CTL.ENABLE r.f) = 0 ∨ d.get (HOST_PORT.LINK_UP (portOf r.f)) = 0 then d
      else if 2 ^ size ≤ used then
        if r.counted then d else (d.mapReq reqId (fun r => { r with counted := true })).bump RT_STATS.RING_FULL 1
      else
        let d := d.postHost r.f (d.get (RT_RING_BASE.ADDR r.f) + 64 * (prod % 2 ^ size)) (r.record prod size)
        let d := d.incr (RT_RING_PROD.PROD r.f)
        (d.mapReq reqId (fun r => { r with written := true })).msix r.f (d.get (RT_RING_CTL.VECTOR r.f))

/-- How a request resolves: its waiters retry, or end with a translation fault, 3 refused and 4 timed out (R336). -/
inductive Resolve where
  | retry
  | fault (code : Nat)
deriving DecidableEq, Repr, Inhabited

/-- One waiter goes on. A refusal stays with a group until its instruction ends, whatever other requests resolve (R84, R336). -/
def Dev.resolveWaiter (d : Dev) (r : RangeReq) (how : Resolve) (w : Waiter) : Dev :=
  match w with
  | .group g =>
    let x := d.grp g
    if x.live && x.st == .translate && x.reqId == r.id then
      d.setGrp g { x with st := .run, denied := match how with | .retry => x.denied | .fault _ => some (r.page, r.id) }
    else d
  | .engine n =>
    let x := d.eng n
    if x.endReq == r.id then d.setEng n { x with endReq := 0, endDenied := x.endDenied || how != .retry }
    else if x.st == .waitTrans && x.reqId == r.id then
      d.setEng n { x with st := if x.desc.isEmpty then .idle else if x.started then .moving else .waitBoard, denied := match how with | .retry => 0 | .fault c => c }
    else d
  | .chanter c =>
    let x := d.ctx c
    if x.live && x.reqId == r.id then
      d.setCtx c { x with denied := match how with | .retry => x.denied | .fault _ => x.denied ++ [(r.page, r.id)] }
    else d

/-- A request leaves the table and its waiters go on. -/
def Dev.resolveReq (d : Dev) (r : RangeReq) (how : Resolve) : Dev :=
  let d := ({ d with rt := { d.rt with reqs := d.rt.reqs.filter (fun x => x.id != r.id) } } : Dev).rtSync
  r.waiters.foldl (fun d w => d.resolveWaiter r how w) d

/-- RANGE_REQUEST_TIMEOUT: a request with no committed reply resolves as refused (R334). -/
def execRangeRequestTimeout (reqId : Nat) (s : State) : Host.Outcome State Fault Refusal :=
  s.onDev fun e d =>
    match d.rt.reqs.find? (fun r => r.id == reqId) with
    | none => d
    | some r =>
      if r.time + 1000000 * max 1 (d.get RT_CTL.TIMEOUT_MS) ≤ e.time then
        (d.bump RT_STATS.TIMEOUTS 1).resolveReq r (.fault 4)
      else d

/-! Entries. -/

/-- Two entries of one ASID overlap. -/
def Range.overlaps (a b : Range) : Bool :=
  a.asid == b.asid && decide (a.vstart < b.vstart + b.len) && decide (b.vstart < a.vstart + a.len)

/-- Entries leave every cache. -/
def Dev.dropRanges (d : Dev) (p : Range → Bool) : Dev :=
  ({ d with rt := { d.rt with
      device := d.rt.device.filter (fun r => !p r),
      caches := d.rt.caches.map (fun c => (c.1, c.2.filter (fun r => !p r))) } } : Dev).rtSync

/-- A list without its last element that a test holds of. -/
def dropLastWhere {α : Type} (p : α → Bool) : List α → List α
  | [] => []
  | x :: t => if t.any p then x :: dropLastWhere p t else if p x then t else x :: t

/-- An entry is installed: overlapped entries go, at most 1,024 stay pinned, the least recently used unpinned one makes room
(R328, R329). -/
def Dev.install (d : Dev) (r : Range) : Dev :=
  let d := d.dropRanges r.overlaps
  let full := decide (1024 ≤ (d.rt.device.filter (fun x => x.pin)).length)
  let d := if r.pin && full then d.bump RT_STATS.PIN_REFUSED 1 else d
  let all := { r with pin := r.pin && !full } :: d.rt.device
  let kept := if 4096 < all.length then dropLastWhere (fun x => !x.pin) all else all
  ({ d with rt := { d.rt with device := kept } } : Dev).rtSync

/-- The entry of a reply's words (Table: Range entry). -/
def rangeOf (w0 w1 w2 w3 : Nat) : Range :=
  { vstart := w0, len := w1, pstart := w2, asid := bits w3 0 16, r := bit w3 16, w := bit w3 17, x := bit w3 18, cls := bits w3 19 2,
    pin := bit w3 21 }

/-- The fields of a reply meet R327. -/
def replyLegal (w0 w1 w2 w3 : Nat) : Bool :=
  w0 % 4096 == 0 && decide (w0 < 2 ^ 57) && w1 % 4096 == 0 && decide (4096 ≤ w1) && decide (w1 ≤ 2 ^ 48) &&
  decide (w0 + w1 ≤ 2 ^ 57) && w2 % 4096 == 0 && bits w3 19 2 != 3 && decide (bits w3 22 2 < 2) && bits w3 24 8 == 0

/-- A range of local or fabric addresses lies within what a partition may reach, to write where the
range allows it (R333, R444, R450). -/
def Dev.rangeReach (d : Dev) (part a n : Nat) (write : Bool) : Bool :=
  let g : Agent := { kernel := false, part := part, dma := false, march := false }
  match d.place a with
  | .hbm x =>
    decide (x + n ≤ d.capacity) &&
    (List.range (shareOf (x + n - 1) - shareOf x + 1)).all (fun i => d.hbmAdmits g ((shareOf x + i) * shareBytes) write)
  | .sp c o => decide (o + n ≤ spSize) && d.spAdmits g c o n
  | .ses x => decide (x + n ≤ sesEnd) && (List.range (n / 1024)).all (fun i => d.sesAdmits g (x + 1024 * i))
  | .fab _ o => decide (o + n ≤ 2 ^ 40)
  | .host _ _ | .unmapped => false

/-- RT_REPLY_STATUS after a commit. -/
def Dev.replyResult (d : Dev) (f r : Nat) : Dev := (d.put (RT_REPLY_STATUS.RESULT f) r).incr (RT_REPLY_STATUS.SEQ f)

/-- A reply of function f is committed (R333, R334, R336). -/
def Dev.replyCommit (d : Dev) (f : Nat) : Dev :=
  let w := fun (j : Nat) => (d.rt.reply.look (f * 4 + j)).toNat
  let w3 := w 3
  let id := bits w3 32 32
  let req := d.rt.reqs.find? (fun r => r.id == id && r.f == f)
  let x := rangeOf (w 0) (w 1) (w 2) w3
  let grant := bits w3 22 2 == 0
  if id ≠ 0 ∧ req = none then d.replyResult f 1
  else if req.any (fun r => r.stale) then
    match req with
    | some r => ((d.replyResult f 4).bump RT_STATS.STALE 1).resolveReq r .retry
    | none => d
  else if !replyLegal (w 0) (w 1) (w 2) w3 || !(d.asidBound x.asid && d.asidFunc x.asid == f) then d.replyResult f 2
  else if grant && !d.rangeReach (d.asidPart x.asid) x.pstart x.len x.w then d.replyResult f 3
  else
    let d := d.replyResult f 0
    let d := if grant then d.install x else d
    match req with
    | some r => d.resolveReq r (if grant then .retry else .fault 3)
    | none => d

/-- RT_REPLY_COMMIT: word 3 of a reply is written; it commits (R333). -/
def execRtReplyCommit (f : Nat) (word3 : DWord) (s : State) : Host.Outcome State Fault Refusal :=
  s.onDev fun _ d => ({ d with rt := { d.rt with reply := d.rt.reply.put (f * 4 + 3) word3 } } : Dev).replyCommit f

/-! Invalidation. -/

/-- The partition's accesses, and those of agents of kernel queues, which may use any ASID: what an invalidation waits for of stores and
requests on their way. DEDUCED: they do not carry their ASID, so it waits for a few more (log entry 98). -/
def Dev.asidPartOr (d : Dev) (asid p : Nat) : Bool := p == d.asidPart asid || p == 31

/-- Accesses and requests in flight for an ASID: loads of its launches, and requests that may have been translated under it (R337). -/
def Dev.asidInFlight (d : Dev) (asid : Nat) : List Nat :=
  d.core.groups.flatMap (fun x => if (d.launchOf x.2.launch).asid = asid then (x.2.accs.filter (fun a => !a.waits.isEmpty)).map (fun a => a.id) else []) ++
  (d.mem.l2q.filter (fun r => d.asidPartOr asid r.part)).map (fun r => r.id) ++
  ((d.mem.lz ++ d.mem.port).filter (fun z => d.asidPartOr asid z.part)).map (fun z => z.id) ++
  (d.ses.queue.filter (fun o => (d.launchOf o.src.launch).asid == asid)).map (fun o => o.id)

/-- Packets in flight that may have been translated under an ASID: under its partition's tag, or under none; neither acknowledged nor
lost. -/
def Dev.asidPackets (d : Dev) (asid : Nat) : List (Nat × Nat) :=
  let tag := d.tagOf false (d.asidPart asid)
  (d.outstanding.filter (fun x => !x.2.acked && (x.2.pkt.tenant == tag || x.2.pkt.tenant == 0))).map (fun x => (x.1, x.2.pkt.psn))

/-- Every entry and request of an ASID: entries go, requests become stale (R337 steps 1 and 2). -/
def Dev.asidDrop (d : Dev) (asid : Nat) : Dev :=
  let d := d.dropRanges (fun r => r.asid == asid)
  { d with rt := { d.rt with reqs := d.rt.reqs.map (fun r => if r.asid = asid then { r with stale := true } else r) } }

/-- The first invalidation of each register begins (R337): BUSY of its function is set. -/
def Dev.invalBegin (d : Dev) (f : Nat) : Dev :=
  match d.rt.inval.find? (fun i => i.f == f) with
  | none => if f < 32 then d.put (RT_INVAL_STATUS.BUSY f) 0 else d
  | some i =>
    if i.begun then d
    else
      let i' := { i with begun := true, ids := d.asidInFlight i.asid, pkts := d.asidPackets i.asid }
      let rest := d.rt.inval.erase i
      let d := { d with rt := { d.rt with inval := i' :: rest } }
      let d := if f < 32 then d.put (RT_INVAL_STATUS.BUSY f) 1 else d
      d.asidDrop i.asid

/-- An invalidation joins the queue of its register. -/
def Dev.invalPush (d : Dev) (f asid : Nat) (rebind : Option DWord) : Dev :=
  let i : RtInvalidation := { f := f, asid := asid, rebind := rebind, begun := false, ids := [], pkts := [] }
  ({ d with rt := { d.rt with inval := d.rt.inval ++ [i] } } : Dev).invalBegin f

/-- A write to RT_INVAL of function f: from the function bound to the ASID, the control owner, a kernel queue or Bassoon (R337). -/
def Dev.wrRtInval (d : Dev) (src : Src) (f v : Nat) : Dev :=
  let asid := bits v 0 16
  let may := match src with
    | .host h => d.isOwner h || (d.asidBound asid && d.asidFunc asid == h)
    | .queue _ | .bassoon => true
  if may then (d.note (RT_INVAL.off f) v).invalPush f asid none else d

/-- RT_INVAL. -/
def execRtInval (src : Src) (f : Nat) (value : DWord) (s : State) : Host.Outcome State Fault Refusal :=
  s.onDev fun _ d => d.wrRtInval src f value.toNat

/-- Everything that was in flight when the invalidation began has been performed or lost. -/
def Dev.invalReady (d : Dev) (i : RtInvalidation) : Bool :=
  let now := d.asidInFlight i.asid
  i.begun && i.ids.all (fun k => !now.contains k) &&
  i.pkts.all (fun p => !d.outstanding.any (fun x => x.1 == p.1 && x.2.pkt.psn == p.2 && !x.2.acked))

/-- RT_INVAL_COMPLETE: the oldest invalidation whose accesses are all performed completes; a rebinding takes effect with the ASID
invalidated once more, and the next invalidation of the register begins (R331, R337). -/
def execRtInvalComplete (s : State) : Host.Outcome State Fault Refusal :=
  s.onDev fun _ d =>
    match d.rt.inval.find? d.invalReady with
    | none => d
    | some i =>
      let d := { d with rt := { d.rt with inval := d.rt.inval.erase i } }
      let d := match i.rebind with
        | some v =>
          let d := d.asidDrop i.asid
          { d with rt := { d.rt with bound := d.rt.bound.put i.asid v } }
        | none => d.incr (RT_INVAL_STATUS.SEQ i.f)
      d.invalBegin i.f

/-- A write to RT_ASID: an ASID that was bound is invalidated before its new binding takes effect (R331). -/
def Dev.wrRtAsid (e : Env) (d : Dev) (src : Src) (a v : Nat) : Dev :=
  let nv := v % 2048
  d.guardOwn e src (RT_ASID.off a) (bits (d.reg (RT_ASID.off a)) 0 11 != nv) fun d =>
    let d := d.setReg (RT_ASID.off a) nv
    if d.asidBound a || d.rt.inval.any (fun i => i.asid == a && i.rebind.isSome) then d.invalPush 32 a (some (BitVec.ofNat 64 nv))
    else { d with rt := { d.rt with bound := d.rt.bound.put a (BitVec.ofNat 64 nv) } }

/-- RT_ASID_WRITE. -/
def execRtAsidWrite (src : Src) (a : Nat) (value : DWord) (s : State) : Host.Outcome State Fault Refusal :=
  s.onDev fun e d => d.wrRtAsid e src a value.toNat

end Sys2Proof.Machine
end

