-- ==== Sys2Proof/Machine/EduOps.lean ====
section
/-! DEFINITION. The Expert Dispatch Unit: tickets, descriptors, tokens and their weights, expert tables, what its agents reach
(R167-R181, R191-R193). Its addresses are local or fabric addresses: no field of a descriptor names an address space (log entry
27). -/

namespace Sys2Proof.Machine

/-! Registers and tickets. -/

/-- The instance of a context (R167). -/
def instOf (c : Nat) : Nat := c / 32

/-- A ticket word (R170): entry, instance, sequence number. -/
def ticketWord (u entry seq : Nat) : Nat := entry % 256 + u % 2 * 256 + seq % 65536 * 65536

/-- Changes a ticket unless its entry has been reused (R171). -/
def Dev.mapTicket (d : Dev) (t : Nat) (f : Ticket → Ticket) : Dev :=
  let k := t % 512
  let x := d.edu.tickets.look k
  if x.seq = t / 65536 then { d with edu := { d.edu with tickets := d.edu.tickets.put k (f x) } } else d

/-- The status word of a ticket (R171). -/
def Dev.ticketStatus (d : Dev) (t : Nat) : Nat :=
  let k := t % 512
  let x := d.edu.tickets.look k
  if d.edu.tickets.any (fun p => p.1 == k) && x.seq == t / 65536 % 65536 then x.state + x.gen * 256 + x.fault * 65536 else 7

/-- A new ticket of an instance, entries in rotation (R170). -/
def Dev.newTicket (d : Dev) (u : Nat) : Nat × Dev :=
  let n := d.edu.nextEntry.look u % 256
  let q := (d.edu.nextSeq.look u + 1) % 65536
  let x : Ticket := { seq := q, state := 0, gen := 0, fault := 0 }
  (ticketWord u n q,
   { d with edu := { d.edu with
       nextEntry := d.edu.nextEntry.put u (n + 1), nextSeq := d.edu.nextSeq.put u q,
       tickets := d.edu.tickets.put (256 * u + n) x } })

/-- A context. -/
def Dev.ectx (d : Dev) (c : Nat) : EduCtx := d.edu.ctxs.look c

/-- Replaces a context. -/
def Dev.setEctx (d : Dev) (c : Nat) (x : EduCtx) : Dev := { d with edu := { d.edu with ctxs := d.edu.ctxs.put c x } }

/-- The state of a context. -/
def Dev.ectxState (d : Dev) (c : Nat) : Nat := d.get (CTX_STATE.STATE c)

/-- EDU_STATUS follows the queue and the contexts of an instance (R193). -/
def Dev.eduSync (d : Dev) (u : Nat) : Dev :=
  let n := ((List.range 32).filter (fun i => d.ectxState (32 * u + i) != 0)).length
  (d.put (EDU_STATUS.QUEUE u) (d.edu.queue.look u).length).put (EDU_STATUS.ACTIVE u) n

/-! Descriptors. -/

/-- n bytes of a descriptor as a number. -/
def EduDesc.num (x : EduDesc) (off n : Nat) : Nat := leOf ((x.bytes.drop off).take n)

/-- A field of a word of a descriptor. -/
def EduDesc.fld (x : EduDesc) (off lo w : Nat) : Nat := bits (x.num off 8) lo w

def EduDesc.op (x : EduDesc) : Nat := x.num 0 1
def EduDesc.ctxNo (x : EduDesc) : Nat := x.fld 0 8 6

/-- The fields of a ROUTE descriptor (Table: ROUTE descriptor). -/
structure RouteDesc where
  e : Nat
  k : Nat
  t : Nat
  gate : Nat
  order : Bool
  ovf : Bool
  stream : Bool
  combine : Bool
  rfmt : Bool
  ofmt : Bool
  cap : Nat
  rowBytes : Nat
  src : Nat
  stride : Nat
  width : Nat
  table : Nat
  routeOut : Nat
  out : Nat
  doneSem : Nat
  rsv : Bool
deriving DecidableEq, Repr, Inhabited

/-- A ROUTE descriptor's fields. -/
def routeFields (bs : List Byte) : RouteDesc :=
  let x : EduDesc := { bytes := bs, ticket := 0, kernel := false, part := 0, owner := 31, stamp := 0 }
  let h := x.num 0 8
  let t := bits h 32 12 + 1
  let cap := bits (x.num 8 4) 0 13
  { e := bits h 16 10 + 1, k := bits h 26 3 + 1, t := t, gate := bits h 44 2, order := bit h 46, ovf := bit h 47, stream := bit h 48,
    combine := bit h 49, rfmt := bit h 50, ofmt := bit h 51, cap := if cap = 0 then t else cap, rowBytes := x.num 0x0C 4,
    src := x.num 0x10 8, stride := x.num 0x18 4, width := x.num 0x1C 4, table := x.num 0x20 8, routeOut := x.num 0x28 8,
    out := x.num 0x30 8, doneSem := x.num 0x38 8,
    rsv := bits h 14 2 != 0 || bits h 29 3 != 0 || bits h 52 12 != 0 || bits (x.num 8 4) 13 19 != 0 || decide (4096 < cap) }

/-- The ROUTE of a context. -/
def EduCtx.route (x : EduCtx) : RouteDesc := routeFields x.desc

/-- The agent of a context or descriptor. -/
def eduAgent (kernel : Bool) (part : Nat) : Agent := { kernel := kernel, part := part, dma := false, march := false }

/-- The ROUTE waiting in a queue for a context: it holds the context from its submission (Design: a ROUTE is accepted as soon as
DSP.SUBMIT completes). -/
def Dev.routeQueued (d : Dev) (c : Nat) : Bool :=
  ((d.edu.queue.look 0) ++ (d.edu.queue.look 1)).any (fun x => x.op == 1 && x.ctxNo == c)

/-- Free combine accumulators of an instance, those of waiting ROUTEs taken off (R172). -/
def Dev.storeFree (d : Dev) (u : Nat) : Nat :=
  let want := (((d.edu.queue.look 0) ++ (d.edu.queue.look 1)).filter (fun x => x.op == 1 && instOf x.ctxNo == u)).map (fun x =>
    let r := routeFields x.bytes
    if r.combine then r.t * r.width else 0)
  d.get (EDU_STATUS.STORE_FREE u) - want.sum

/-- The owner of a context as it stands for a new descriptor, 31 where none: that of its ROUTE, taken up or queued; else the register's
(R193). -/
def Dev.ectxOwner (d : Dev) (c : Nat) : Nat :=
  let o :=
    if d.ectxState c != 0 then (d.ectx c).part
    else
      match ((d.edu.queue.look 0) ++ (d.edu.queue.look 1)).find? (fun x => x.op == 1 && x.ctxNo == c) with
      | some x => x.owner
      | none => d.get (CTX_OWNER.PART c)
  if o < 16 then o else 31

/-- The submitter may name the context (R172). -/
def Dev.ectxMine (d : Dev) (x : EduDesc) : Bool :=
  let o := d.ectxOwner x.ctxNo
  if o = 31 then x.kernel else x.part == o

/-- An address of a descriptor names a resource its submitter reaches (R172). -/
def Dev.eduAddrOk (d : Dev) (x : EduDesc) (a : Nat) (write : Bool) : Bool :=
  let p := d.place a
  p != .unmapped && d.admits (eduAgent x.kernel x.part) p 1 write

/-- A semaphore, local or of a peer. -/
def Dev.isSemaphore (d : Dev) (a : Nat) : Bool :=
  match (d.place a).sesWord with
  | some (.sem _) => true
  | _ => false

/-- A semaphore of a descriptor; 0 means none. -/
def Dev.eduSemOk (d : Dev) (x : EduDesc) (a : Nat) : Bool := a == 0 || (d.isSemaphore a && d.eduAddrOk x a true)

/-- The checks of a ROUTE (R172): of every address that it holds, OUT as well where nothing is combined. -/
def Dev.routeOk (d : Dev) (x : EduDesc) : Bool :=
  let r := routeFields x.bytes
  !r.rsv && r.rowBytes % 16 == 0 && decide (16 ≤ r.rowBytes) && decide (r.rowBytes ≤ 65536) && r.stride % 16 == 0 &&
  decide (r.rowBytes ≤ r.stride) && r.src % 16 == 0 && r.table % 32 == 0 && r.routeOut % 64 == 0 && r.out % 16 == 0 &&
  (if r.combine then decide (1 ≤ r.width) && decide (r.width ≤ 16384) else r.width == 0) &&
  d.eduAddrOk x r.src false && d.eduAddrOk x r.table false && d.eduAddrOk x r.routeOut true &&
  d.eduAddrOk x r.out true && d.eduSemOk x r.doneSem &&
  d.ectxState x.ctxNo == 0 && !d.routeQueued x.ctxNo && d.ectxMine x &&
  decide (r.k ≤ r.e) && (!r.ovf || decide (r.k + 1 ≤ r.e)) &&
  (!r.combine || decide (r.t * r.width ≤ d.storeFree (instOf x.ctxNo)))

/-- The descriptor passes the checks of R172. -/
def Dev.eduOk (d : Dev) (x : EduDesc) : Bool :=
  let zero := fun (off n : Nat) => x.num off n == 0
  match x.op with
  | 1 => d.routeOk x
  | 2 =>
    x.fld 0 9 7 == 0 && x.fld 0 48 16 == 0 && zero 0x0C 4 && zero 0x24 4 && zero 0x30 16 &&
    decide (1 ≤ x.num 8 4) && decide (x.num 8 4 ≤ 16384) && x.num 0x18 8 % 16 == 0 && x.num 0x20 4 % 16 == 0 &&
    d.eduAddrOk x (x.num 0x10 8) false && d.eduAddrOk x (x.num 0x18 8) false && d.eduSemOk x (x.num 0x28 8) &&
    (match d.place (x.num 0x28 8) with | .fab _ _ => false | _ => true)
  | 3 =>
    x.fld 0 14 2 == 0 && x.fld 0 60 4 == 0 && zero 0x14 44 && x.num 0x10 4 % 4 == 0 && d.eduAddrOk x (x.num 8 8) false &&
    d.ectxMine x && (d.ectxState x.ctxNo == 1 || d.routeQueued x.ctxNo)
  | 4 => x.fld 0 14 2 == 0 && x.fld 0 24 40 == 0 && zero 8 56 && d.ectxMine x
  | _ => false

/-! Reads of the unit. -/

/-- What a read of the unit finds: bytes, each with its mark of poison (R192), or a FAULT code (R171). -/
inductive EduRead where
  | ok (bs : List (Byte × Bool))
  | bad (fault : Nat)
deriving DecidableEq, Repr, Inhabited

/-- Some byte of a run carries poison. -/
def anyMark (bs : List (Byte × Bool)) : Bool := bs.any (fun b => b.2)

/-- A read of local memory by the unit (R167, R202, R330). -/
def Dev.eduRead (d : Dev) (g : Agent) (a n : Nat) : EduRead :=
  match d.place a with
  | .unmapped | .fab _ _ => .bad 1
  | .ses _ => .bad 2
  | p =>
    if !d.admits g p n false then .bad 2
    else match d.homeMarked a n with
      | some bs => .ok bs
      | none => .bad 1

/-- What a read of the unit does at the memories, on the account of an owner: their checks, the sectors that the L2 takes in the normal
class (R237, R240, R247). -/
def Dev.eduTake (e : Env) (d : Dev) (part a n : Nat) : Dev := d.takeHome e a n part 1

/-- The fault of a write of n bytes, 0 where it may be performed or sent. -/
def Dev.eduWriteFault (d : Dev) (g : Agent) (a n : Nat) : Nat :=
  match d.place a with
  | .unmapped => 1
  | .ses _ => 2
  | .fab _ _ => 0
  | p => if !d.admits g p n true then 2 else if (d.homeBytes a n).isNone then 1 else 0

/-- The peer of an address, none where it is local. -/
def Dev.peerOf (d : Dev) (a : Nat) : Option Nat :=
  match d.place a with
  | .fab id _ => some id
  | _ => none

/-! Scores and weights (R174-R177). -/

/-- The value a score ranks by: NaN as minus infinity (R176). -/
def rankKey (w : Word) : FVal :=
  match fp32.decode w.toNat with
  | .nan => .inf true
  | v => v

/-- The order of ranks: higher score first, then the lower expert. -/
def ranksBefore (a b : Nat × Word) : Bool :=
  match (rankKey a.2).cmp (rankKey b.2) with
  | .gt => true
  | .lt => false
  | .eq => decide (a.1 < b.1)

/-- Inserts an entry by rank. -/
def rankInsert (x : Nat × Word) : List (Nat × Word) → List (Nat × Word)
  | [] => [x]
  | y :: t => if ranksBefore x y then x :: y :: t else y :: rankInsert x t

/-- The exponential of the unit (R177; log entry 12). -/
def eduExp (x : Nat) : Nat := exp32 x

def fadd32 (a b : Nat) : Nat := (fp32.op .add 0 false a b 0).1
def fsub32 (a b : Nat) : Nat := (fp32.op .sub 0 false a b 0).1
def fmul32 (a b : Nat) : Nat := (fp32.op .mul 0 false a b 0).1

/-- The quotient of two values, to more bits than any format rounds to, with a sticky bit. -/
def FVal.div : FVal → FVal → FVal
  | .nan, _ => .nan
  | _, .nan => .nan
  | .inf _, .inf _ => .nan
  | .inf s, .fin t _ _ => .inf (s != t)
  | .fin s _ _, .inf t => .fin (s != t) 0 0
  | .fin s m x, .fin t n y =>
    if n = 0 then (if m = 0 then .nan else .inf (s != t))
    else
      let q := m * 2 ^ 64 / n
      .fin (s != t) (2 * q + b2n (m * 2 ^ 64 % n != 0)) (x - y - 65)

/-- A quotient in FP32, to nearest even. -/
def fdiv32 (a b : Nat) : Nat := (fp32.encode 0 false ((fp32.decode a).div (fp32.decode b))).1

/-- One in FP32. -/
def one32 : Nat := 0x3F800000

/-- The sigmoid (R177). -/
def sigmoid32 (s : Nat) : Nat := fdiv32 one32 (fadd32 one32 (eduExp (s ^^^ 0x80000000)))

/-- A token takes a score of an expert (R174-R177): its best k + 1, the maximum and the online sum. -/
def Token.take (t : Token) (k expert : Nat) (v : Word) : Token :=
  let best := (rankInsert (expert, v) (t.best.filter (fun x => x.1 != expert))).take (k + 1)
  let s := v.toNat
  let m := t.max.toNat
  let above := (rankKey v).cmp (rankKey t.max) == .gt
  let r : Nat × Nat :=
    if !t.started then (s, eduExp (fsub32 s s))
    else if above then (s, fadd32 (fmul32 t.sum.toNat (eduExp (fsub32 m s))) (eduExp (fsub32 s s)))
    else (m, fadd32 t.sum.toNat (eduExp (fsub32 s m)))
  { t with count := t.count + 1, best := best, started := true, max := BitVec.ofNat 32 r.1, sum := BitVec.ofNat 32 r.2 }

/-- The k weights of a complete token (R177). -/
def Token.weights (t : Token) (gate k : Nat) : List Nat :=
  let ss := (t.best.take k).map (fun x => x.2.toNat)
  let m := t.max.toNat
  let tops :=
    match gate with
    | 0 | 1 => ss.map (fun s => eduExp (fsub32 s m))
    | 2 => ss.map sigmoid32
    | _ => ss
  if gate = 3 then ss
  else
    let den := if gate = 0 then t.sum.toNat else (tops.drop 1).foldl fadd32 (tops.headD 0)
    match fp32.decode den with
    | .fin _ n _ => if n = 0 then ss.map (fun _ => 0) else tops.map (fun x => fdiv32 x den)
    | _ => ss.map (fun _ => 0)

/-! The expert table (R181). -/

/-- An expert-table entry. -/
structure TableEntry where
  dest : Nat
  recs : Nat
  sem : Nat
  dstride : Nat
  present : Bool
  cap : Nat
deriving DecidableEq, Repr, Inhabited

/-- The entry of 32 bytes. -/
def entryOf (bs : List Byte) : TableEntry :=
  let n := fun (o k : Nat) => leOf ((bs.drop o).take k)
  { dest := n 0 8, recs := n 8 8, sem := n 0x10 8, dstride := n 0x18 4, present := bit (n 0x1C 4) 0, cap := bits (n 0x1C 4) 1 13 }

/-- Reading an entry (R181, R191): the entry, or a FAULT code and the address at fault. -/
def Dev.readEntry (d : Dev) (c e : Nat) : Sum TableEntry (Nat × Nat) × List Byte :=
  let x := d.ectx c
  let g := eduAgent x.kernel x.part
  let a := x.route.table + 32 * e
  match d.eduRead g a 32 with
  | .bad f => (.inr (f, a), [])
  | .ok ms =>
    let bs := ms.map Prod.fst
    let t := entryOf bs
    let bad := fun (v : Nat) (sem : Bool) =>
      let p := d.place v
      if p = .unmapped then 1 else if (sem && !d.isSemaphore v) || !d.admits g p 1 true then 2 else 0
    if anyMark ms then (.inr (3, a), bs)
    else if !t.present then (.inl t, bs)
    else if bad t.dest false ≠ 0 then (.inr (bad t.dest false, t.dest), bs)
    else if bad t.recs false ≠ 0 then (.inr (bad t.recs false, t.recs), bs)
    else if bad t.sem true ≠ 0 then (.inr (bad t.sem true, t.sem), bs)
    else (.inl t, bs)

end Sys2Proof.Machine
end

