-- ==== Sys2Proof/Machine/EduMove.lean ====
section
/-! DEFINITION. The movers of the Expert Dispatch Unit (R182, R183, R190-R192, R322) and how contexts end. An instance's movers do one
piece of work after the other. DESIGN CHOICE: in the order in which it arises (log entry 94). -/

namespace Sys2Proof.Machine

/-! Ends and faults of contexts. -/

/-- The granted assignments of a context whose return is still expected (R187). -/
def EduCtx.expected (x : EduCtx) : Nat :=
  if x.route.combine && x.ended.isNone then
    (x.assigns.filter (fun a => (a.2.status == 1 || a.2.status == 2) && !a.2.combined)).length
  else 0

/-- Every expert of a context is closed. -/
def EduCtx.allClosed (x : EduCtx) : Bool := x.granted && (List.range x.route.e).all (fun e => (x.experts.look e).closed)

/-- The registers of a context follow it; with its last expert closed a combining context enters RETURNING (R169). -/
def Dev.ectxSync (d : Dev) (c : Nat) : Dev :=
  let x := d.ectx c
  let st := d.ectxState c
  let d := d.put (CTX_STATE.PENDING c) (if st = 0 then 0 else x.expected)
  if st = 2 ∧ x.allClosed ∧ x.expected ≠ 0 then d.put (CTX_STATE.STATE c) 3 else d

/-- Key of an assignment. -/
def asgKey (t r : Nat) : Nat := 8 * t + r

/-- Changes an assignment. -/
def Dev.mapAsg (d : Dev) (c k : Nat) (f : Assign → Assign) : Dev :=
  let x := d.ectx c
  d.setEctx c { x with assigns := x.assigns.put k (f (x.assigns.look k)) }

/-- The movers' work of an instance. -/
def Dev.setJobs (d : Dev) (u : Nat) (js : List EduJob) : Dev := { d with edu := { d.edu with jobs := d.edu.jobs.put u js } }

/-- A granted assignment whose row is not moved is as if it had never been granted: no slot, not in the count of its expert. DEDUCED: the
count word gives what was written, and entries never granted read STATUS 2 (R189; log entry 95). -/
def Dev.ungrant (d : Dev) (c k : Nat) : Dev :=
  let x := d.ectx c
  let a := x.assigns.look k
  let y := x.experts.look a.expert
  d.setEctx c { x with
    assigns := x.assigns.put k { a with status := 0, slot := 0 }, experts := x.experts.put a.expert { y with slots := y.slots - 1 } }

/-- The rows of a context that its movers have not begun. -/
def EduJob.rowOf (c : Nat) : EduJob → Option Nat
  | .row b k => if b = c then some k else none
  | _ => none

/-- A context ends before its time: no further grant, no row that has not begun to move; ended as under R189. -/
def Dev.ectxEnd (d : Dev) (c how fault addr : Nat) : Dev :=
  let x := d.ectx c
  if d.ectxState c = 0 ∨ x.ended.isSome ∨ x.written then d
  else
    let js := d.edu.jobs.look (instOf c)
    let d := d.setJobs (instOf c) (js.filter (fun j => (j.rowOf c).isNone))
    let d := (js.filterMap (EduJob.rowOf c)).foldl (fun d k => d.ungrant c k) d
    let d := d.setEctx c { d.ectx c with ended := some how, fault := fault, faultAddr := addr, granted := true }
    ((d.put (CTX_STATE.STATE c) 2).mapTicket x.ticket (fun t => { t with fault := fault })).ectxSync c

/-- A context faults (R191). -/
def Dev.ectxFault (e : Env) (d : Dev) (c fault addr : Nat) : Dev :=
  let x := d.ectx c
  if d.ectxState c = 0 ∨ x.ended.isSome ∨ x.written then d
  else (d.ectxEnd c 3 fault addr).postP e 0x24 x.part [addr]

/-! Rows (R182, R183, R190, R192). -/

/-- An assignment is lost to a dead peer (R190). -/
def Dev.loseAsg (d : Dev) (c k : Nat) : Dev :=
  let x := d.ectx c
  let a := x.assigns.look k
  let d := d.mapAsg c k (fun a => { a with status := 4, acked := true })
  let d := d.bump (CTX_COUNTS.LOST c) 1
  let y := d.ectx c
  d.setEctx c { y with experts := y.experts.put a.expert { y.experts.look a.expert with closed := true } }

/-- A row and its record are acknowledged: with STREAM the expert's semaphore gets its add (R183). -/
def Dev.rowAcked (e : Env) (d : Dev) (c k : Nat) : Dev :=
  let x := d.ectx c
  let a := x.assigns.look k
  if a.acked then d
  else
    let d := d.mapAsg c k (fun a => { a with acked := true })
    if x.route.stream then
      d.signal e (.edu (instOf c)) .other x.part x.kernel (entryOf (x.experts.look a.expert).entry).sem 1
    else d

/-- A slot record (R182). -/
def Dev.slotRecord (d : Dev) (c t r : Nat) (a : Assign) (poison : Bool) : List Byte :=
  leBytes 4 (d.fabId % 2 ^ 20 + c * 2 ^ 20) ++
  leBytes 4 (t + r * 2 ^ 12 + b2n (a.status == 2) * 2 ^ 15 + d.get (CTX_STATE.GEN c) * 2 ^ 16 + b2n poison * 2 ^ 24) ++
  leBytes 4 a.weight.toNat ++ leBytes 4 a.expert

/-- DSP_WRITE segments of a row, the slot record on the last; each carries the mark of its own bytes (R390, R412, R453). `fuel`: at least
the segments. -/
def Dev.sendRow (e : Env) (d : Dev) (id : Nat) (own : FabOwner) (tenant dest recAddr segs : Nat) (rec : List Byte) :
    Nat → List (Byte × Bool) → Nat → Dev
  | _, _, 0 => d
  | seg, bs, fuel + 1 =>
    let last := decide (segs ≤ seg + 1)
    let now := bs.take 8192
    let body := now.map Prod.fst ++ (if last then rec else [])
    let p := { (d.packet id tDspWrite 1 tenant 0 body.length dest body) with
      status := b2n (anyMark now), exth := seg + segs * 256 + recAddr * 2 ^ 64 }
    let d := d.fabSend e id own none p
    if last then d else Dev.sendRow e d id own tenant (dest + 8192) recAddr segs rec (seg + 1) (bs.drop 8192) fuel

/-- WRITE packets of at most 8,192 bytes (R410), each with the mark of its own bytes (R453). `fuel`: at least their number. -/
def Dev.writeFab (e : Env) (d : Dev) (id : Nat) (own : FabOwner) (tenant a : Nat) (bs : List (Byte × Bool)) : Nat → Dev
  | 0 => d
  | fuel + 1 =>
    if bs.isEmpty then d
    else
      let now := bs.take 8192
      let d := d.fabSend e id own none { (d.packet id tWrite 1 tenant 0 now.length a (now.map Prod.fst)) with status := b2n (anyMark now) }
      Dev.writeFab e d id own tenant (a + now.length) (bs.drop 8192) fuel

/-! The movers' work. -/

/-- The write or row of a piece of work. -/
def EduJob.owner : EduJob → FabOwner
  | .row c k => .row c k
  | .write own _ _ _ _ => own

/-- Writes of an owner wait for the movers or for acknowledgement. -/
def Dev.eduPending (d : Dev) (own : FabOwner) : Bool :=
  d.fabPending (fun o => o == own) || (d.edu.jobs.look 0 ++ d.edu.jobs.look 1).any (fun j => j.owner == own)

/-- The writes of an owner may all be performed: a row with its record is then acknowledged (R183). -/
def Dev.eduSettled (e : Env) (d : Dev) (own : FabOwner) : Dev :=
  match own with
  | .row c k => if d.eduPending own then d else d.rowAcked e c k
  | _ => d

/-- The row and the record of a granted assignment are read, and become writes (R182, R192); a dead peer's is lost (R190); an address
that names no resource or is not reached faults the context (R191, R202). Second: the writes. -/
def Dev.rowPlan (e : Env) (d : Dev) (c k : Nat) : Dev × List EduJob :=
  let x := d.ectx c
  let z := x.route
  let t := k / 8
  let a := x.assigns.look k
  let en := entryOf (x.experts.look a.expert).entry
  let g := eduAgent x.kernel x.part
  let src := z.src + t * z.stride
  let dest := en.dest + a.slot * en.dstride
  let recA := en.recs + 64 + 16 * a.slot
  let f1 := d.eduWriteFault g dest z.rowBytes
  let f2 := d.eduWriteFault g recA 16
  let stop := fun (f at' : Nat) => ((d.ungrant c k).ectxFault e c f at', ([] : List EduJob))
  if a.status ≠ 1 ∧ a.status ≠ 2 then (d, [])
  else
    match d.eduRead g src z.rowBytes with
    | .bad f => stop f src
    | .ok bs =>
      if f1 ≠ 0 then stop f1 dest
      else if f2 ≠ 0 then stop f2 recA
      else if ((d.peerOf dest).toList ++ (d.peerOf recA).toList).any d.peerDead then (d.loseAsg c k, [])
      else
        let rec16 := d.slotRecord c t (k % 8) a (anyMark bs)
        let plain := [EduJob.write (.row c k) x.kernel x.part dest bs,
          EduJob.write (.row c k) x.kernel x.part recA (rec16.map (fun b => (b, false)))]
        match d.place dest, d.place recA with
        | .fab i o, .fab j p =>
          if i = j then
            ((d.moved x.part (z.rowBytes + 16)).sendRow e i (.row c k) (d.tagOf x.kernel x.part) o p (ceilDiv z.rowBytes 8192) rec16 0 bs 9, [])
          else (d, plain)
        | _, _ => (d, plain)

/-- One step of an instance's movers, and whether there was one: a row read, or a write at its home or sent; one to an intake row by row,
with a token for each (R322). A scratchpad of a section in a clock switch and a sector under repair are waited for (R20, R451). -/
def Dev.moverStep (e : Env) (d : Dev) (u : Nat) : Dev × Bool :=
  match d.edu.jobs.look u with
  | [] => (d, false)
  | .row c k :: rest =>
    let x := d.ectx c
    let src := x.route.src + k / 8 * x.route.stride
    let live := (x.assigns.look k).status == 1 || (x.assigns.look k).status == 2
    let d := if live then d.eduTake e x.part src x.route.rowBytes else d
    if live && (d.repairing src x.route.rowBytes || d.placeSwitches (d.place src)) then (d, false)
    else
      let r := (d.setJobs u rest).rowPlan e c k
      (r.1.setJobs u (r.2 ++ r.1.edu.jobs.look u), true)
  | .write own kernel part a bs :: rest =>
    let next := fun (d : Dev) (n : Nat) (p : Place) =>
      let d := d.setJobs u (if n < bs.length then .write own kernel part (a + n) (bs.drop n) :: rest else rest)
      let d := match p with
        | .fab id o => if d.peerDead id then d else d.writeFab e id own (d.tagOf kernel part) o bs (bs.length / 8192 + 2)
        | _ => d.writeMarked a part 1 (bs.take n) (n + 1)
      ((d.moved part n).eduSettled e own, true)
    match d.place a with
    | .sp c o =>
      let held := d.edu.tokens.look (128 * u + c)
      if d.placeSwitches (.sp c o) then (d, false)
      else if held = 0 then (d.askTokens (moverOf u) 0 c (rowSpan o bs.length), false)
      else next { d with edu := { d.edu with tokens := d.edu.tokens.put (128 * u + c) (held - 1) } } (min bs.length (128 - o % 128)) (.sp c o)
    | p => next d bs.length p

/-- Steps that a piece of work takes at most. -/
def EduJob.steps : EduJob → Nat
  | .row _ _ => 600
  | .write _ _ _ _ bs => bs.length / 128 + 2

/-- The movers of an instance work until something holds them up. `fuel`: at least the steps. -/
def Dev.moverLoop (e : Env) (u : Nat) : Dev → Nat → Dev
  | d, 0 => d
  | d, fuel + 1 =>
    let r := d.moverStep e u
    if r.2 then Dev.moverLoop e u r.1 fuel else r.1

/-- The movers of an instance go on. -/
def Dev.moverRun (e : Env) (d : Dev) (u : Nat) : Dev := Dev.moverLoop e u d ((((d.edu.jobs.look u).map EduJob.steps).sum) + 1)

/-- Work for the movers of an instance. -/
def Dev.moverAdd (e : Env) (d : Dev) (u : Nat) (j : EduJob) : Dev := (d.setJobs u (d.edu.jobs.look u ++ [j])).moverRun e u

/-- A write of a context; nothing where it faults. -/
def Dev.eduWrite (e : Env) (d : Dev) (c : Nat) (own : FabOwner) (a : Nat) (bs : List Byte) (poison : Bool) : Dev :=
  let x := d.ectx c
  if d.eduWriteFault (eduAgent x.kernel x.part) a bs.length ≠ 0 then d
  else d.moverAdd e (instOf c) (.write own x.kernel x.part a (bs.map (fun b => (b, poison))))

/-- INTAKE_TOKEN_GRANT: the core grants a token to the request that came first (R322). -/
def execIntakeTokenGrant (core : Nat) (s : State) : Host.Outcome State Fault Refusal :=
  s.onDev fun e d =>
    match d.dma.tokenReq.find? (fun t => t.2 == core) with
    | none => d
    | some t =>
      let x := d.eng t.1
      let held := if t.1 < 64 then x.tokens.look core else d.edu.tokens.look (128 * (t.1 - 64) + core)
      if d.intakeFree core = 0 ∨ 8 ≤ held then d
      else
        let d := { d with dma := { d.dma with tokenReq := d.dma.tokenReq.erase t } }
        if t.1 < 64 then d.setEng t.1 { x with tokens := x.tokens.put core (held + 1) }
        else ({ d with edu := { d.edu with tokens := d.edu.tokens.put (128 * (t.1 - 64) + core) (held + 1) } } : Dev).moverRun e (t.1 - 64)

end Sys2Proof.Machine
end

