-- ==== Sys2Proof/Machine/Edu.lean ====
section
/-! DEFINITION. The commands of the Expert Dispatch Unit (R167-R193): DSP.SUBMIT and DSP.STATUS, the descriptors as the unit takes
them up, scores, grants and rows, the closing of experts, returned rows, the completion of contexts. -/

namespace Sys2Proof.Machine

/-! The instructions. -/

/-- DSP_DESCRIPTOR (R98). -/
def xDsp : Nat := 0x1B

/-- DSP.SUBMIT (R92, R170, R172). DESIGN CHOICE: R71 gives DSP the 64-bit form and R92 names IMM; an operand IMM is the short form's
(log entry 97). -/
def execDspSubmit (g : Gid) (w : AWord) (s : State) : Host.Outcome State Fault Refusal :=
  s.onDev fun e d => d.issue e g w { cls := 11, op := 0, form := .short } (w.mod == 0) [udst w.d, usrc w.a] fun i =>
    let u := halfOf g.core
    let o := i.x.rd w.imm w.a.toNat 0
    if i.em = 0 then i.finish d i.x
    else if o % 64 ≠ 0 then i.fault xDsp
    else if spSize < o + 64 ∨ d.get (SP_STATUS.FAILED g.core) = 1 then .fault { code := xUnmapped, lanes := i.em, addr := spAddr g.core o }
    else if !d.spAdmits i.agent g.core o 64 then .fault { code := xAccess, lanes := i.em, addr := spAddr g.core o }
    else if d.sbOverlaps g.core o 64 false then .wait 9
    else if d.spStores g then .wait
    else
      let d := d.spCheck g.core o 64
      if d.anyPoison (spAddr g.core o) 64 then .park (d.raise e g i.x { code := xPoison, lanes := i.em, addr := spAddr g.core o })
      else
      let r := d.newId
      let x : EduDesc :=
          { bytes := d.spRead g.core o 64, ticket := 0, kernel := i.launch.kernel, part := i.launch.part, owner := 31, stamp := r.1 }
      let x := { x with owner := d.ectxOwner x.ctxNo }
      if !d.eduOk x then i.fault xDsp
      else if 64 ≤ (d.edu.queue.look u).length then .wait
      else
        let t := r.2.newTicket u
        let d := { t.2 with edu := { t.2.edu with queue := t.2.edu.queue.put u (t.2.edu.queue.look u ++ [{ x with ticket := t.1 }]) } }
        i.finish (d.eduSync u) (i.x.wr w.d.toNat 0 t.1)

/-- DSP.STATUS (R92, R171). -/
def execDspStatus (g : Gid) (w : AWord) (s : State) : Host.Outcome State Fault Refusal :=
  s.onDev fun e d => d.issue e g w { cls := 11, op := 1, form := .short } (w.mod == 0) [udst w.d, usrc w.a] fun i =>
    if i.em = 0 then i.finish d i.x
    else i.finish d (i.x.wr w.d.toNat 0 (d.ticketStatus (i.x.rd w.imm w.a.toNat 0)))

/-! Grants (R179, R181). -/

/-- The expert's entry is read at the first grant to it; a bad one faults the context. -/
def Dev.firstGrant (e : Env) (d : Dev) (c ex : Nat) : Dev :=
  let x := d.ectx c
  if (x.experts.look ex).read then d
  else
    let d := d.eduTake e x.part (x.route.table + 32 * ex) 32
    let r := d.readEntry c ex
    match r.1 with
    | .inr (f, a) => d.ectxFault e c f a
    | .inl _ => d.setEctx c { x with experts := x.experts.put ex { x.experts.look ex with read := true, entry := r.2 } }

/-- One grant: `second` for a second choice. -/
def Dev.grant (e : Env) (d : Dev) (c t r ex : Nat) (second : Bool) : Dev :=
  if (d.ectx c).ended.isSome then d
  else
    let d := d.firstGrant e c ex
    let x := d.ectx c
    if x.ended.isSome then d
    else
      let en := entryOf (x.experts.look ex).entry
      let cap := if !en.present then 0 else if en.cap ≠ 0 then en.cap else x.route.cap
      let n := (x.experts.look ex).slots
      let k := asgKey t r
      if n < cap then
        let d := d.mapAsg c k (fun a => { a with expert := ex, slot := n, status := if second then 2 else 1 })
        let y := d.ectx c
        let d := d.setEctx c { y with experts := y.experts.put ex { y.experts.look ex with slots := n + 1 } }
        let d := d.bump (EDU_GRANTED.COUNT (instOf c)) 1
        let d := if second then d.bump (CTX_COUNTS.SECOND c) 1 else d.bump (CTX_COUNTS.GRANTED c) 1
        d.moverAdd e (instOf c) (.row c k)
      else d.mapAsg c k (fun a => { a with status := 3 })

/-- The second choice of a token's assignment at a rank, where it overflowed and the second choice is unused. -/
def Dev.grantSecond (e : Env) (d : Dev) (c t r : Nat) : Dev :=
  let x := d.ectx c
  let tk := x.tokens.look t
  if (x.assigns.look (asgKey t r)).status = 3 ∧ !tk.second ∧ x.ended.isNone then
    match tk.best[x.route.k]? with
    | some (ex, _) =>
      let d := d.setEctx c { x with tokens := x.tokens.put t { tk with second := true } }
      d.grant e c t r ex true
    | none => d
  else d

/-- Assignments still overflowed are dropped for capacity. -/
def Dev.countDrops (d : Dev) (c : Nat) (ks : List Nat) : Dev :=
  let x := d.ectx c
  let n := if x.ended.isSome then 0 else (ks.filter (fun k => (x.assigns.look k).status == 3)).length
  (d.bump (EDU_DROPPED.COUNT (instOf c)) n).bump (CTX_COUNTS.DROPPED c) n

/-- The grants of some tokens, rank-major, then their second choices (R179). -/
def Dev.grantAll (e : Env) (d : Dev) (c : Nat) (ts : List Nat) : Dev :=
  let z := (d.ectx c).route
  let rs := List.range z.k
  let d := rs.foldl (fun d r => ts.foldl (fun d t =>
    match ((d.ectx c).tokens.look t).best[r]? with
    | some (ex, _) => d.grant e c t r ex false
    | none => d) d) d
  let d := if z.ovf then rs.foldl (fun d r => ts.foldl (fun d t => d.grantSecond e c t r) d) d else d
  d.countDrops c (ts.flatMap (fun t => rs.map (fun r => asgKey t r)))

/-! Scores (R173-R177). -/

/-- A token is complete: its weights are fixed, and grants follow as ORDER says. -/
def Dev.tokenDone (e : Env) (d : Dev) (c t : Nat) : Dev :=
  let x := d.ectx c
  let z := x.route
  let tk := x.tokens.look t
  let ws := tk.weights z.gate z.k
  let asg := (List.range z.k).foldl (fun m r =>
    let b := tk.best.getD r (0, 0)
    Sparse.put m (asgKey t r) ({ expert := b.1, slot := 0, status := 0, weight := BitVec.ofNat 32 (ws.getD r 0), acked := false,
                                 combined := false } : Assign)) x.assigns
  let d := d.setEctx c { x with assigns := asg, tokens := x.tokens.put t { tk with done := true } }
  let d := d.incr (CTX_STATE.TOKENS c)
  let n := d.get (CTX_STATE.TOKENS c)
  let d := if !z.order then d.grantAll e c [t] else if n = z.t then d.grantAll e c (List.range z.t) else d
  let d := if n = z.t ∧ (d.ectx c).ended.isNone then
      (d.setEctx c { d.ectx c with granted := true }).put (CTX_STATE.STATE c) 2 else d
  d.ectxSync c

/-- A score that a context cannot use (R175). -/
def Dev.strayScore (e : Env) (d : Dev) (c : Nat) : Dev :=
  let d := d.bump (EDU_STRAY.COUNT (instOf c)) 1
  let x := d.ectx c
  if x.strayPosted then d
  else
    (d.setEctx c { x with strayPosted := true }).postP e 0x22 (d.ectxOwner c) [c + d.get (CTX_STATE.GEN c) * 256]

/-- A score reaches its context. DEDUCED: scores outside E and T of its last ROUTE are discarded without count whatever state it is in:
padded rows cost nothing (R173). -/
def Dev.takeScore (e : Env) (d : Dev) (s : Score) : Dev :=
  let c := s.ctx
  let x := d.ectx c
  let z := x.route
  let mine := if x.part < 16 then s.part == x.part else s.kernel
  if !x.desc.isEmpty ∧ (z.e ≤ s.expert ∨ z.t ≤ s.token) then d
  else if d.ectxState c ≠ 1 ∨ !mine then d.strayScore e c
  else
    let tk := x.tokens.look s.token
    if tk.done then d.strayScore e c
    else
      let d := if fp32.decode s.value.toNat = .nan then d.bump (EDU_NAN.COUNT (instOf c)) 1 else d
      let tk := tk.take z.k s.expert s.value
      let d := d.setEctx c { x with tokens := x.tokens.put s.token tk }
      if z.e ≤ tk.count then d.tokenDone e c s.token else d

/-- SCORE_INTAKE: the unit accepts the score that reached it first; descriptors that name its context and came before it are acted
on first (R168, R173, R175). While an entry of the expert table that its grants read is under repair, it is not accepted (log entry 80). -/
def execScoreIntake (u : Nat) (s : State) : Host.Outcome State Fault Refusal :=
  s.onDev fun e d =>
    match d.edu.scores.look u with
    | [] => d
    | x :: rest =>
      let older := (d.edu.queue.look 0 ++ d.edu.queue.look 1).any (fun q => q.op != 2 && q.ctxNo == x.ctx && decide (q.stamp < x.stamp))
      if older then d
      else
        let y := d.ectx x.ctx
        let after := ({ d with edu := { d.edu with scores := d.edu.scores.put u rest } } : Dev).takeScore e x
        let wait := (List.range y.route.e).filter (fun i => after.repairing (y.route.table + 32 * i) 32)
        if wait.isEmpty then after else wait.foldl (fun d i => d.eduTake e y.part (y.route.table + 32 * i) 32) d

/-! Descriptors. -/

/-- Takes the descriptor at the front of an instance's queue where it has the operation. -/
def Dev.eduFront (d : Dev) (u op : Nat) : Option (EduDesc × Dev) :=
  match d.edu.queue.look u with
  | x :: rest =>
    if x.op = op then some (x, ({ d with edu := { d.edu with queue := d.edu.queue.put u rest } } : Dev).eduSync u) else none
  | [] => none

/-- A ROUTE is taken up: the context enters ROUTING under a new generation (R169, R170, R186), owned as at its submission (R193). -/
def Dev.routeTake (d : Dev) (x : EduDesc) : Dev :=
  let c := x.ctxNo
  let z := routeFields x.bytes
  let need := if z.combine then z.t * z.width else 0
  let gen := (d.get (CTX_STATE.GEN c) + 1) % 256
  let y : EduCtx := { (default : EduCtx) with desc := x.bytes, kernel := x.kernel, part := x.owner, ticket := x.ticket, store := need }
  let d := d.setEctx c y
  let d := d.put (EDU_STATUS.STORE_FREE (instOf c)) (d.get (EDU_STATUS.STORE_FREE (instOf c)) - need)
  let d := d.setReg (CTX_STATE.off c) 0
  let d := ((d.put (CTX_STATE.STATE c) 1).put (CTX_STATE.GEN c) gen).setReg (CTX_COUNTS.off c) 0
  (d.mapTicket x.ticket (fun t => { t with state := 1, gen := gen })).eduSync (instOf c)

/-- ROUTE: the unit takes up the ROUTE at the front of an instance's queue. -/
def execRoute (u : Nat) (s : State) : Host.Outcome State Fault Refusal :=
  s.onDev fun _ d =>
    match d.eduFront u 1 with
    | none => d
    | some (x, d) => d.routeTake x

/-- The scores of a SCORES descriptor, or the FAULT code and address that stops them (R174). -/
def Dev.readScores (d : Dev) (x : EduDesc) : List (Nat × Nat) → List Score × Option (Nat × Nat)
  | [] => ([], none)
  | (t, r) :: rest =>
    let a := x.num 8 8 + t * x.num 0x10 4 + 4 * r
    match d.eduRead (eduAgent x.kernel x.part) a 4 with
    | .bad f => ([], some (f, a))
    | .ok bs =>
      let q := Dev.readScores d x rest
      let s : Score :=
        { ctx := x.ctxNo, expert := x.fld 0 16 10 + r, token := x.fld 0 26 12 + t,
          value := BitVec.ofNat 32 (if anyMark bs then fp32.nan else leOf (bs.map Prod.fst)), kernel := x.kernel, part := x.part, core := none,
          stamp := d.core.nextId }
      (s :: q.1, q.2)

/-- What reads of a descriptor's spans do at the memories; none while they wait for a repair (R240, R451). -/
def Dev.eduSpans (e : Env) (d : Dev) (x : EduDesc) (spans : List (Nat × Nat)) : Dev × Bool :=
  let g := eduAgent x.kernel x.part
  let mine := spans.filter (fun r => match d.eduRead g r.1 r.2 with | .ok _ => true | .bad _ => false)
  let d := mine.foldl (fun d r => d.eduTake e (if x.kernel then 31 else x.part) r.1 r.2) d
  (d, mine.any (fun r => d.repairing r.1 r.2))

/-- SCORES: the scores join those on their way into the instance (R174). -/
def execScores (u : Nat) (s : State) : Host.Outcome State Fault Refusal :=
  s.onDev fun e d0 =>
    match d0.eduFront u 3 with
    | none => d0
    | some (x, _) =>
      let rows := (List.range (x.fld 0 48 12 + 1)).map (fun t => (x.num 8 8 + t * x.num 0x10 4, 4 * (x.fld 0 38 10 + 1)))
      let held := d0.eduSpans e x rows
      if held.2 then held.1 else
      match held.1.eduFront u 3 with
      | none => d0
      | some (x, d) =>
      let cells := (List.range (x.fld 0 48 12 + 1)).flatMap (fun t => (List.range (x.fld 0 38 10 + 1)).map (fun r => (t, r)))
      let q := d.readScores x cells
      let gen := d.get (CTX_STATE.GEN x.ctxNo)
      let d := { d with edu := { d.edu with scores := d.edu.scores.put u (d.edu.scores.look u ++ q.1) } }
      let d := d.moved (if x.kernel then 31 else x.part) (4 * q.1.length)
      match q.2 with
      | none => d.mapTicket x.ticket (fun t => { t with state := 2, gen := gen })
      | some (f, a) => (d.mapTicket x.ticket (fun t => { t with state := 3, gen := gen, fault := f })).postP e 0x24 x.part [a]

/-- ABORT: the context's generation ends unless it has begun to complete (R189). -/
def execAbort (u : Nat) (s : State) : Host.Outcome State Fault Refusal :=
  s.onDev fun _ d =>
    match d.eduFront u 4 with
    | none => d
    | some (x, d) =>
      let c := x.ctxNo
      let y := d.ectx c
      let gen := d.get (CTX_STATE.GEN c)
      if d.ectxState c = 0 ∨ x.fld 0 16 8 ≠ gen ∨ y.ended.isSome ∨ y.written then
        d.mapTicket x.ticket (fun t => { t with state := 5, gen := gen })
      else (d.ectxEnd c 4 0 0).mapTicket x.ticket (fun t => { t with state := 2, gen := gen })

/-! Returns (R185). -/

/-- A row or packet of a RETURN has been acknowledged or lost; after the last its DONESEM gets its add. -/
def Dev.retAcked (e : Env) (d : Dev) (id fault : Nat) : Dev :=
  match d.edu.rets.find? (fun r => r.id == id) with
  | none => d
  | some r =>
    let r := { r with left := r.left - 1, fault := if r.fault = 0 then fault else r.fault }
    let others := d.edu.rets.filter (fun x => x.id != id)
    if r.left ≠ 0 then { d with edu := { d.edu with rets := others ++ [r] } }
    else
      let d := { d with edu := { d.edu with rets := others } }
      let d := if r.doneSem = 0 then d else d.signal e (.edu (r.ticket / 256 % 2)) .other r.part r.kernel r.doneSem 1
      d.mapTicket r.ticket (fun t => { t with state := if r.fault = 0 then 2 else 3, fault := r.fault })

/-- DSP_RETURN segments of a row, each with the mark of its own bytes (R390, R412, R453). `fuel`: at least the segments. -/
def Dev.sendReturn (e : Env) (d : Dev) (id ret tenant : Nat) (row : RetRow) (segs : Nat) : Nat → List (Byte × Bool) → Nat → Dev
  | _, _, 0 => d
  | seg, bs, fuel + 1 =>
    let body := (bs.take 8192).map Prod.fst
    let h := row.ctx + row.gen * 2 ^ 8 + row.token * 2 ^ 16 + row.rank * 2 ^ 28 + b2n row.fp32 * 2 ^ 31 + seg * 2 ^ 32 + segs * 2 ^ 40
    let p := { (d.packet id tDspReturn 1 tenant 0 body.length 0 body) with status := b2n (anyMark (bs.take 8192)), exth := h + row.width * 2 ^ 64 }
    let d := d.fabSend e id (.ret ret) none p
    if segs ≤ seg + 1 then d else Dev.sendReturn e d id ret tenant row segs (seg + 1) (bs.drop 8192) fuel

/-- One slot of a RETURN: its row goes to its origin. Second: a FAULT code and address that stops the RETURN. -/
def Dev.returnSlot (e : Env) (d : Dev) (x : EduDesc) (ret slot : Nat) : Dev × Option (Nat × Nat) :=
  let g := eduAgent x.kernel x.part
  let recA := x.num 0x10 8 + 64 + 16 * slot
  let wide := bit (x.num 0 8) 8
  let width := x.num 8 4
  let n := width * (if wide then 4 else 2)
  let src := x.num 0x18 8 + slot * x.num 0x20 4
  match d.eduRead g recA 16 with
  | .bad f => (d, some (f, recA))
  | .ok ms =>
    if anyMark ms then (d, some (3, recA)) else
    let rec16 := ms.map Prod.fst
    match d.eduRead g src n with
    | .bad f => (d, some (f, src))
    | .ok bs =>
      let w := fun (k : Nat) => leOf ((rec16.drop (4 * k)).take 4)
      let origin := bits (w 0) 0 20
      let own := origin == 0 || origin == d.fabId
      let row : RetRow :=
        { ctx := bits (w 0) 20 6, gen := bits (w 1) 16 8, token := bits (w 1) 0 12, rank := bits (w 1) 12 3, fp32 := wide, width := width,
          data := bs.map Prod.fst, poison := anyMark bs, origin := if own then d.fabId else origin, ret := if own then some ret else none, psns := [] }
      let d := d.moved (if x.kernel then 31 else x.part) n
      let more := fun (d : Dev) (k : Nat) =>
        ({ d with edu := { d.edu with rets := d.edu.rets.map (fun r => if r.id = ret then { r with left := r.left + k } else r) } } : Dev)
      if own then
        let u := instOf row.ctx
        let d := more d 1
        ({ d with edu := { d.edu with rows := d.edu.rows.put u (d.edu.rows.look u ++ [row]) } }, none)
      else if d.peerDead origin || !d.routed origin then (d, none)
      else
        let segs := ceilDiv n 8192
        ((more d segs).sendReturn e origin ret (d.tagOf x.kernel x.part) row segs 0 bs 9, none)

/-- The slots of a RETURN one after another, until one is at fault. -/
def Dev.returnSlots (e : Env) (d : Dev) (x : EduDesc) (ret : Nat) : List Nat → Dev × Option (Nat × Nat)
  | [] => (d, none)
  | s :: t =>
    let r := d.returnSlot e x ret s
    match r.2 with
    | none => Dev.returnSlots e r.1 x ret t
    | some f => (r.1, some f)

/-- The slots of a RETURN: FIRST and those of COUNT or of the count word; or what stops it. -/
def Dev.returnList (d : Dev) (x : EduDesc) : Sum (List Nat) (Nat × Nat) :=
  let first := x.fld 0 16 16
  let count := x.fld 0 32 16
  let recs := x.num 0x10 8
  let from' := fun (n : Nat) => (List.range n).map (fun i => first + i)
  if count ≠ 0 then .inl (from' count)
  else
    match d.eduRead (eduAgent x.kernel x.part) recs 8 with
    | .bad f => .inr (f, recs)
    | .ok ms => if anyMark ms then .inr (3, recs) else .inl (from' (leOf ((ms.map Prod.fst).take 4) - first))

/-- RETURN: expert output rows go to their origin contexts (R185). -/
def execReturn (u : Nat) (s : State) : Host.Outcome State Fault Refusal :=
  s.onDev fun e d0 =>
    match d0.eduFront u 2 with
    | none => d0
    | some (x, _) =>
      let recs := x.num 0x10 8
      let n := x.num 8 4 * (if bit (x.num 0 8) 8 then 4 else 2)
      let head := d0.eduSpans e x (if x.fld 0 32 16 = 0 then [(recs, 8)] else [])
      let spans := match head.1.returnList x with
        | .inl l => l.flatMap (fun i => [(recs + 64 + 16 * i, 16), (x.num 0x18 8 + i * x.num 0x20 4, n)])
        | .inr _ => []
      let held := head.1.eduSpans e x spans
      if held.2 || head.2 then held.1
      else
        match held.1.eduFront u 2 with
        | none => d0
        | some (x, d) =>
          let id := d.edu.nextRet + 1
          let r : EduRet := { id := id, ticket := x.ticket, left := 1, fault := 0, doneSem := x.num 0x28 8, part := x.part, kernel := x.kernel }
          let d := { d with edu := { d.edu with rets := d.edu.rets ++ [r], nextRet := id } }
          let d := d.mapTicket x.ticket (fun t => { t with state := 1 })
          let res := match d.returnList x with
            | .inl l => d.returnSlots e x id l
            | .inr f => (d, some f)
          match res.2 with
          | none => res.1.retAcked e id 0
          | some (f, a) => (res.1.postP e 0x24 x.part [a]).retAcked e id f

/-! Closing (R183, R189). -/

/-- Every row to an expert is acknowledged. -/
def EduCtx.rowsAcked (x : EduCtx) (ex : Nat) : Bool :=
  x.assigns.all (fun a => !(a.2.expert == ex && (a.2.status == 1 || a.2.status == 2)) || a.2.acked)

/-- Marks an expert closed. -/
def Dev.expertClosed (d : Dev) (c ex : Nat) : Dev :=
  let x := d.ectx c
  (d.setEctx c { x with experts := x.experts.put ex { x.experts.look ex with closed := true, closing := false } }).ectxSync c

/-- The close add of an expert, after which it is closed. -/
def Dev.closeAdd (e : Env) (d : Dev) (c ex : Nat) : Dev :=
  let x := d.ectx c
  let en := entryOf (x.experts.look ex).entry
  (d.signal e (.edu (instOf c)) .other x.part x.kernel (en.sem + 8) 1).expertClosed c ex

/-- EXPERT_CLOSE: no further grant is possible and every row is acknowledged: the count word is written, and after its
acknowledgement the close add performed. -/
def execExpertClose (c e : Nat) (s : State) : Host.Outcome State Fault Refusal :=
  s.onDev fun env d =>
    let x := d.ectx c
    let y := x.experts.look e
    if d.ectxState c = 0 ∨ !x.granted ∨ x.written ∨ x.route.e ≤ e ∨ y.closed then d
    else if y.closing then
      let d := d.moverRun env (instOf c)
      if d.eduPending (.eduWrite c e) then d else d.closeAdd env c e
    else
      let d := (d.moverRun env (instOf c)).eduTake env x.part (x.route.table + 32 * e) 32
      let x := d.ectx c
      let y := x.experts.look e
      if !x.rowsAcked e ∨ y.closed ∨ d.repairing (x.route.table + 32 * e) 32 then d else
      let r := d.readEntry c e
      match r.1 with
      | .inr (f, a) => (d.ectxFault env c f a).expertClosed c e
      | .inl en =>
        let d := d.setEctx c { x with experts := x.experts.put e { y with read := true, entry := r.2 } }
        let gone := ((d.peerOf en.recs).toList ++ (d.peerOf en.dest).toList).any d.peerDead
        if !en.present ∨ gone then d.expertClosed c e
        else
          let word := y.slots % 2 ^ 32 + d.get (CTX_STATE.GEN c) * 2 ^ 32 + b2n x.ended.isSome * 2 ^ 40
          let f := d.eduWriteFault (eduAgent x.kernel x.part) en.recs 8
          if f ≠ 0 then (d.ectxFault env c f en.recs).expertClosed c e
          else
            let d := d.eduWrite env c (.eduWrite c e) en.recs (leBytes 8 word) false
            if d.eduPending (.eduWrite c e) then
              let z := d.ectx c
              d.setEctx c { z with experts := z.experts.put e { z.experts.look e with closing := true } }
            else d.closeAdd env c e

/-! Returned rows (R186, R188). -/

/-- The elements of a row, widened to FP32. -/
def rowElems (wide : Bool) (bs : List Byte) (n : Nat) : List Nat :=
  (List.range n).map (fun j =>
    if wide then leOf ((bs.drop (4 * j)).take 4) else leOf ((bs.drop (2 * j)).take 2) * 65536)

/-- A row is combined into its token (R186, R192). -/
def Dev.combine (d : Dev) (c : Nat) (r : RetRow) : Dev :=
  let x := d.ectx c
  let k := asgKey r.token r.rank
  let a := x.assigns.look k
  let es := rowElems r.fp32 r.data r.width
  let acc := (es.zipIdx).foldl (fun m p =>
    let key := 16384 * r.token + p.2
    Sparse.put m key (BitVec.ofNat 32 (fma32 a.weight.toNat p.1 (Sparse.look m key).toNat).1)) x.acc
  let x := { x with
    acc := acc, assigns := x.assigns.put k { a with combined := true },
    poisonTok := if r.poison then x.poisonTok ++ [r.token] else x.poisonTok }
  ((d.setEctx c x).moved x.part r.data.length).ectxSync c

/-- RETURNED_ROW: the origin instance accepts the row that came first and combines it, or discards it (R186, R188). -/
def execReturnedRow (u : Nat) (s : State) : Host.Outcome State Fault Refusal :=
  s.onDev fun e d =>
    match d.edu.rows.look u with
    | [] => d
    | r :: rest =>
      let d := { d with edu := { d.edu with rows := d.edu.rows.put u rest } }
      let c := r.ctx
      let x := d.ectx c
      let z := x.route
      let a := x.assigns.look (asgKey r.token r.rank)
      let fits := r.gen == d.get (CTX_STATE.GEN c) && d.ectxState c == 3 && (a.status == 1 || a.status == 2) && !a.combined &&
        decide (r.rank < z.k) && decide (r.token < z.t) && r.width == z.width && r.fp32 == z.rfmt
      let d :=
        if fits then d.combine c r
        else
          let d := d.bump (EDU_LATE.COUNT (instOf c)) 1
          if x.latePosted then d
          else
            (d.setEctx c { x with latePosted := true }).postP e 0x23 (d.ectxOwner c)
              [c + d.get (CTX_STATE.GEN c) * 256 + r.origin % 2 ^ 20 * 2 ^ 32]
      match r.ret with
      | some id => d.retAcked e id 0
      | none => r.psns.foldl (fun d p => d.performed e r.origin p) d

/-! Completion (R180, R187, R189). -/

/-- The routing record of a token (R180): 64 bytes. -/
def EduCtx.record (x : EduCtx) (t : Nat) : List Byte :=
  (List.range 8).flatMap (fun r =>
    if x.route.k ≤ r then leBytes 8 0
    else
      let a := x.assigns.look (asgKey t r)
      let st := match a.status with | 1 => 0 | 2 => 1 | 4 => 3 | _ => 2
      leBytes 8 (a.expert + 2 ^ 10 + st * 2 ^ 11 + r * 2 ^ 13 + (if st = 2 then 0 else a.slot) * 2 ^ 16 + a.weight.toNat * 2 ^ 32))

/-- The combined output of a token (R187). -/
def EduCtx.outRow (x : EduCtx) (t : Nat) : List Byte :=
  let z := x.route
  (List.range z.width).flatMap (fun j =>
    let v := (x.acc.look (16384 * t + j)).toNat
    if z.ofmt then leBytes 4 (drainValue 0 v) else leBytes 2 (drainValue 1 v))

/-- One write of a completing context; the first that faults is kept. -/
def Dev.finalWrite (e : Env) (d : Dev) (c a : Nat) (bs : List Byte) (poison : Bool) : Dev :=
  let x := d.ectx c
  let f := d.eduWriteFault (eduAgent x.kernel x.part) a bs.length
  if f ≠ 0 then d.ectxFault e c f a
  else d.eduWrite e c (.eduWrite c 1024) a bs poison

/-- The context is over: DONESEM gets its add, the ticket its state, the context is IDLE. -/
def Dev.ectxIdle (e : Env) (d : Dev) (c : Nat) : Dev :=
  let x := d.ectx c
  let z := x.route
  let d := if z.doneSem = 0 then d else d.signal e (.edu (instOf c)) .other x.part x.kernel z.doneSem 1
  let d := d.mapTicket x.ticket (fun t => { t with state := x.ended.getD 2, fault := x.fault })
  let d := (d.put (CTX_STATE.STATE c) 0).put (CTX_STATE.PENDING c) 0
  d.eduSync (instOf c)

/-- CONTEXT_COMPLETE: with nothing left to wait for, the context writes its records and output, frees its store, and once every
write is acknowledged signals DONESEM. -/
def execContextComplete (c : Nat) (s : State) : Host.Outcome State Fault Refusal :=
  s.onDev fun e d =>
    let x := d.ectx c
    let z := x.route
    if d.ectxState c = 0 then d
    else if x.written then
      let d := d.moverRun e (instOf c)
      if d.eduPending (.eduWrite c 1024) then d else d.ectxIdle e c
    else if !x.allClosed ∨ x.expected ≠ 0 then d
    else
      let d := (List.range z.t).foldl (fun d t => d.finalWrite e c (z.routeOut + 64 * t) (x.record t) false) d
      let size := z.width * (if z.ofmt then 4 else 2)
      let d := if z.combine && (d.ectx c).ended.isNone then
          (List.range z.t).foldl (fun d t => d.finalWrite e c (z.out + t * size) (x.outRow t) (x.poisonTok.contains t)) d else d
      let y := d.ectx c
      let d := d.put (EDU_STATUS.STORE_FREE (instOf c)) (d.get (EDU_STATUS.STORE_FREE (instOf c)) + y.store)
      let d := (d.setEctx c { y with written := true, store := 0, acc := [] }).put (CTX_STATE.STATE c) 4
      if d.eduPending (.eduWrite c 1024) then d else d.ectxIdle e c

/-! What others do to contexts. -/

/-- A peer is declared dead: its assignments are lost, its experts count as closed (R190). -/
def Dev.eduPeerDead (d : Dev) (peer : Nat) : Dev :=
  (List.range 64).foldl (fun d c =>
    if d.ectxState c = 0 then d
    else
      let x := d.ectx c
      let mine := fun (ex : Nat) =>
        let y := x.experts.look ex
        y.read && (d.peerOf (entryOf y.entry).dest == some peer || d.peerOf (entryOf y.entry).recs == some peer)
      let gone := x.assigns.filter (fun a => (a.2.status == 1 || a.2.status == 2) && mine a.2.expert &&
        (!a.2.acked || (x.route.combine && !a.2.combined)))
      let d := gone.foldl (fun d a => d.loseAsg c a.1) d
      let y := d.ectx c
      let d := d.setEctx c { y with experts := y.experts.map (fun p => if mine p.1 then (p.1, { p.2 with closed := true }) else p) }
      d.ectxSync c) d

/-- Contexts of a partition end with FAULT 0x04, those of its queued ROUTEs as well, which are accepted (R170, R191). -/
def Dev.eduTeardown (d : Dev) (part : Nat) : Dev :=
  let mine := fun (x : EduDesc) => x.op == 1 && x.owner == part
  let d := [0, 1].foldl (fun d u =>
    let q := d.edu.queue.look u
    let d := (({ d with edu := { d.edu with queue := d.edu.queue.put u (q.filter (fun x => !mine x)) } } : Dev).eduSync u)
    (q.filter mine).foldl (fun d x => d.routeTake x) d) d
  (List.range 64).foldl (fun d c => if d.ectxState c ≠ 0 ∧ (d.ectx c).part = part then d.ectxEnd c 3 4 0 else d) d

end Sys2Proof.Machine
end

