-- ==== Sys2Proof/Machine/HandoverOps.lean ====
section
/-! DEFINITION. Handovers of scratchpad bank sets (R203-R208): what a set still waits for, the start, zeroing, the end. -/

namespace Sys2Proof.Machine

/-- The cores a handover names (R204). -/
def Handover.coreList (h : Handover) : List Nat := (maskList 8 h.cores).map (fun i => 8 * h.sect + i)

/-- The bank sets a handover names. -/
def Handover.setList (h : Handover) : List Nat := maskList 16 h.sets

/-- A run of bytes of a scratchpad touches a named set. -/
def touches (sets : List Nat) (o n : Nat) : Bool := (setsOf o n).any (fun k => sets.contains k)

/-- The spans of the entries queued on an array, each under the mode that will be in force (R110, R123). -/
def arrSpans : Nat → List ArrCmd → List (Nat × Nat)
  | _, [] => []
  | _, .mode w :: t => arrSpans w t
  | m, .tile _ _ _ _ a b c _ :: t =>
    let s := shapeOf m
    (a, c * s.wRec) :: (b, c * s.aRec) :: arrSpans m t
  | m, .drain _ dest desc toEdu _ :: t =>
    if toEdu then arrSpans m t else (dest, drainBytes m desc) :: arrSpans m t

/-- A landing-zone entry touches a named set of a core. -/
def LzEntry.touches (z : LzEntry) (c : Nat) (sets : List Nat) : Bool :=
  z.receiver == c && (z.bytes.any (fun b => sets.contains (bankSet b.1)) || z.atoms.any (fun a => sets.contains (bankSet a.off)))

/-- The bytes that a piece of the movers' work reads or writes: addresses and lengths. -/
def Dev.jobSpans (d : Dev) : EduJob → List (Nat × Nat)
  | .write _ _ _ a bs => [(a, bs.length)]
  | .row c k =>
    let x := d.ectx c
    let a := x.assigns.look k
    let en := entryOf (x.experts.look a.expert).entry
    [(x.route.src + k / 8 * x.route.stride, x.route.rowBytes), (en.dest + a.slot * en.dstride, x.route.rowBytes), (en.recs + 64 + 16 * a.slot, 16)]

/-- A dispatch move touches a named set of a core. -/
def Dev.jobsTouch (d : Dev) (c : Nat) (sets : List Nat) : Bool :=
  (d.edu.jobs.look 0 ++ d.edu.jobs.look 1).any (fun j => (d.jobSpans j).any (fun p =>
    match d.place p.1 with
    | .sp core o => core == c && touches sets o p.2
    | _ => false))

/-- A load waits for the end of a clock switch at a scratchpad (R20). -/
def Dev.loadsTouch (d : Dev) (c : Nat) (sets : List Nat) : Bool :=
  d.core.groups.any (fun x => x.2.accs.any (fun a => a.waits.any (fun w => w.1 == .remote c && w.2.any (fun p => touches sets p.2.1 p.2.2))))

/-- The span of a drain that writes. -/
def ArrDrain.span (r : ArrDrain) : List (Nat × Nat) := if r.toEdu then [] else [(r.dest, drainBytes r.mode r.desc)]

/-- Work accepted to a named set of a core has not finished (R205 step 2). -/
def Dev.setBusy (d : Dev) (c : Nat) (sets : List Nat) : Bool :=
  (d.mem.lz ++ d.mem.port).any (fun z => z.touches c sets) || d.jobsTouch c sets || d.loadsTouch c sets ||
  (arrSpans ((d.arr c).modeNow.getD 0) (d.arr c).queue ++ (d.arr c).draining.toList.flatMap ArrDrain.span).any (fun p => touches sets p.1 p.2) ||
  d.mem.sb.any (fun b => b.core == c && touches sets b.lo (b.hi - b.lo)) ||
  d.mem.march.any (fun m => m.core == c && (maskList 16 m.sets).any (fun k => sets.contains k))

/-- Sets or clears PENDING of the named sets. -/
def Dev.setPending (d : Dev) (h : Handover) (v : Nat) : Dev :=
  h.coreList.foldl (fun d c => h.setList.foldl (fun d k => d.put (SP_OWN.PENDING c k) v) d) d

/-- A named set is zeroed by the handover (R206). -/
def Dev.setZeroes (d : Dev) (c k new : Nat) : Bool :=
  let o := d.get (SP_OWN.OWNER c k)
  if o < 16 then new != o && new != 17
  else if o = 17 then new != d.get (SP_OWN.PRIOR c k) && new != 17
  else false

/-- The named sets that the handover zeroes. -/
def Dev.handZeroes (d : Dev) (h : Handover) : List (Nat × Nat) :=
  (h.coreList.flatMap (fun c => h.setList.map (fun k => (c, k)))).filter (fun p => d.setZeroes p.1 p.2 h.owner)

/-- A set gets its new owner (R205 step 4). -/
def Dev.setOwner (d : Dev) (c k new : Nat) : Dev :=
  let o := d.get (SP_OWN.OWNER c k)
  let d := if new = 17 then (if o = 17 then d else d.put (SP_OWN.PRIOR c k) o) else d.put (SP_OWN.PRIOR c k) 31
  (d.put (SP_OWN.OWNER c k) new).put (SP_OWN.PENDING c k) 0

/-- Duration in whole microseconds, rounded up, at least 1, saturating (R204). -/
def handElapsed (start now : Nat) : Nat := min 65535 (max 1 (ceilDiv (now - start) 1000))

/-- The end of a handover that started in the status register, whoever asked for it (R204): SP_HANDOVER, an ASSIGN, a teardown. -/
def Dev.handStatus (e : Env) (d : Dev) (start result : Nat) (zeroed : Bool) : Dev :=
  let d := ((d.put SP_HANDOVER_STATUS.STATE 0).put SP_HANDOVER_STATUS.RESULT result).put SP_HANDOVER_STATUS.ZEROED (b2n zeroed)
  (d.put SP_HANDOVER_STATUS.ELAPSED (handElapsed start e.time)).incr SP_HANDOVER_STATUS.SEQ

/-- A handover ends. No record of Bassoon's log of handovers (R205) is given by the spec: R468's table has no kind for one (log entry
99). -/
def Dev.handDone (e : Env) (d : Dev) (h : Handover) (result : Nat) (zeroed : Bool) : Dev :=
  ({ d with mem := { d.mem with hand := none } } : Dev).handStatus e h.start result zeroed

/-- Reports to Acorn the changes of holdings: bank sets that leave or reach a partition, by old owner (R205, R499). -/
def Dev.handReport (e : Env) (d : Dev) (h : Handover) : Dev :=
  let olds := h.coreList.flatMap (fun c => h.setList.map (fun k => d.get (SP_OWN.OWNER c k)))
  (olds.eraseDups).foldl (fun d o =>
    if o ≠ h.owner ∧ (o < 16 ∨ h.owner < 16) then
      d.report e (.handover 0 o h.owner (olds.filter (fun x => x == o)).length) else d) d

/-- Steps 3 and 4 of a handover: zeroing where R206 requires it, the new owner; a core whose last sets leave a partition that
used its array, or may have, has it cleared (R130). -/
def Dev.handFinish (e : Env) (d : Dev) (h : Handover) : Dev :=
  let z := d.handZeroes h
  let d := d.handReport e h
  let gone := fun (c p : Nat) => decide (p < 16) && (List.range 16).all (fun k => d.get (SP_OWN.OWNER c k) != p || z.contains (c, k))
  let user := fun (c : Nat) => d.launchOf (d.arr c).launch
  let clear := h.coreList.filter (fun c => h.setList.any (fun k =>
    let p := d.get (SP_OWN.OWNER c k)
    gone c p && ((d.arr c).launch == 0 || !(user c).live || (user c).part == p)))
  let d := h.coreList.foldl (fun d c => d.zeroSets [c] ((z.filter (fun p => p.1 == c)).map (fun p => p.2))) d
  let d := h.coreList.foldl (fun d c => h.setList.foldl (fun d k => d.setOwner c k h.owner) d) d
  let d := clear.foldl (fun d c => d.arrayClear c) d
  d.handDone e h 0 (!z.isEmpty)

/-- A handover begins: PENDING on every named set (R205 step 1). -/
def Dev.handStart (d : Dev) (h : Handover) : Dev :=
  let d := { d with mem := { d.mem with hand := some h } }
  (d.put SP_HANDOVER_STATUS.STATE 1).setPending h 1

/-- A refused write that sets RESULT (R204). -/
def Dev.handRefuse (d : Dev) (r : Nat) : Dev := (d.put SP_HANDOVER_STATUS.RESULT r).incr SP_HANDOVER_STATUS.SEQ

/-- An owner code a handover may name: a partition that is not in teardown, DMA, MARCH or UNOWNED (R201, R448). -/
def Dev.handOwnerOk (d : Dev) (n : Nat) : Bool :=
  n == 16 || n == 17 || n == 31 || (decide (n < 16) && d.get (PART_CFG.STATE n) != 2)

/-- A write to SP_HANDOVER (R204). -/
def Dev.wrSpHandover (e : Env) (d : Dev) (src : Src) (v : Nat) : Dev :=
  let refused := fun (w : Nat) => (d.handRefuse 3).postD e 0x40 (w % 32) 31 [w]
  let go :=
    if d.get SP_HANDOVER_STATUS.STATE ≠ 0 ∨ d.mem.hand.isSome then d.handRefuse 4
    else if !d.handOwnerOk (bits v 28 5) || bits v 4 8 == 0 || bits v 12 16 == 0 then d.handRefuse 2
    else
      let t := bits v 33 16
      d.handStart { sect := bits v 0 4, cores := bits v 4 8, sets := bits v 12 16, owner := bits v 28 5,
                    limit := if t = 0 then 1000 else t, start := e.time, zeroing := false, by_ := 0 }
  match src with
  | .host f => if d.isOwner f then refused f else d.refuse e f SP_HANDOVER.off
  | .queue q => if d.get (QUEUE_CFG.KERNEL q) = 1 then go else refused (d.get (QUEUE_CFG.FUNC q) + q % 4096 * 2 ^ 16 + 2 ^ 28)
  | .bassoon => go

/-- SP_HANDOVER. -/
def execSpHandover (src : Src) (value : DWord) (s : State) : Host.Outcome State Fault Refusal :=
  s.onDev fun e d => d.wrSpHandover e src value.toNat

/-- A section clock switch pauses the handover (R207). -/
def Dev.handPaused (d : Dev) (h : Handover) : Bool :=
  match d.mgmt.switch.look h.sect with
  | some s => s.begun
  | none => false

end Sys2Proof.Machine
end

