-- ==== Sys2Proof/Machine/KernelOps.lean ====
section
/-! DEFINITION. Kernels at Chanter: occupancy and placement (R35-R47, R77, R128), what a kernel start does on a core (R74, R272),
its end (R100) and its abort (R100, R129, R311). -/

namespace Sys2Proof.Machine

/-- The v registers allocated per thread (R43). -/
def allocRegs (regs : Nat) : Nat := roundUp regs 8

/-- Groups of a kernel that a quarter holds (R43, R46). -/
def groupsPerQuarter (regs : Nat) : Nat := min 16 (1024 / allocRegs regs)

/-- Blocks of one kernel resident on a core at once (R46). -/
def blocksPerCore (regs g pool w : Nat) : Nat :=
  let b := 4 * groupsPerQuarter regs / g
  min 16 (if w ≠ 0 ∧ pool / w < b then pool / w else b)

/-! Room on a core. -/

/-- The blocks resident on a core: until all their groups have ended (R36, R46). -/
def Dev.residents (d : Dev) (core : Nat) : List Block := d.core.blocks.filter (fun b => b.core == core && !b.ended)

/-- The places that resident blocks hold on a core, with their allocation. DEDUCED: a group that has ended keeps its slot and its
registers until its block ends (log entry 90). -/
def Dev.corePlaces (d : Dev) (core : Nat) : List (Gid × Nat) :=
  (d.residents core).flatMap (fun b =>
    let a := allocRegs (d.launchOf b.launch).regs
    b.groups.map (fun p => (({ core := core, quarter := p.1, slot := p.2 } : Gid), a)))

/-- A kernel has a live group on a core. -/
def Dev.runsOn (d : Dev) (core launch : Nat) : Bool :=
  d.core.groups.any (fun x => x.2.live && x.2.launch == launch && (gidOf x.1).core == core)

/-- A place for one more group (R43, R44): the quarter with the fewest resident groups of those with room, lowest first, and
its lowest free slot. `gs`: places taken, with their allocation. -/
def placeGroup (gs : List (Gid × Nat)) (alloc : Nat) : Option (Nat × Nat) :=
  let count := fun (q : Nat) => (gs.filter (fun g => g.1.quarter == q)).length
  let used := fun (q : Nat) => ((gs.filter (fun g => g.1.quarter == q)).map (fun g => g.2)).sum
  let room := (List.range 4).filter (fun q => decide (count q < 16) && decide (used q + alloc ≤ 1024))
  let best := room.foldl (fun (b : Option Nat) q => match b with | none => some q | some r => if count q < count r then some q else some r) none
  best.bind (fun q => ((List.range 16).find? (fun s => !gs.any (fun g => g.1.quarter == q && g.1.slot == s))).map (fun s => (q, s)))

/-- Places for n groups, one at a time (R44). -/
def placeGroups (core alloc : Nat) : Nat → List (Gid × Nat) → Option (List (Nat × Nat))
  | 0, _ => some []
  | n + 1, gs =>
    match placeGroup gs alloc with
    | none => none
    | some (q, s) => (placeGroups core alloc n (gs ++ [((⟨core, q, s⟩ : Gid), alloc)])).map (fun l => (q, s) :: l)

/-- The areas held on a core: offset and length. -/
def Dev.areasOn (d : Dev) (core : Nat) : List (Nat × Nat) :=
  (d.core.blocks.filter (fun b => b.core == core)).filterMap (fun b =>
    let w := (d.launchOf b.launch).w
    if w = 0 then none else some (b.area, w))

/-- The lowest free offset of a pool that fits an area, in steps of 4 KiB (R45). -/
def Dev.areaFor (d : Dev) (core : Nat) (l : Launch) : Option Nat :=
  if l.w = 0 then some 0
  else
    let held := d.areasOn core
    ((List.range (l.pool / 4096)).map (fun i => l.poolBase + 4096 * i)).find? (fun o =>
      decide (o + l.w ≤ l.poolBase + l.pool) && held.all (fun a => decide (a.1 + a.2 ≤ o) || decide (o + l.w ≤ a.1)))

/-- Other kernels resident on a core. -/
def Dev.othersOn (d : Dev) (core id : Nat) : List Launch :=
  (d.core.launches.filter (fun k => k.id != id && d.core.blocks.any (fun b => b.core == core && b.launch == k.id && !b.ended)))

/-- A core admits blocks of a launch beside its registers, slots and area (R77, R128, R219). -/
def Dev.coreFits (e : Env) (d : Dev) (core : Nat) (l : Launch) : Bool :=
  d.get (SP_STATUS.FAILED core) == 0 &&
  (!l.array || bit e.chip.arrays core) &&
  (d.othersOn core l.id).all (fun k => k.tables &&& l.tables == 0 && !(l.array && k.array)) &&
  (!l.array || (d.arr core).launch == 0 || (d.arr core).launch == l.id)

/-! Start of a block. -/

/-- The first block of a launch on a core: the start acquire, its tables, its array (R77, R128, R272). -/
def Dev.kernelStart (e : Env) (d : Dev) (core : Nat) (l : Launch) : Dev :=
  if l.startedOn.contains core then d
  else
    let d := d.invalidateL1 core
    let d := { d with core := { d.core with icache := Sparse.clearIf d.core.icache (fun k => icCore k == core) } }
    let d := (maskList 4 l.tables).foldl (fun d k =>
      let d := d.takeHome e (l.tabAddr.getD k 0) 4096 (if l.kernel then 31 else l.part) 1
      let bs := match d.homeBytes (l.tabAddr.getD k 0) 4096 with | some (b, _) => b | none => []
      d.setFtab core k { loaded := true, busy := false, coef := tableWords bs, next := [] }) d
    let d := if l.array then d.arrayStart core l.id else d
    d.setLaunch { l with startedOn := l.startedOn ++ [core] }

/-- A group as it starts (R36, R74). -/
def startGroup (l : Launch) (block index cyc : Nat) : Group :=
  let n := min 32 (l.threads - 32 * index)
  let on := BitVec.ofNat 32 (2 ^ n - 1)
  let args := (List.range 64).filterMap (fun k =>
    let v := leOf ((l.args.drop (4 * k)).take 4)
    if v = 0 then none else some (k, BitVec.ofNat 32 v))
  { (default : Group) with
    live := true, launch := l.id, block := block, index := index, pc := l.code, mask := on, exited := ~~~on, u := args,
    alloc := allocRegs l.regs, st := .run, start := cyc }

/-- One block is placed on a core where there is room (R43-R46). -/
def Dev.placeBlock (e : Env) (d : Dev) (core rank index : Nat) (id : Nat) : Option Dev :=
  let l := d.launchOf id
  let gs := d.corePlaces core
  let n := ceilDiv l.threads 32
  let held := d.residents core
  if !d.coreFits e core l || decide (16 ≤ held.length) ||
      decide (blocksPerCore l.regs n l.pool l.w ≤ (held.filter (fun b => b.launch == id)).length) then none
  else
    match placeGroups core (allocRegs l.regs) n gs, d.areaFor core l with
    | some places, some area =>
      let first := !d.runsOn core id
      let d := d.kernelStart e core l
      let b := d.core.nextBlock
      let blk : Block := { id := b, launch := id, core := core, index := index, rank := rank, cluster := index / max 1 l.cluster, area := area,
                           groups := places, ended := false }
      let d := { d with core := { d.core with blocks := d.core.blocks ++ [blk], nextBlock := b + 1 } }
      let d := (places.zipIdx).foldl (fun d p =>
        d.setGrp { core := core, quarter := p.1.1, slot := p.1.2 } (startGroup l b p.2 (d.cycles (sectOf core)))) d
      let d := { d with mgmt := { d.mgmt with idleSince := d.mgmt.idleSince.put (sectOf core) 0 } }
      match places with
      | (q, s) :: _ => some (if first then d.trace e 2 { core := core, quarter := q, slot := s } l.part (l.queue % 4096 + 4096 * l.seq) else d)
      | [] => some d
    | _, _ => none

/-- The blocks of a cluster are placed in a section under a rotation (R47). -/
def Dev.placeCluster (e : Env) (d : Dev) (sect rot first id : Nat) : Nat → Option Dev
  | 0 => some d
  | n + 1 =>
    match Dev.placeCluster e d sect rot first id n with
    | none => none
    | some d => d.placeBlock e (8 * sect + (rot + n) % 8) n (first + n) id

/-- The first answer of a list of tries. -/
def firstSome {α β : Type} (f : α → Option β) : List α → Option β
  | [] => none
  | x :: t => match f x with | some y => some y | none => firstSome f t

/-- Inserts a core before the first that holds more groups. -/
def insertCore (n : Nat → Nat) (c : Nat) : List Nat → List Nat
  | [] => [c]
  | x :: t => if n c < n x then c :: x :: t else x :: insertCore n c t

/-- The cores of some sections, fewest resident groups first, lowest number first (R47). -/
def Dev.coreOrder (d : Dev) (sections : Nat) : List Nat :=
  let cores := (maskList 16 sections).flatMap (fun s => (List.range 8).map (fun i => 8 * s + i))
  let counts := cores.map (fun c => (c, (d.corePlaces c).length))
  let n := fun (c : Nat) => ((counts.find? (fun x => x.1 == c)).map (fun x => x.2)).getD 0
  cores.foldl (fun l c => insertCore n c l) []

/-- Where the next block or cluster of a launch goes, and the device with it there (R47). First: the section. -/
def Dev.dispatchNext (e : Env) (d : Dev) (id : Nat) : Option (Nat × Dev) :=
  let l := d.launchOf id
  if l.cluster ≤ 1 then
    firstSome (fun c => (d.placeBlock e c 0 l.next id).map (fun x => (sectOf c, x))) (d.coreOrder l.sections)
  else
    firstSome (fun s => firstSome (fun b => (d.placeCluster e s b l.next id l.cluster).map (fun x => (s, x))) (List.range 8))
      (maskList 16 l.sections)

/-- A launch still has blocks to place. -/
def Launch.placing (l : Launch) : Bool := l.live && !l.stopping && !l.ending && decide (l.next < l.blocks)

/-- The section is without power (R474). -/
def Dev.gated (d : Dev) (s : Nat) : Bool := d.get (MGMT_SECTION.GATED s) == 1

/-- The gated section that Chanter waits for to place the next block of a launch (R474). -/
def Dev.wantsSection (e : Env) (d : Dev) (l : Launch) : Option Nat :=
  if l.placing then
    match d.dispatchNext e l.id with
    | some (s, _) => if d.gated s then some s else none
    | none => none
  else none

/-- BLOCK_DISPATCH: the next block or cluster of a launch is placed; the first one starts its command (R47, R344, R350). It waits while
sectors of the launch's tables are under repair (log entry 80). -/
def execBlockDispatch (launch : Nat) (s : State) : Host.Outcome State Fault Refusal :=
  s.onDev fun e d =>
    let l := d.launchOf launch
    if !l.placing then d
    else
      match d.dispatchNext e launch with
      | none => d
      | some (sect, d') =>
        let wait := (maskList 4 l.tables).filter (fun k => d'.repairing (l.tabAddr.getD k 0) 4096)
        if d.gated sect then d
        else if !wait.isEmpty then
          wait.foldl (fun d k => d.takeHome e (l.tabAddr.getD k 0) 4096 (if l.kernel then 31 else l.part) 1) d
        else
          let k := d'.launchOf launch
          let d' := d'.setLaunch { k with next := k.next + max 1 k.cluster }
          let x := d'.ctx k.ctx
          if x.live && x.st == .fetched then d'.ctxStart k.ctx else d'

/-! End. -/

/-- The device-scope release of a kernel's end has nothing left to wait for (R100, R272; log entry 31). -/
def Dev.kernelReleased (d : Dev) (l : Launch) : Bool :=
  !d.mem.l2q.any (fun r => r.part == l.part && (match r.src, r.op with | .core _, .write _ | .core _, .atom _ => true | _, _ => false)) &&
  !(d.mem.lz ++ d.mem.port).any (fun z => z.part == l.part) && !d.mem.hostq.any (fun w => w.part == l.part) &&
  !d.ses.queue.any (fun o => o.src.launch == l.id) &&
  !(List.range 128).any (fun c => (d.arr c).launch == l.id)

/-- Every group of a kernel leaves its core at once: it stops, leaves barriers and Sesame's lists, and its waits and range
requests are abandoned; its stores still drain (R100, R129, R311). -/
def Dev.launchStop (e : Env) (d : Dev) (id : Nat) : Dev :=
  let l := d.launchOf id
  let mine := d.core.groups.filter (fun x => x.2.live && x.2.launch == id)
  let cores := ((mine.map (fun x => (gidOf x.1).core)).eraseDups)
  let isMine := fun (g : Gid) => mine.any (fun x => x.1 == gidKey g)
  let d := d.sesRemove (fun o => o.src.launch == id) true
  let d := { d with ses := { d.ses with
    locks := d.ses.locks.filter (fun w => !isMine w.g) } }
  let d := d.dropWakes e (fun w => w.op.src.launch == id)
  let d := d.semWithdrawAll e (fun o => o.src.launch == id)
  let others := fun (w : Waiter) => match w with | .group g => !isMine g | _ => true
  let reqs := d.rt.reqs.map (fun (r : RangeReq) => { r with waiters := r.waiters.filter others })
  let d := { d with rt := { d.rt with reqs := reqs } }
  let d := mine.foldl (fun d x => d.setGrp (gidOf x.1) { (default : Group) with exited := 0xFFFFFFFF, block := x.2.block, launch := id }) d
  let d := { d with core := { d.core with blocks := d.core.blocks.filter (fun b => b.launch != id) } }
  let d := (List.range 128).foldl (fun d c => if (d.arr c).launch = id then d.arrayAbort c else d) d
  let d := cores.foldl (fun d c =>
    let d := d.trace e 3 { core := c, quarter := 0, slot := 0 } l.part (l.queue % 4096 + 4096 * l.seq)
    if d.sectIdle (sectOf c) then { d with mgmt := { d.mgmt with idleSince := d.mgmt.idleSince.put (sectOf c) (e.time + 1) } } else d) d
  let d := d.setLaunch { (d.launchOf id) with stopping := true }
  if l.ending then (List.range 128).foldl (fun d c => if (d.arr c).launch = id then d.arraySettle c else d) d else d.launchEnd e id

/-- KERNEL_ABORT: on an exception, or an abort of its command, Chanter stops the kernel and its end release begins (R100). -/
def execKernelAbort (launch : Nat) (s : State) : Host.Outcome State Fault Refusal :=
  s.onDev fun e d =>
    let l := d.launchOf launch
    if l.live && !l.ending && (l.exc.isSome || l.aborted) then d.launchStop e launch else d

/-- The launch leaves Chanter's table. -/
def Dev.dropLaunch (d : Dev) (id : Nat) : Dev :=
  { d with core := { d.core with launches := d.core.launches.filter (fun l => l.id != id) } }

/-- How a kernel that has ended and whose release has run ends its command (R100, R350, R366). -/
def Dev.kernelEnd (e : Env) (d : Dev) (c : Nat) : Dev :=
  match (d.ctx c).launch with
  | none => d
  | some id =>
    let l := d.launchOf id
    if !(l.live && l.ending && d.kernelReleased l) then d
    else if l.aborted then d.ctxFinish e c .aborted l.ended none
    else
      match l.exc with
      | some x => d.ctxFinish e c .faulted l.ended (some { FaultData.of 1 0x30 with addr := x.addr, reqId := x.reqId })
      | none => d.ctxFinish e c .done l.ended none

end Sys2Proof.Machine
end

