-- ==== Sys2Proof/Machine/ChanterOps.lean ====
section
/-! DEFINITION. Chanter's shared operations: the forms of commands and their checks (R342, R346-R350, R352), addresses that
commands name (R347), reading memory for a command, queues stopping (R349), reports of completions (R354, R355, R367). -/

namespace Sys2Proof.Machine

/-! Forms (Table: Opcodes, Table: LAUNCH command, Table: One-slot command bodies). -/

def opNop : Nat := 0x00
def opLaunch : Nat := 0x01
def opDma : Nat := 0x02
def opGraphLaunch : Nat := 0x03
def opSemWait : Nat := 0x04
def opSemAdd : Nat := 0x05
def opWriteValue : Nat := 0x06
def opGraphStore : Nat := 0x07
def opGraphPatch : Nat := 0x08
def opGraphFree : Nat := 0x09
def opSemSet : Nat := 0x10
def opRegWrite : Nat := 0x11
def opSelftest : Nat := 0x12

/-- A listed opcode (R346). -/
def opKnown (op : Nat) : Bool := decide (op ≤ 9) || decide (0x10 ≤ op ∧ op ≤ 0x12)

/-- A kernel-only opcode. -/
def opPrivileged (op : Nat) : Bool := decide (0x10 ≤ op)

/-- The slot count fits the opcode. -/
def opSlotsOk (op n : Nat) : Bool :=
  if op = opRegWrite then decide (1 ≤ n ∧ n ≤ 4) else if op = opLaunch then n == 2 else n == 1

/-- The bits of the word at an offset that a command may set; every other bit is reserved. `entries`: of a REG_WRITE. -/
def opMask (op entries off : Nat) : Nat :=
  let all := 2 ^ 64 - 1
  if op = opLaunch then
    if off = 0x20 then 2 ^ 30 - 1 + (2 ^ 9 - 1) * 2 ^ 32 else if off = 0x30 then 2 ^ 48 - 1 else if off ≤ 0x50 then all else 0
  else if op = opRegWrite then
    if off = 0x08 then 0xF
    else if off < 0x10 + 16 * entries then (if off % 16 = 0 then 2 ^ 32 - 1 else all) else 0
  else
    match op, off with
    | 0x02, 0x08 => all
    | 0x02, 0x10 => 0x7F
    | 0x04, 0x08 | 0x04, 0x10 => all
    | 0x04, 0x18 => 2 ^ 32 - 1
    | 0x05, 0x08 | 0x05, 0x10 => all
    | 0x06, 0x08 | 0x06, 0x10 => all
    | 0x06, 0x18 => 1
    | 0x10, 0x08 | 0x10, 0x10 => all
    | 0x12, 0x08 => 0xF
    | 0x12, 0x10 | 0x12, 0x18 => 2 ^ 32 - 1
    | 0x03, 0x08 | 0x09, 0x08 => 0x3FF
    | 0x07, 0x08 => 0x3FF
    | 0x07, 0x10 => all
    | 0x07, 0x18 => 2 ^ 32 - 1
    | 0x08, 0x08 => 0x3FF + (2 ^ 17 - 1) * 2 ^ 32
    | 0x08, 0x10 => all
    | _, _ => 0

/-- A march parameter word that R221 does not refuse. -/
def marchParamOk (v : Nat) : Bool :=
  !(bit v 2 && bits v 0 2 != 1) && bits v 0 2 != 3 && bits v 28 4 == 0

/-- Field rules beside the reserved bits (Table: One-slot command bodies, R221, R352; log entry 32). -/
def fieldsOk (op : Nat) (w : Nat → Nat) (slots : Nat) : Bool :=
  if op = opLaunch then decide (bits (w 0x20) 32 9 ≤ 256)
  else if op = opDma then w 0x08 % 64 == 0
  else if op = opWriteValue then w 0x08 % 8 == 0
  else if op = opGraphStore ∨ op = opGraphPatch then w 0x10 % 64 == 0
  else if op = opSelftest then
    match bits (w 0x08) 0 4 with
    | 0 => marchParamOk (w 0x10)
    | 1 | 2 => decide (w 0x10 < 128)
    | _ => false
  else if op = opRegWrite then
    let n := bits (w 0x08) 0 4
    decide (1 ≤ n) && decide (0x10 + 16 * n ≤ 64 * slots) &&
      (List.range n).all (fun i => w (0x10 + 16 * i) % 8 == 0 && decide (w (0x10 + 16 * i) < 0x4000000))
  else true

/-- Check 3 of R348 on a command's bytes: opcode, slot count, reserved fields. -/
def formOk (bs : List Byte) : Bool :=
  let w := fun (o : Nat) => leOf ((bs.drop o).take 8)
  let h := w 0
  let op := bits h 0 8
  let n := bits h 16 4
  opKnown op && opSlotsOk op n && bits h 10 6 == 0 && bits h 20 12 == 0 && bits h 48 16 == 0 &&
  (List.range (8 * n - 1)).all (fun i => w (8 * (i + 1)) &&& opMask op (bits (w 0x08) 0 4) (8 * (i + 1)) == w (8 * (i + 1))) &&
  fieldsOk op w n

/-- Check 4 of R348: privilege. -/
def privOk (kernel : Bool) (bs : List Byte) : Bool :=
  let w := fun (o : Nat) => leOf ((bs.drop o).take 8)
  let op := bits (w 0) 0 8
  kernel || (!opPrivileged op && !(op == opLaunch && (bit (w 0x20) 29 || bits (w 0x30) 32 16 != 0)))

/-! The fields of a LAUNCH. -/

/-- The fields of a LAUNCH command (Table: LAUNCH command). -/
structure LaunchCmd where
  code : Nat
  args : Nat
  gx : Nat
  gy : Nat
  gz : Nat
  threads : Nat
  cluster : Nat
  regs : Nat
  tables : Nat
  array : Bool
  phys : Bool
  arglen : Nat
  w : Nat
  pool : Nat
  base : Nat
  sections : Nat
  tab : List Nat
deriving DecidableEq, Repr, Inhabited

/-- The LAUNCH command in some slots. -/
def launchOf (bs : List Byte) : LaunchCmd :=
  let w := fun (o : Nat) => leOf ((bs.drop o).take 8)
  { code := w 0x08, args := w 0x10, gx := bits (w 0x18) 0 32, gy := bits (w 0x18) 32 16, gz := bits (w 0x18) 48 16,
    threads := bits (w 0x20) 0 11, cluster := bits (w 0x20) 11 5, regs := bits (w 0x20) 16 8, tables := bits (w 0x20) 24 4,
    array := bit (w 0x20) 28, phys := bit (w 0x20) 29, arglen := bits (w 0x20) 32 9, w := bits (w 0x28) 0 32,
    pool := bits (w 0x28) 32 32, base := bits (w 0x30) 0 32, sections := bits (w 0x30) 32 16,
    tab := [w 0x38, w 0x40, w 0x48, w 0x50] }

/-- The area fields are legal. -/
def LaunchCmd.areaOk (l : LaunchCmd) : Bool :=
  l.w % 4096 == 0 && l.pool % 4096 == 0 && l.base % 4096 == 0 && decide (l.w ≤ spSize) && decide (l.base + l.pool ≤ spSize)

/-- Checks of a LAUNCH that rest on its own fields, in the order of their codes; 0 passes (R37, R348). -/
def LaunchCmd.check (l : LaunchCmd) : Nat :=
  let blocks := l.gx * l.gy * l.gz
  if blocks = 0 ∨ 2 ^ 32 ≤ blocks ∨ (l.cluster ≠ 0 ∧ blocks % l.cluster ≠ 0) then 0x10
  else if l.threads = 0 ∨ 1024 < l.threads then 0x11
  else if l.cluster = 0 ∨ 16 < l.cluster then 0x12
  else if l.regs < 8 then 0x14
  else if !l.areaOk then 0x15
  else if (maskList 4 l.tables).any (fun k => l.tab.getD k 0 % 4096 != 0) then 0x16
  else 0

/-! Who a command acts for. -/

/-- The agent of a command (R347). -/
def Dev.ctxAgent (d : Dev) (c : Nat) : Agent :=
  let q := (d.ctx c).queue
  { kernel := d.qKernel q, part := d.qPart q, dma := false, march := false }

/-- The queue is bound to a function of the control-owner port (R346). -/
def Dev.ownerQueue (d : Dev) (q : Nat) : Bool := d.get GLOBAL_OWNER.OWNER == portOf (d.qFunc q)

/-! Ends. -/

/-- A queue stops (R349). -/
def Dev.stopQueue (d : Dev) (q : Nat) : Dev := if d.get (QUEUE_STATUS.STATE q) = 0 then d else d.put (QUEUE_STATUS.STATE q) 4

/-- The command of a ring, not of a graph node. -/
def isRing (c : Nat) : Bool := decide (c < 512)

/-- A command that fails a check ends FAULTED and never starts; its queue stops (R348, R349). -/
def Dev.ctxReject (e : Env) (d : Dev) (c kind code addr reqId : Nat) : Dev :=
  let d := d.ctxFinish e c .faulted 0 (some { FaultData.of kind code with addr := addr, reqId := reqId })
  if isRing c then d.stopQueue (d.ctx c).queue else d

/-- The context waits for a range request (R335). -/
def Dev.ctxWaits (d : Dev) (c : Nat) : Bool :=
  let x := d.ctx c
  d.rt.reqs.any (fun r => r.id == x.reqId && r.waiters.contains (.chanter c))

/-- Another ready node of its graph run with a lower index has not started yet (R360). -/
def Dev.nodeBehind (d : Dev) (c : Nat) : Bool :=
  match (d.ctx c).node with
  | none => false
  | some (r, n) => d.fe.ctxs.any (fun y => y.2.live && y.2.st == .fetched &&
      (match y.2.node with | some (r', n') => r' == r && decide (n' < n) | none => false))

/-- A command of an opcode whose turn it is to start. -/
def Dev.startable (d : Dev) (c op : Nat) : Bool :=
  (d.ctx c).canStart op && (d.ctx c).launch.isNone && !d.ctxWaits c && !d.nodeBehind c

/-! Addresses. -/

/-- What an address of a command comes to: its place, a range request it waits for, a fault. -/
inductive CmdAddr where
  | at' (d : Dev) (p : Place)
  | wait (d : Dev)
  | fault (d : Dev) (code reqId : Nat)

/-- The place that an address of a command names, as far as the entries held map it. -/
def Dev.cmdPlace (d : Dev) (c : Nat) (virt : Bool) (a : Nat) : Option Place :=
  if !virt then some (d.place a)
  else if 2 ^ 57 ≤ a then none
  else (d.rtFind whoChanter (d.qAsid (d.ctx c).queue) a).map (fun r => d.place (r.pstart + (a - r.vstart)))

/-- An address of a command: virtual under the queue's ASID, or local physical or fabric (R329, R347, R348; log entry 33). -/
def Dev.cmdAddr (e : Env) (d : Dev) (c : Nat) (virt : Bool) (a n kinds : Nat) : CmdAddr :=
  let x := d.ctx c
  let asid := d.qAsid x.queue
  let d := if virt then d.rtTouch whoChanter asid a else d
  match if virt then d.checkVirtual whoChanter asid a n kinds false else d.checkPhysical (d.ctxAgent c) a n kinds with
  | .ok p _ => .at' d p
  | .exc code => .fault d (if code = xUnmapped then 0x06 else 0x07) 0
  | .miss va =>
    match x.denied.find? (fun r => r.1 == va / 4096 * 4096) with
    | some r => .fault d 0x07 r.2
    | none =>
      match d.rtRequest e asid va kinds 3 0 (.chanter c) with
      | some (id, d) => .wait (d.setCtx c { x with reqId := id })
      | none => .wait d

/-- A command's addresses are virtual where its queue is a user queue. -/
def Dev.cmdVirt (d : Dev) (c : Nat) : Bool := !d.qKernel (d.ctx c).queue

/-- The pieces of n bytes at an address, page by page. `fuel`: at least the pages touched. -/
def pagePieces (a : Nat) : Nat → Nat → List (Nat × Nat)
  | _, 0 => []
  | n, fuel + 1 => if n = 0 then [] else let k := min n (4096 - a % 4096); (a, k) :: pagePieces (a + k) (n - k) fuel

/-- What the checks of a command's addresses have found so far: a wait, the first that breaks R27, the first out of reach. -/
structure AddrFind where
  wait : Bool
  unmapped : Option (Nat × Nat)
  denied : Option (Nat × Nat)
deriving DecidableEq, Repr, Inhabited

/-- Checks 6 and 7 of R348 on spans of a command's addresses, each an address, a length and the kinds of access: every span for R27 before
any for the queue's reach. Second: 0 where all pass, 1 where a translation is awaited, else the fault with its address and request. -/
def Dev.cmdSpans (e : Env) (d : Dev) (c : Nat) (virt : Bool) (l : List (Nat × Nat × Nat)) : Dev × Nat × Nat × Nat :=
  let ps := l.flatMap (fun s => (pagePieces s.1 s.2.1 (s.2.1 / 4096 + 2)).map (fun p => (p.1, p.2, s.2.2)))
  let r := ps.foldl (fun (r : Dev × AddrFind) p =>
    if r.2.wait then
      (match r.1.cmdAddr e c virt p.1 p.2.1 p.2.2 with
       | .fault _ 0x06 q => (r.1, { r.2 with unmapped := r.2.unmapped <|> some (p.1, q) })
       | _ => r)
    else
      match r.1.cmdAddr e c virt p.1 p.2.1 p.2.2 with
      | .at' d _ => (d, r.2)
      | .wait d => (d, { r.2 with wait := true })
      | .fault d 0x06 q => (d, { r.2 with unmapped := r.2.unmapped <|> some (p.1, q) })
      | .fault d _ q => (d, { r.2 with denied := r.2.denied <|> some (p.1, q) })) (d, default)
  match r.2.unmapped, r.2.wait, r.2.denied with
  | some (a, q), _, _ => (r.1, 0x06, a, q)
  | none, true, _ => (r.1, 1, 0, 0)
  | none, false, some (a, q) => (r.1, 0x07, a, q)
  | none, false, none => (r.1, 0, 0, 0)

/-! Reading memory. -/

/-- What a read for a command comes to. -/
inductive CmdRead where
  | ok (d : Dev) (bs : List Byte) (poison : Bool)
  | wait (d : Dev)
  | fault (d : Dev) (code addr reqId : Nat)

/-- What a command has read stays with it until it ends, so that a wait reads nothing twice. -/
def Dev.cmdKeep (d : Dev) (c pos n : Nat) (bs : List Byte) (poison : Bool) : Dev :=
  let x := d.ctx c
  d.setCtx c { x with reads := x.reads ++ [{ id := 0, pos := pos, len := n, data := some (bs, poison), fault := 0 }] }

/-- One piece of a read that stays within a page: at its home through L2 in the latency-critical class (R247), waiting while a sector is
under repair (log entry 80), or a READ of a peer (R410). -/
def Dev.cmdPiece (e : Env) (d : Dev) (c : Nat) (p : Place) (a pos n : Nat) : CmdRead :=
  match p with
  | .fab id o =>
    if d.peerDead id then .fault d 0x07 a 0
    else
      let x := d.ctx c
      let k := d.newId
      let rd : DmaRead := { id := k.1, pos := pos, len := n, data := none, fault := 0 }
      let g := d.ctxAgent c
      let d := k.2.setCtx c { x with reads := x.reads ++ [rd] }
      .wait (d.fabSend e id (.bind k.1) none (d.packet id tRead 1 (d.tagOf g.kernel g.part) 0 n o []))
  | .ses _ | .unmapped => .fault d 0x06 a 0
  | p =>
    let d := d.takeHome e p.addr n (d.ctxAgent c).part 0
    if d.repairing p.addr n then .wait d
    else
      match d.homeBytes p.addr n with
      | some (bs, b) => .ok (d.cmdKeep c pos n bs b) bs b
      | none => .fault d 0x06 a 0

/-- The n bytes at an address for a command, page by page; `pos`: of the first byte. `fuel`: at least the pages touched. -/
def Dev.cmdRead (e : Env) (d : Dev) (c : Nat) (virt : Bool) (a pos : Nat) : Nat → Nat → CmdRead
  | _, 0 => .ok d [] false
  | n, fuel + 1 =>
    if n = 0 then .ok d [] false else
    let k := min n (4096 - a % 4096)
    let now : CmdRead :=
      match (d.ctx c).reads.find? (fun r => r.pos == pos) with
      | some r =>
        (match r.data with
         | some (bs, bad) => .ok d bs bad
         | none => if r.fault = 0 then .wait d else .fault d r.fault a 0)
      | none =>
        match d.cmdAddr e c virt a k kRead with
        | .wait d => .wait d
        | .fault d code r => .fault d code a r
        | .at' d p => d.cmdPiece e c p a pos k
    match now with
    | .ok d bs b =>
      match Dev.cmdRead e d c virt (a + k) (pos + k) (n - k) fuel with
      | .ok d cs b' => .ok d (bs ++ cs) (b || b')
      | r => r
    | r => r

/-- The pages that n bytes touch, at most. -/
def pagesOf (n : Nat) : Nat := n / 4096 + 2

/-! Reports. -/

/-- The bytes of a command's fault record but its last word (R367, Table: Fault record). -/
def Dev.faultBytes (d : Dev) (x : Ctx) (f : FaultData) (rec : Nat) : List Byte :=
  let q := x.queue
  let l := match x.launch with | some id => d.launchOf id | none => default
  let cap := if f.kind = 1 then l.exc else none
  let run := (d.fe.runs.find? (fun r => some r.id == x.run))
  let graph := match run with | some r => if f.kind = 3 then r.graph + f.node * 2 ^ 16 + r.number * 2 ^ 32 else 0xFFFF | none => 0xFFFF
  let w := fun (g : Capture → Nat) => match cap with | some k => g k | none => 0
  let ws : List Nat :=
    [rec % 65536 + f.kind * 2 ^ 16 + (if f.kind = 3 then f.nodeCode else f.code) * 2 ^ 24 + q % 4096 * 2 ^ 32 + x.seq % 65536 * 2 ^ 48,
     match cap with | some k => k.time | none => x.capTime,
     x.addr, graph,
     d.qFunc q + d.qPart q * 2 ^ 5 + d.qAsid q * 2 ^ 16 + (match cap with | some _ => l.further | none => 0) * 2 ^ 32,
     w (fun k => k.code + k.gid.core * 2 ^ 8 + k.gid.quarter * 2 ^ 16 + k.gid.slot * 2 ^ 18 + k.trap * 2 ^ 22 + k.lanes.toNat * 2 ^ 32),
     w (fun k => k.pc.toNat),
     match cap with | some k => k.addr | none => f.addr,
     w (fun k => match k.owner with | some o => o % 2 ^ 39 + 2 ^ 39 | none => 0),
     w (fun k => k.mxTag) + (match cap with | some k => k.reqId | none => f.reqId) * 2 ^ 32,
     w (fun k => k.tilePc.toNat),
     x.progress,
     match f.engine with | some n => n + 64 | none => 0,
     f.descAddr, f.descStatus, f.descProgress]
  let tail : List Nat :=
    [w (fun k => k.mask.toNat + k.depth * 2 ^ 32),
     w (fun k => k.array),
     match cap with | some k => k.head + k.tail * 2 ^ 32 | none => x.head + x.tail * 2 ^ 32, 0, 0, 0, 0]
  ws.flatMap (leBytes 8) ++ (x.bytes.take 64 ++ List.replicate (64 - min 64 x.bytes.length) 0) ++ tail.flatMap (leBytes 8)

/-- Writes bytes to a ring or word of a function: local HBM, or the host on its port (R340, R355, R367). -/
def Dev.postRing (d : Dev) (f part : Nat) (device : Bool) (a : Nat) (bs : List Byte) : Dev :=
  if device then d.writeHome a part bs false else d.postHost f a bs

/-- A fault record is written to the bound function's ring, or counted as lost (R367). Answer: its number. -/
def Dev.faultRecord (d : Dev) (x : Ctx) (f : FaultData) : Dev × Nat :=
  let fn := d.qFunc x.queue
  let last := d.fe.recSeq.look fn
  let n := if last + 1 = 65536 then 1 else last + 1
  let d := { d with fe := { d.fe with recSeq := d.fe.recSeq.put fn n } }
  let size := d.get (FE_FAULT_CTL.SIZE fn)
  let prod := d.get (FE_FAULT_PROD.PROD fn)
  let used := (prod + 2 ^ 32 - d.get (FE_FAULT_CONS.CONS fn)) % 2 ^ 32
  if d.get (FE_FAULT_CTL.ENABLE fn) = 0 ∨ 2 ^ size ≤ used then (d.bump FE_STATS.FAULT_LOST 1, n)
  else
    let bs := d.faultBytes x f n
    let lastWord := leBytes 8 (crc32c bs + b2n (bit prod size) * 2 ^ 32)
    let a := d.get (FE_FAULT_BASE.BASE fn) * 4096 + 256 * (prod % 2 ^ size)
    let d := d.postRing fn (d.qPart x.queue) (d.get (FE_FAULT_CTL.DEVICE fn) == 1) a (bs ++ lastWord)
    (d.incr (FE_FAULT_PROD.PROD fn), n)

/-- The state of a completion (R355). -/
def Terminal.code : Terminal → Nat
  | .done => 1
  | .faulted => 2
  | .aborted => 3
  | .deferred => 4

/-- The report of a command that has reached its terminal state, with every earlier one of its queue reported: completion word,
fault record, CMD_DONE; its context is free again (R354, R355). -/
def Dev.reportCmd (e : Env) (d : Dev) (c : Nat) (t : Terminal) : Dev :=
  let x := d.ctx c
  let q := x.queue
  let y := d.fe.queues.look q
  let d := { d with fe := { d.fe with queues := d.fe.queues.put q { y with completed := (y.completed + 1) % 2 ^ 32, order := y.order.filter (fun k => k != c) } } }
  let d := d.put (QUEUE_TAIL.DONE_SEQ q) x.seq
  let a := d.get (QUEUE_COMPL.ADDR q) * 8
  let d := if a = 0 then d else
    d.postRing (d.qFunc q) (d.qPart q) (d.get (QUEUE_RING.DEVICE q) == 1) a
      (leBytes 8 (x.seq % 65536 + t.code * 2 ^ 16 + (y.completed + 1) % 2 ^ 32 * 2 ^ 32))
  let r := match t, x.fault with
    | .faulted, some f => d.faultRecord x f
    | _, _ => (d, 0)
  let d := r.1
  let d := if t != .done || bit (x.num 0 8) 8 then
      d.postF e 0x01 (d.qFunc q) (d.qPart q) [q % 4096 + x.seq % 65536 * 2 ^ 32 + t.code * 2 ^ 48, r.2 + x.progress % 2 ^ 32 * 2 ^ 32] else d
  let d := match x.launch with | some id => d.dropLaunch id | none => d
  let d := match x.run with
    | some id => { d with fe := { d.fe with runs := d.fe.runs.filter (fun r => r.id != id) } }
    | none => d
  d.setCtx c default

/-- Reports of a queue in ring order: every leading command with a terminal state (R354, R355). `fuel`: at least those held. -/
def Dev.reportQueue (e : Env) (d : Dev) (q : Nat) : Nat → Dev
  | 0 => d
  | fuel + 1 =>
    match (d.fe.queues.look q).order with
    | [] => d
    | c :: _ =>
      match (d.ctx c).st with
      | .terminal t => Dev.reportQueue e (d.reportCmd e c t) q fuel
      | _ => d

/-- A queue that is being disabled is DISABLED once its commands have ended (R371). -/
def Dev.disableSettle (d : Dev) (q : Nat) : Dev :=
  let y := d.fe.queues.look q
  if y.disabling && y.order.isEmpty then
    let d := { d with fe := { d.fe with queues := d.fe.queues.put q { y with disabling := false } } }
    d.put (QUEUE_STATUS.STATE q) 0
  else d

end Sys2Proof.Machine
end

