-- ==== Sys2Proof/Machine/Graph.lean ====
section
/-! DEFINITION. Stored graphs (R357-R363): images and their checks, versions and the pool, launches and their nodes; aborts of
commands (R364-R366, R370). -/

namespace Sys2Proof.Machine

/-! Images (Table: Graph image layout). -/

/-- A word of an image. -/
def imgWord (bs : List Byte) (o : Nat) : Nat := leOf ((bs.drop o).take 8)

/-- A node's command: its slots, and nothing after them. -/
def nodeCmd (bs : List Byte) : List Byte := bs.take (64 * min 4 (bits (imgWord bs 0) 16 4))

/-- A node command passes the checks of R348 that rest on its own bits, for a queue of the graph's privilege (R359). -/
def nodeOk (priv : Bool) (bs : List Byte) : Bool :=
  let h := imgWord bs 0
  let op := bits h 0 8
  let n := bits h 16 4
  formOk (nodeCmd bs) && privOk priv bs && bits h 32 16 == 0 &&
  !(op == opGraphLaunch || op == opGraphStore || op == opGraphPatch || op == opGraphFree) &&
  (bs.drop (64 * n)).all (fun b => b == 0) && (op != opLaunch || (launchOf bs).check == 0)

/-- The entry of a node table: first edge, edges, in-degree, command; none where a reserved bit is set. -/
def nodeOf (bs : List Byte) : Option (Nat × Nat × Nat × List Byte) :=
  let h := imgWord bs 0
  if bits (imgWord bs 8) 32 32 = 0 ∧ (bs.drop 0x10).take 0x30 = List.replicate 0x30 0 then
    some (bits h 0 32, bits h 32 32, bits (imgWord bs 8) 0 32, (bs.drop 0x40).take 256)
  else none

/-- An entry of an edge table; none where a reserved bit is set. -/
def edgeOf (bs : List Byte) : Option GEdge :=
  let h := imgWord bs 0
  if bits h 1 31 = 0 ∧ bits h 48 16 = 0 then some { signal := bit h 0, target := bits h 32 16, sem := imgWord bs 8 } else none

/-- The answers of a list, if each has one. -/
def allSome {α : Type} : List (Option α) → Option (List α)
  | [] => some []
  | none :: _ => none
  | some x :: t => (allSome t).map (fun l => x :: l)

/-- The out-edges of a node. -/
def GNode.edges (n : GNode) (es : List GEdge) : List GEdge := (es.drop n.first).take n.outEdges

/-- Takes away the nodes no edge points at any longer, until nothing changes. `fuel`: at least the nodes. Answer: nodes left. -/
def peel (ns : List GNode) (es : List GEdge) : List Nat → List Nat → Nat → Nat
  | left, _, 0 => left.length
  | left, counts, fuel + 1 =>
    let free := left.filter (fun i => counts.getD i 0 == 0)
    if free.isEmpty then left.length
    else
      let rest := left.filter (fun i => counts.getD i 0 != 0)
      let hits := free.flatMap (fun i => ((ns.getD i default).edges es).filterMap (fun x => if x.signal then none else some x.target))
      let counts' := (List.range ns.length).map (fun i => counts.getD i 0 - (hits.filter (fun t => t == i)).length)
      peel ns es rest counts' fuel

/-- The checks of R359 on nodes and edges, but for their commands. -/
def topologyOk (ns : List GNode) (es : List GEdge) : Bool :=
  let targets := ns.flatMap (fun n => (n.edges es).filterMap (fun x => if x.signal then none else some x.target))
  ns.all (fun n => decide (n.first + n.outEdges ≤ es.length)) &&
  targets.all (fun t => decide (t < ns.length)) &&
  (ns.zipIdx).all (fun p => p.1.inDeg == (targets.filter (fun t => t == p.2)).length) &&
  peel ns es (List.range ns.length) (ns.map (fun n => n.inDeg)) (ns.length + 1) == 0

/-- The nodes, edges and PRIV mark of an image; none where it fails R358 or R359. Records are numbered from `rec`. -/
def imageOf (bs : List Byte) (rec : Nat) : Option (List GNode × List GEdge × Bool) :=
  let len := bs.length
  let h := imgWord bs 0
  let n := bits h 0 17
  let k := bits h 32 32
  let priv := bit (imgWord bs 8) 0
  let no := imgWord bs 0x10
  let eo := imgWord bs 0x18
  if len < 64 ∨ n = 0 ∨ 65536 < n ∨ 1048576 < k ∨ bits h 17 15 ≠ 0 ∨ bits (imgWord bs 8) 1 63 ≠ 0 ∨
      (bs.drop 0x20).take 0x20 ≠ List.replicate 0x20 0 ∨ no % 64 ≠ 0 ∨ eo % 16 ≠ 0 ∨ len < no + 320 * n ∨ len < eo + 16 * k then none
  else
    match allSome ((List.range n).map (fun i => nodeOf ((bs.drop (no + 320 * i)).take 320))),
          allSome ((List.range k).map (fun i => edgeOf ((bs.drop (eo + 16 * i)).take 16))) with
    | some ns, some es =>
      let nodes := (ns.zipIdx).map (fun p => (⟨p.1.1, p.1.2.1, p.1.2.2.1, p.1.2.2.2, rec + p.2⟩ : GNode))
      if nodes.all (fun g => nodeOk priv g.cmd) && topologyOk nodes es then some (nodes, es, priv) else none
    | _, _ => none

/-! Versions and the pool (R359, R360, R362). -/

/-- The current version of a graph. -/
def Dev.graphNow (d : Dev) (g : Nat) : Option GVersion := d.fe.versions.find? (fun v => v.graph == g && v.current)

/-- A version by its number. -/
def Dev.graphAt (d : Dev) (g n : Nat) : GVersion := (d.fe.versions.find? (fun v => v.graph == g && v.number == n)).getD default

/-- Bytes of a version beside its node records. -/
def GVersion.table (v : GVersion) : Nat := roundUp (8 * v.nodes.length) 64

/-- Bytes of a launch's counters. -/
def counterBytes (nodes : Nat) : Nat := roundUp (4 * nodes) 64

/-- Bytes of the pool in use. -/
def poolUsed (vs : List GVersion) (runs : List GRun) : Nat :=
  (vs.map (fun v => v.table)).sum + 320 * ((vs.flatMap (fun v => v.nodes.map (fun n => n.record))).eraseDups).length +
  ((vs.map (fun v => (v.edgeRec, 16 * v.edges.length))).eraseDups.map (fun p => p.2)).sum +
  ((runs.filter (fun r => r.live)).map (fun r => counterBytes r.counts.length)).sum

/-- Bytes of the pool. -/
def Dev.poolSize (d : Dev) : Nat := d.get FE_POOL_SIZE.SIZE * 4096

/-- Versions that nothing holds are reclaimed (R362). -/
def Dev.reclaim (d : Dev) : Dev :=
  { d with fe := { d.fe with versions := d.fe.versions.filter (fun v => v.current || decide (0 < v.pins)) } }

/-- GRAPH_INFO follows the current version. -/
def Dev.graphInfo (d : Dev) (g : Nat) : Dev :=
  match d.graphNow g with
  | some v => (d.put (GRAPH_INFO.VERSION g) v.number).put (GRAPH_INFO.NODES g) v.nodes.length
  | none => (d.put (GRAPH_INFO.VERSION g) 0).put (GRAPH_INFO.NODES g) 0

/-- The current version of a graph is withdrawn (R362). -/
def Dev.withdraw (d : Dev) (g : Nat) : Dev :=
  let vs := d.fe.versions.map (fun v => if v.graph = g then { v with current := false } else v)
  (({ d with fe := { d.fe with versions := vs } } : Dev).reclaim).graphInfo g

/-- A new version becomes current in one commit; none where the pool cannot hold it (R359, R362). -/
def Dev.commit (d : Dev) (v : GVersion) : Option Dev :=
  if d.poolSize < poolUsed (d.fe.versions ++ [v]) d.fe.runs then none
  else
    let last := d.fe.lastNumber.look v.graph
    let n := if last + 1 = 2 ^ 32 then 1 else last + 1
    let vs := d.fe.versions.map (fun x => if x.graph = v.graph then { x with current := false } else x)
    let fe := { d.fe with versions := vs ++ [{ v with number := n, current := true, pins := 0 }],
                          lastNumber := d.fe.lastNumber.put v.graph n, nextRec := d.fe.nextRec + v.nodes.length + 1 }
    some ((({ d with fe := fe } : Dev).reclaim).graphInfo v.graph)

/-- The queue of a command may name the graph (R357). -/
def Dev.graphReach (d : Dev) (c g : Nat) : Bool :=
  let q := (d.ctx c).queue
  d.qKernel q || d.get (GRAPH_OWNER.PART g) == d.qPart q

/-! Launches. -/

/-- A graph launch by its identity. -/
def Dev.runOf (d : Dev) (id : Nat) : GRun := (d.fe.runs.find? (fun r => r.id == id)).getD default

/-- Replaces a graph launch. -/
def Dev.setRun (d : Dev) (r : GRun) : Dev := { d with fe := { d.fe with runs := d.fe.runs.map (fun x => if x.id = r.id then r else x) } }

/-- The contexts of the nodes of a graph launch. -/
def Dev.nodeCtxs (d : Dev) (id : Nat) : List Nat :=
  (d.fe.ctxs.filter (fun x => x.2.live && (match x.2.node with | some (r, _) => r == id | none => false))).map (fun x => x.1)

/-- Nodes whose count is 0 get their contexts, in ascending index (R360). -/
def Dev.readyNodes (d : Dev) (id : Nat) : Dev :=
  let r := d.runOf id
  if r.aborting then d else
  let v := d.graphAt r.graph r.number
  let x := d.ctx r.ctx
  let ready := (List.range v.nodes.length).filter (fun i => r.counts.getD i 0 == 0 && !r.started.contains i)
  let d := d.setRun { r with started := r.started ++ ready }
  ready.foldl (fun d i =>
    let c := d.fe.nextNodeCtx
    let y : Ctx := { (default : Ctx) with live := true, queue := x.queue, bytes := nodeCmd (v.nodes.getD i default).cmd, addr := x.addr, st := .fetched,
                                          node := some (id, i) }
    ({ d with fe := { d.fe with nextNodeCtx := c + 1 } } : Dev).setCtx c y) d

/-- A launch gives back its pin and its counters (R362). -/
def Dev.unpin (d : Dev) (id : Nat) : Dev :=
  let r := d.runOf id
  if !r.live then d else
  let vs := d.fe.versions.map (fun v => if v.graph = r.graph ∧ v.number = r.number then { v with pins := v.pins - 1 } else v)
  (({ d with fe := { d.fe with versions := vs } } : Dev).setRun { r with live := false }).reclaim

/-- A graph launch ends where every node has completed, or where it is being aborted and no node runs any longer (R360, R361,
R366). -/
def Dev.runSettle (e : Env) (d : Dev) (id : Nat) : Dev :=
  let r := d.runOf id
  if !r.live || !(d.nodeCtxs id).isEmpty then d
  else if r.aborting then
    match r.fault with
    | some (n, code) => (d.unpin id).ctxFinish e r.ctx .faulted r.doneCount (some { FaultData.of 3 code with node := n, nodeCode := code })
    | none => (d.unpin id).ctxFinish e r.ctx .aborted r.doneCount none
  else if r.ended.length = r.counts.length then (d.unpin id).ctxFinish e r.ctx .done r.doneCount none
  else d

/-! Aborts. -/

/-- A command no longer waits for a translation. -/
def Dev.dropWaiter (d : Dev) (c : Nat) : Dev :=
  let reqs := d.rt.reqs.map (fun (r : RangeReq) => { r with waiters := r.waiters.filter (fun w => w != Waiter.chanter c) })
  { d with rt := { d.rt with reqs := reqs } }

/-- The engine of a DMA command is told to stop: its current descriptor, taken up or not, ends ABORTED at its next boundary; where none is
left to move, the last one whose writes are awaited (R324, R325, R366). -/
def Dev.dmaAbort (e : Env) (d : Dev) (c n : Nat) : Dev :=
  let x := d.eng n
  if x.queue.any (fun q => q.ctx == c) then
    let marked := x.queue.map (fun q => if q.ctx = c then { q with aborted := true } else q)
    if x.queue.head?.any (fun q => q.ctx == c) then
      let d := if x.st = .waitSem then d.sesForget e (.engine n) else d
      let drop := fun (r : RangeReq) => { r with waiters := r.waiters.filter (fun w => w != Waiter.engine n) }
      let d : Dev := if x.st = .waitTrans then { d with rt := { d.rt with reqs := d.rt.reqs.map drop } } else d
      let st := if x.st = .waitTrans then (if x.desc.isEmpty then .idle else if x.started then .moving else .waitBoard) else x.st
      d.setEng n { d.eng n with queue := marked, aborted := true, st := st }
    else d.setEng n { x with queue := marked }
  else
    match (x.ends.filter (fun h => h.entry.ctx == c)).getLast? with
    | some h => d.setEng n { x with ends := x.ends.map (fun y => if y.run = h.run then { y with aborted := true } else y) }
    | none => d

/-- A command that is not a graph launch is aborted (R366); none where it is past the point. -/
def Dev.abortLeaf (e : Env) (d : Dev) (c : Nat) : Option Dev :=
  let x := d.ctx c
  let asked := d.setCtx c { x with abortReq := true }
  if !x.live then none
  else
    match x.st with
    | .fetched =>
      let d := match x.launch with | some id => d.dropLaunch id | none => d
      some ((d.dropWaiter c).ctxFinish e c .aborted 0 none)
    | .started =>
      if x.abortReq then none
      else if x.opcode = opLaunch then
        match x.launch with
        | some id =>
          let l := d.launchOf id
          if l.aborted then none else some (asked.setLaunch { l with aborted := true })
        | none => none
      else if x.opcode = opDma then x.engine.map (fun n => asked.dmaAbort e c n)
      else if x.opcode = opSemWait then some ((d.sesForget e (.chanter c)).ctxFinish e c .aborted 0 none)
      else if x.opcode = opRegWrite then some asked
      else none
    | _ => none

/-- Every running node of a graph launch is aborted; a node not started never starts (R361, R366). -/
def Dev.runAbort (e : Env) (d : Dev) (id : Nat) : Dev :=
  let r := d.runOf id
  let d := d.setRun { r with aborting := true }
  let d := (d.nodeCtxs id).foldl (fun d c =>
    if (d.ctx c).st = .fetched ∧ (d.ctx c).launch.isNone then (d.dropWaiter c).setCtx c default
    else match d.abortLeaf e c with | some d => d | none => d) d
  d.runSettle e id

/-- A command is aborted (R364-R366); none where it is past the point. -/
def Dev.abortCmd (e : Env) (d : Dev) (c : Nat) : Option Dev :=
  let x := d.ctx c
  match x.st, x.run with
  | .started, some id => if x.abortReq then none else some ((d.setCtx c { x with abortReq := true }).runAbort e id)
  | _, _ => d.abortLeaf e c

/-- What a command has sent and cannot take back answers to no context any longer: its number is not used again (R366, R370). -/
def Dev.disown (d : Dev) (c : Nat) : Dev :=
  let k := d.fe.nextNodeCtx
  let src := fun (o : SesOp) => if o.src = .chanter c then { o with src := .chanter k } else o
  let own := fun (s : Sent) => if s.owner = .cmd c then { s with owner := .cmd k } else s
  let test := fun (t : Option Nat) => if t = some c then none else t
  { d with
    fe := { d.fe with nextNodeCtx := k + 1 },
    ses := { d.ses with queue := d.ses.queue.map src, wakes := d.ses.wakes.map (fun w => { w with op := src w.op }) },
    fab := { d.fab with send := d.fab.send.map (fun x => (x.1, { x.2 with pkts := x.2.pkts.map own })) },
    mem := { d.mem with
      march := d.mem.march.map (fun m => { m with ctx := test m.ctx }),
      scanRun := d.mem.scanRun.map (fun m => { m with ctx := test m.ctx }) } }

/-- A command is stopped for good with nothing reported: its kernel stops, its descriptors leave their engine, its wait is
withdrawn, its nodes stop (R326, R370). -/
def Dev.killLeaf (e : Env) (d : Dev) (c : Nat) : Dev :=
  let x := d.ctx c
  let d := d.dropWaiter c
  let d := match x.launch with | some id => (d.launchStop e id).dropLaunch id | none => d
  let d := match x.engine with
    | some n =>
      let d := if (d.eng n).queue.head?.any (fun (q : DmaEntry) => q.ctx == c) && (d.eng n).st == DmaState.waitSem then d.sesForget e (.engine n) else d
      (d.engFlr n (fun q => q.ctx == c)).1
    | none => d
  let d := if x.opcode = opSemWait then d.sesForget e (.chanter c) else d
  (d.disown c).setCtx c default

/-- A command of a ring is stopped for good (R370). -/
def Dev.killCmd (e : Env) (d : Dev) (c : Nat) : Dev :=
  let x := d.ctx c
  let d := match x.run with
    | some id =>
      let d := (d.nodeCtxs id).foldl (fun (d : Dev) k => d.killLeaf e k) d
      let d := d.unpin id
      { d with fe := { d.fe with runs := d.fe.runs.filter (fun r => r.id != id) } }
    | none => d
  d.killLeaf e c

/-- A queue is disabled at once and its commands are stopped (R370). Answer: how many commands it held. -/
def Dev.killQueue (e : Env) (d : Dev) (q : Nat) : Dev × Nat :=
  let y := d.fe.queues.look q
  let d' := y.order.foldl (fun d c => d.killCmd e c) d
  let d' := { d' with fe := { d'.fe with queues := d'.fe.queues.put q { (default : Queue) with completed := y.completed } } }
  ((d'.put (QUEUE_CTL.ENABLE q) 0).put (QUEUE_STATUS.STATE q) 0, y.order.length)

end Sys2Proof.Machine
end

