-- ==== Sys2Proof/Machine/Chanter.lean ====
section
/-! DEFINITION. Chanter's commands (R339-R372): doorbells, visits, the commands of rings and graph nodes, their ends, enabling,
disabling, resuming and aborting. REG_WRITE stands with the register writes, SELFTEST with the self-tests. -/

namespace Sys2Proof.Machine

/-! Rings. -/

/-- log2 of the slots of a ring (R340; log entry 34). -/
def Dev.ringSize (d : Dev) (q : Nat) : Nat := min 16 (max 4 (d.get (QUEUE_RING.SIZE q)))

/-- The address of slot i of a ring (R340). -/
def Dev.slotAddr (d : Dev) (q i : Nat) : Nat := d.get (QUEUE_RING.BASE q) * 4096 + 64 * (i % 2 ^ d.ringSize q)

/-- Slot i of a ring; none where it is unmapped or read poisoned (R340, R348). -/
def Dev.slot (d : Dev) (q i : Nat) : Option (List Byte) :=
  let a := d.slotAddr q i
  if d.get (QUEUE_RING.DEVICE q) = 1 then
    match d.placeLocal a with
    | .hbm x => (match d.homeBytes x 64 with | some (bs, bad) => if bad then none else some bs | none => none)
    | _ => none
  else if d.get (HOST_PORT.LINK_UP (portOf (d.qFunc q))) = 1 then some (d.hostRead (portOf (d.qFunc q)) a 64)
  else none

/-- The header of the command at the head of a ring; 0 where it cannot be read. -/
def Dev.headHeader (d : Dev) (q : Nat) : Nat :=
  match d.slot q (d.get (QUEUE_STATUS.HEAD q)) with
  | some bs => leOf (bs.take 8)
  | none => 0

/-- Slots of a device ring are read through L2 in the latency-critical class (R240, R247, R340). -/
def Dev.takeSlots (e : Env) (d : Dev) (q n : Nat) : Dev :=
  if d.get (QUEUE_RING.DEVICE q) = 1 then
    (List.range n).foldl (fun d i => d.takeHome e (d.slotAddr q (d.get (QUEUE_STATUS.HEAD q) + i)) 64 (d.qPart q) 0) d
  else d

/-- Sectors of those slots are under repair (log entry 80). -/
def Dev.slotsRepair (d : Dev) (q n : Nat) : Bool :=
  d.get (QUEUE_RING.DEVICE q) == 1 && (List.range n).any (fun i => d.repairing (d.slotAddr q (d.get (QUEUE_STATUS.HEAD q) + i)) 64)

/-- Slots of a command as its header counts them; a count that is no slot count is taken as one slot (log entry 35). -/
def headerSlots (h : Nat) : Nat := let n := bits h 16 4; if 1 ≤ n ∧ n ≤ 4 then n else 1

/-- Slots between the head and a sampled tail. -/
def Dev.ringHeld (d : Dev) (q tail : Nat) : Nat := (tail + 2 ^ 32 - d.get (QUEUE_STATUS.HEAD q)) % 2 ^ 32

/-- The next command is whole (R342). -/
def Dev.wholeCmd (d : Dev) (q tail : Nat) : Bool :=
  let k := d.ringHeld q tail
  decide (1 ≤ k) && decide (headerSlots (d.headHeader q) ≤ k)

/-- The next command may start (R344). -/
def Dev.mayStart (d : Dev) (q : Nat) : Bool :=
  let h := d.headHeader q
  let order := (d.fe.queues.look q).order
  let ended := fun (c : Nat) => match (d.ctx c).st with | .terminal _ => true | _ => false
  let graphOps := order.filter (fun c => let o := (d.ctx c).opcode; o == opGraphStore || o == opGraphPatch || o == opGraphFree)
  (match order.getLast? with
   | none => true
   | some c => if bit h 9 then (d.ctx c).st != .fetched else ended c) &&
  (bits h 0 8 != opGraphLaunch || graphOps.all ended)

/-- A free context of the 512 (R345). -/
def Dev.freeCtx (d : Dev) : Option Nat := (List.range 512).find? (fun c => !(d.ctx c).live)

/-- The tail a visit works with. -/
def Dev.tailFor (d : Dev) (q : Nat) : Nat :=
  if d.get (QUEUE_STATUS.DB_PENDING q) = 1 then d.get (QUEUE_TAIL.TAIL q) else (d.fe.queues.look q).tailSeen

/-- A queue is ready (R345): active or with a doorbell pending, its next command whole and free to start. -/
def Dev.queueReady (d : Dev) (q : Nat) : Bool :=
  let st := d.get (QUEUE_STATUS.STATE q)
  (st == 3 || (d.get (QUEUE_STATUS.DB_PENDING q) == 1 && (st == 1 || st == 2))) && !(d.fe.queues.look q).disabling &&
  d.wholeCmd q (d.tailFor q) && d.mayStart q

/-- The level of each visit in a round of 15: eight of priority 3, four of 2, two of 1, one of 0 (R345; log entry 36). -/
def visitLevels : List Nat := [3, 2, 3, 1, 3, 2, 3, 0, 3, 2, 3, 1, 3, 2, 3]

/-- The first queue after a number in ascending order, wrapping. -/
def nextAfter (last : Nat) (l : List Nat) : Option Nat :=
  match l.find? (fun q => decide (last < q)) with
  | some q => some q
  | none => l.head?

/-- The queue whose turn it is to be fetched from, and the place of its visit in the round (R345). -/
def Dev.turn (d : Dev) : Option (Nat × Nat) :=
  let ready := (d.fe.queues.map (fun x => x.1)).filter d.queueReady
  let at' := (List.range 15).find? (fun k => ready.any (fun q => d.get (QUEUE_CFG.PRIO q) == visitLevels.getD ((d.fe.visits + k) % 15) 3))
  at'.bind (fun k =>
    let pos := (d.fe.visits + k) % 15
    let lv := visitLevels.getD pos 3
    (nextAfter (d.fe.lastQueue.look lv) (ready.filter (fun q => d.get (QUEUE_CFG.PRIO q) == lv))).map (fun q => (q, pos)))

/-- Changes what a queue holds beside its registers. -/
def Dev.mapQueue (d : Dev) (q : Nat) (f : Queue → Queue) : Dev := { d with fe := { d.fe with queues := d.fe.queues.put q (f (d.fe.queues.look q)) } }

/-- The first of checks 1 to 4 of R348 that a fetched command fails, as its KIND and code. -/
def Dev.fetchCheck (d : Dev) (q : Nat) (slots : List (Option (List Byte))) (bs : List Byte) : Option (Nat × Nat) :=
  let h := leOf (bs.take 8)
  if slots.any (fun s => s.isNone) then some (5, 0x01)
  else if bits h 32 16 ≠ d.get (QUEUE_STATUS.NEXT_SEQ q) then some (0, 0x02)
  else if !formOk bs then some (0, 0x03)
  else if !privOk (d.qKernel q) bs then some (0, 0x04)
  else none

/-- One command is fetched and checked (R342-R348). -/
def Dev.fetchCmd (e : Env) (d : Dev) (q c pos : Nat) : Dev :=
  let head := d.get (QUEUE_STATUS.HEAD q)
  let n := headerSlots (d.headHeader q)
  let slots := (List.range n).map (fun i => d.slot q (head + i))
  let bs := slots.flatMap (fun s => s.getD (List.replicate 64 0))
  let bad := d.fetchCheck q slots bs
  let seqOk := match bad with | some (_, code) => code != 0x01 && code != 0x02 | none => true
  let d := d.put (QUEUE_STATUS.HEAD q) (head + n)
  let d := if seqOk then d.put (QUEUE_STATUS.NEXT_SEQ q) (d.get (QUEUE_STATUS.NEXT_SEQ q) + 1) else d
  let x : Ctx := { (default : Ctx) with
    live := true, queue := q, seq := bits (leOf (bs.take 8)) 32 16, bytes := bs, addr := d.slotAddr q head, head := (head + n) % 2 ^ 32,
    tail := d.get (QUEUE_TAIL.TAIL q), st := .fetched }
  let d := { d with fe := { d.fe with lastQueue := d.fe.lastQueue.put (d.get (QUEUE_CFG.PRIO q)) q, visits := (pos + 1) % 15 } }
  let d := (d.setCtx c x).mapQueue q (fun y => { y with order := y.order ++ [c] })
  match bad with
  | some (kind, code) => d.ctxReject e c kind code (if code = 0x01 then x.addr else 0) 0
  | none => d

/-- A scheduler visit of a queue (R356). -/
def Dev.visit (e : Env) (d : Dev) (q : Nat) : Dev :=
  let st := d.get (QUEUE_STATUS.STATE q)
  if st = 0 ∨ st = 4 ∨ d.get GLOBAL_STATUS.READY = 0 ∨ d.get GLOBAL_STATUS.FATAL_HELD = 1 then d
  else
    let turn := d.turn
    let pend := d.get (QUEUE_STATUS.DB_PENDING q) == 1
    let d := if pend then
        let d := (d.put (QUEUE_STATUS.DB_PENDING q) 0).mapQueue q (fun y => { y with tailSeen := d.get (QUEUE_TAIL.TAIL q) })
        d.put (QUEUE_STATUS.STATE q) 3
      else d
    let tail := (d.fe.queues.look q).tailSeen
    if d.get (QUEUE_STATUS.STATE q) = 3 then
      if d.wholeCmd q tail then
        match turn, d.freeCtx with
        | some (k, pos), some c =>
          if k = q ∧ d.queueReady q then
            let n := headerSlots (d.headHeader q)
            let d := d.takeSlots e q n
            if d.slotsRepair q n then d else d.fetchCmd e q c pos
          else d
        | _, _ => d
      else if d.ringHeld q tail = 0 then
        let d := if pend then d.bump FE_STATS.EMPTY_VISITS 1 else d
        d.put (QUEUE_STATUS.STATE q) 2
      else d
    else if d.get (QUEUE_STATUS.STATE q) = 2 then d.put (QUEUE_STATUS.STATE q) 1
    else d

/-- QUEUE_VISIT. -/
def execQueueVisit (q : Nat) (s : State) : Host.Outcome State Fault Refusal := s.onDev fun e d => d.visit e q

/-- DOORBELL: a write to a doorbell page (R341). A TAIL too far ahead stops the queue, with a fault record that names no command
(log entry 37). -/
def execDoorbell (f q off size : Nat) (value : Word) (s : State) : Host.Outcome State Fault Refusal :=
  s.onDev fun e d =>
    if off ≠ 0 ∨ size ≠ 4 ∨ 4096 ≤ q then d
    else if d.hostHeld e f then d.emit (.ur f)
    else if d.qFunc q ≠ f then d.bump FE_STATS.DB_FOREIGN 1
    else
      let d := (d.put (QUEUE_TAIL.TAIL q) value.toNat).put (QUEUE_STATUS.DB_PENDING q) 1
      let st := d.get (QUEUE_STATUS.STATE q)
      if st = 0 ∨ st = 4 then d
      else if 2 ^ d.ringSize q < d.ringHeld q value.toNat then
        let x : Ctx := { (default : Ctx) with queue := q, head := d.get (QUEUE_STATUS.HEAD q), tail := value.toNat, capTime := e.time }
        ((d.stopQueue q).faultRecord x (FaultData.of 0 0x08)).1
      else d

/-! Commands that act at once. -/

/-- NOP (R346). -/
def execNopCmd (ctx : Nat) (s : State) : Host.Outcome State Fault Refusal :=
  s.onDev fun e d => if d.startable ctx opNop then (d.ctxStart ctx).ctxFinish e ctx .done 0 none else d

/-- A semaphore operation of a command: its address is checked for the word it names, then for the queue's reach (R347, R348,
R351). -/
def Dev.semCmd (e : Env) (d : Dev) (c : Nat) (ok : SesWord → Bool) (kinds : Nat) (k : Place → Dev → Dev) : Dev :=
  let a := (d.ctx c).word 0x08
  let noWord := fun (d : Dev) => (d.cmdPlace c (d.cmdVirt c) a).any (fun p => !p.sesWord.any ok)
  match d.cmdAddr e c (d.cmdVirt c) a 8 kinds with
  | .wait d => d
  | .fault d code r => if noWord d then d.ctxReject e c 0 0x06 a 0 else d.ctxReject e c 0 code a r
  | .at' d p => if noWord d then d.ctxReject e c 0 0x06 a 0 else k p d

/-- The commands of the queue before this one in ring order; before a node, those before its graph launch. -/
def Dev.ctxBefore (d : Dev) (c : Nat) : List Nat :=
  let own := match (d.ctx c).node with | some (r, _) => (d.runOf r).ctx | none => c
  (d.fe.queues.look (d.ctx c).queue).order.takeWhile (fun k => k != own)

/-- The release of a command has nothing left to wait for (R266, R272, R351): at device scope the local Sesame operations that earlier
commands of its queue have issued, at fabric scope (`far`) their fabric writes and operations too. What an earlier command's kernel or
descriptor stores is covered by that command's own end, which OVERLAP 0 waits for (R344). -/
def Dev.cmdReleased (d : Dev) (c : Nat) (far : Bool) : Bool :=
  (d.ctxBefore c).all (fun k =>
    !d.ses.queue.any (fun o => o.src == .chanter k && !o.kind.holds) && !(far && d.fabPending (fun o => o == .cmd k)))

/-- An operation of a command goes to its store, here or at a peer; a waiting one to a dead peer faults, another is lost
(R310, R351). -/
def Dev.semGo (e : Env) (d : Dev) (c : Nat) (kind : SesKind) (n timeout : Nat) (p : Place) : Dev :=
  let g := d.ctxAgent c
  let r := d.newId
  let o : SesOp := { SesOp.plain r.1 (.chanter c) kind 0 n with timeout := timeout }
  match p with
  | .ses a => r.2.sesPush { o with addr := a }
  | .fab id a =>
    if d.peerDead id then (if kind.holds then d.ctxFault e c 4 0x33 a else d.ctxFinish e c .done 0 none)
    else
      let d := r.2
      let d := if kind.holds then { d with ses := { d.ses with remote := d.ses.remote ++ [(id, { o with addr := a })] } } else d
      d.fabSend e id (if kind.holds then .sem r.1 else .cmd c) none
        (d.packet id tSem 1 (d.tagOf g.kernel g.part) kind.code 16 a (beBytes 8 n ++ beBytes 8 timeout))
  | _ => d

/-- SEM_WAIT (R351). -/
def execSemWaitCmd (ctx : Nat) (s : State) : Host.Outcome State Fault Refusal :=
  s.onDev fun e d =>
    if d.startable ctx opSemWait then
      d.semCmd e ctx (fun w => w.accepts .wait) kRead fun p d =>
        (d.ctxStart ctx).semGo e ctx .wait ((d.ctx ctx).word 0x10) ((d.ctx ctx).num 0x18 4) p
    else d

/-- SEM_ADD: a release at the scope that its address implies (R351). -/
def execSemAddCmd (ctx : Nat) (s : State) : Host.Outcome State Fault Refusal :=
  s.onDev fun e d =>
    if d.startable ctx opSemAdd then
      d.semCmd e ctx (fun w => w.accepts .add) kWrite fun p d =>
        if d.cmdReleased ctx p.isFab then (d.ctxStart ctx).semGo e ctx .add ((d.ctx ctx).word 0x10) 0 p else d
    else d

/-- SEM_SET (R293, R303, R307, R351). -/
def execSemSetCmd (ctx : Nat) (s : State) : Host.Outcome State Fault Refusal :=
  s.onDev fun e d =>
    if d.startable ctx opSemSet then
      d.semCmd e ctx (fun w => w.accepts .set) kWrite fun p d => (d.ctxStart ctx).semGo e ctx .set ((d.ctx ctx).word 0x10) 0 p
    else d

/-- WRITE_VALUE: a device-scope release, then one write (R351). -/
def execWriteValue (ctx : Nat) (s : State) : Host.Outcome State Fault Refusal :=
  s.onDev fun e d =>
    if !d.startable ctx opWriteValue then d
    else
      let x := d.ctx ctx
      let a := x.word 0x08
      match d.cmdAddr e ctx (d.cmdVirt ctx) a 8 kWrite with
      | .wait d => d
      | .fault d code r => d.ctxReject e ctx 0 code a r
      | .at' d p =>
        let v := leBytes 8 (if bit (x.word 0x18) 0 then e.time else x.word 0x10)
        let g := d.ctxAgent ctx
        if p.sesWord.isSome then d.ctxReject e ctx 0 0x07 a 0
        else if !d.cmdReleased ctx false || d.placeSwitches p then d
        else
          let d := d.ctxStart ctx
          match p with
          | .fab id o =>
            if d.peerDead id then d.ctxFinish e ctx .done 0 none
            else d.fabSend e id (.cmd ctx) none (d.packet id tWrite 1 (d.tagOf g.kernel g.part) 0 8 o v)
          | p => (d.writeHome p.addr g.part v false).ctxFinish e ctx .done 0 none

/-! DMA. -/

/-- The half of a descriptor's first destination byte (R316). -/
def Dev.destHalf (d : Dev) (z : Desc) : Option Nat :=
  if z.dstV then none
  else
    match d.place z.dst with
    | .hbm a => some (if d.chanOf a / 16 < 4 then 0 else 1)
    | .sp c _ => some (halfOf c)
    | _ => none

/-- The descriptors that an engine holds, of the 16 it has room for (R315, R338). -/
def Engine.held (x : Engine) : Nat := x.ends.length + x.queue.length

/-- The engine with the fewest queued descriptors, lowest first (R316). -/
def Dev.pickEngine (d : Dev) (half : Option Nat) : Nat :=
  let l := match half with | some 0 => List.range 32 | some _ => (List.range 32).map (fun i => 32 + i) | none => List.range 64
  let n := fun (k : Nat) => (d.eng k).held
  (l.foldl (fun (b : Option Nat) k => match b with | none => some k | some j => if n k < n j then some k else some j) none).getD 0

/-- The entry of a command's first descriptor. -/
def Dev.dmaEntry (d : Dev) (c : Nat) : DmaEntry :=
  let q := (d.ctx c).queue
  { addr := (d.ctx c).word 0x08, ctx := c, part := d.qPart q, asid := d.qAsid q, kernel := d.qKernel q, done := 0, aborted := false }

/-- DMA: the first descriptor is read through L2 and checked, then queued to an engine that has room (R315, R316, R318, R329). -/
def execDma (ctx : Nat) (s : State) : Host.Outcome State Fault Refusal :=
  s.onDev fun e d =>
    if !d.startable ctx opDma then d
    else
      let x := d.ctx ctx
      let q := x.queue
      let a := x.word 0x08
      let entry := d.dmaEntry ctx
      let d := (d.descTouch whoChanter entry).descTake e whoChanter entry
      if d.descRepairs whoChanter entry then d
      else
        match d.readDesc whoChanter entry with
        | .bad => d.ctxReject e ctx 5 0x01 a 0
        | .denied => d.ctxReject e ctx 0 0x07 a 0
        | .miss va =>
          match x.denied.find? (fun r => r.1 == va / 4096 * 4096) with
          | some r => d.ctxReject e ctx 5 0x01 a r.2
          | none =>
            match d.rtRequest e (d.qAsid q) va kRead 3 0 (.chanter ctx) with
            | some (id, d) => d.setCtx ctx { x with reqId := id }
            | none => d
        | .ok bs =>
          let z := descOf bs
          let code := d.descCheck z entry
          if code ≠ 0 then d.ctxReject e ctx 0 code a 0
          else
            let n := if bit (x.word 0x10) 6 then d.pickEngine (d.destHalf z) else bits (x.word 0x10) 0 6
            let g := d.eng n
            if 16 ≤ g.held then d
            else (d.setCtx ctx { x with st := .started, engine := some n, denied := [] }).setEng n { g with queue := g.queue ++ [entry] }

/-! LAUNCH. -/

/-- The sections of a launch (Table: LAUNCH command). -/
def Dev.launchSections (d : Dev) (q : Nat) (l : LaunchCmd) : Nat :=
  if d.qKernel q ∧ l.sections ≠ 0 then l.sections
  else if d.qPart q < 16 then d.get (PART_CFG.SECTIONS (d.qPart q)) else 0

/-- The pool lies in bank sets that the launch's partition owns on every core of its sections (R350). -/
def Dev.poolOwned (d : Dev) (g : Agent) (l : LaunchCmd) (sections : Nat) : Bool :=
  !l.areaOk || l.pool == 0 ||
  (maskList 16 sections).all (fun s => (List.range 8).all (fun i => (setsOf l.base l.pool).all (fun k =>
    let o := d.get (SP_OWN.OWNER (8 * s + i) k)
    if g.part < 16 then o == g.part else g.reaches o)))

/-- A core of a launch's sections could hold a block where nothing else is resident (R46, R128, R219). -/
def Dev.coreServes (e : Env) (d : Dev) (l : LaunchCmd) (c : Nat) : Bool :=
  d.get (SP_STATUS.FAILED c) == 0 && (!l.array || bit e.chip.arrays c)

/-- One block or one cluster fits an empty core or section of the launch (R46, R348). -/
def Dev.launchFits (e : Env) (d : Dev) (l : LaunchCmd) (sections : Nat) : Bool :=
  let b := blocksPerCore l.regs (ceilDiv l.threads 32) l.pool l.w
  if l.cluster ≤ 1 then
    decide (1 ≤ b) && (maskList 16 sections).any (fun s => (List.range 8).any (fun i => d.coreServes e l (8 * s + i)))
  else
    decide (ceilDiv l.cluster 8 ≤ b) && (maskList 16 sections).any (fun s => (List.range 8).any (fun r =>
      (List.range (min 8 l.cluster)).all (fun k => d.coreServes e l (8 * s + (r + k) % 8))))

/-- The first check of a table address that fails (R348): unmapped, out of reach, no scratchpad. -/
def Dev.tableCheck (d : Dev) (g : Agent) (l : LaunchCmd) : Nat × Nat × Nat :=
  let as := (maskList 4 l.tables).map (fun k => l.tab.getD k 0)
  let find := fun (p : Nat → Bool) => (as.find? p).getD 0
  let sp := fun (a : Nat) => match d.place a with | .sp _ _ => true | _ => false
  (find (fun a => d.place a == .unmapped), find (fun a => sp a && a % 4096 == 0 && !d.admits g (d.place a) 4096 false), find (fun a => !sp a))

/-- The spans of a launch's addresses: its code, its argument block. -/
def LaunchCmd.spans (l : LaunchCmd) : List (Nat × Nat × Nat) :=
  (l.code, 8, kFetch) :: (if l.args = 0 ∨ l.arglen = 0 then [] else [(l.args, l.arglen, kRead)])

/-- The checks of a launch's tables and pool (R348 in its order: R27, reach): the code and address of the first that fails, 0 passes. -/
def Dev.launchAreas (d : Dev) (g : Agent) (l : LaunchCmd) (sections : Nat) : Nat × Nat :=
  let t := d.tableCheck g l
  if t.1 ≠ 0 then (0x06, t.1) else if t.2.1 ≠ 0 then (0x07, t.2.1) else if !d.poolOwned g l sections then (0x07, 0) else (0, 0)

/-- The opcode-specific checks of a launch (check 8 of R348), in the order of their codes: code and address, 0 passes. -/
def Dev.launchBody (e : Env) (d : Dev) (g : Agent) (l : LaunchCmd) (sections : Nat) : Nat × Nat :=
  if l.check ≠ 0 then (l.check, 0)
  else if (d.tableCheck g l).2.2 ≠ 0 then (0x16, (d.tableCheck g l).2.2)
  else if !d.launchFits e l sections then (0x13, 0) else (0, 0)

/-- The launch of a command whose argument block has been read. -/
def Dev.newLaunch (d : Dev) (c : Nat) (l : LaunchCmd) (g : Agent) (sections : Nat) (args : List Byte) : Launch :=
  let x := d.ctx c
  { (default : Launch) with
    id := d.core.nextLaunch, live := true, ctx := c, queue := x.queue, seq := x.seq, part := g.part, kernel := g.kernel, asid := d.qAsid x.queue,
    code := BitVec.ofNat 64 l.code, phys := l.phys, gridX := l.gx, gridY := l.gy, gridZ := l.gz, threads := l.threads,
    cluster := l.cluster, regs := l.regs, tables := l.tables, array := l.array, args := args, w := l.w, pool := l.pool,
    poolBase := l.base, sections := sections, tabAddr := l.tab }

/-- LAUNCH: the checks of R348, the argument block, and the launch joins those that Chanter places (R350). -/
def execLaunch (ctx : Nat) (s : State) : Host.Outcome State Fault Refusal :=
  s.onDev fun e d =>
    if !d.startable ctx opLaunch then d
    else
      let l := launchOf (d.ctx ctx).bytes
      let g := d.ctxAgent ctx
      let virt := !l.phys
      let sections := d.launchSections (d.ctx ctx).queue l
      let area := d.launchAreas g l sections
      let r := d.cmdSpans e ctx virt l.spans
      let d := r.1
      if r.2.1 = 0x06 then d.ctxReject e ctx 0 0x06 r.2.2.1 r.2.2.2
      else if area.1 = 0x06 then d.ctxReject e ctx 0 0x06 area.2 0
      else if r.2.1 = 1 then d
      else if r.2.1 ≠ 0 then d.ctxReject e ctx 0 r.2.1 r.2.2.1 r.2.2.2
      else if area.1 ≠ 0 then d.ctxReject e ctx 0 area.1 area.2 0
      else
        match d.cmdRead e ctx virt l.args 0 (if l.args = 0 then 0 else l.arglen) (pagesOf l.arglen) with
        | .wait d => d
        | .fault d code a r => d.ctxReject e ctx 0 code a r
        | .ok d args bad =>
          let b := d.launchBody e g l sections
          if bad then d.ctxReject e ctx 5 0x01 l.args 0
          else if b.1 ≠ 0 then d.ctxReject e ctx 0 b.1 b.2 0
          else
            let k := d.newLaunch ctx l g sections args
            ({ d with core := { d.core with launches := d.core.launches ++ [k], nextLaunch := k.id + 1 } } : Dev).setCtx ctx
              { d.ctx ctx with launch := some k.id, reads := [], denied := [] }

/-! Graph commands. -/

/-- The graph a command names. -/
def Ctx.graph (x : Ctx) : Nat := bits (x.word 0x08) 0 10

/-- GRAPH_LAUNCH: the current version is pinned and its first nodes become ready (R357, R360). -/
def execGraphLaunch (ctx : Nat) (s : State) : Host.Outcome State Fault Refusal :=
  s.onDev fun e d =>
    if !d.startable ctx opGraphLaunch then d
    else
      let x := d.ctx ctx
      let g := x.graph
      let now := d.graphNow g
      if !d.qKernel x.queue && now.any (fun v => v.priv) then d.ctxReject e ctx 0 0x04 0 0
      else if !d.graphReach ctx g then d.ctxReject e ctx 0 0x07 0 0
      else
        match now with
        | none => d.ctxReject e ctx 0 0x22 0 0
        | some v =>
          let live := (d.fe.runs.filter (fun r => r.live)).length
          if d.poolSize < poolUsed d.fe.versions d.fe.runs + counterBytes v.nodes.length then
            if live = 0 then d.ctxReject e ctx 0 0x21 0 0 else d
          else if 256 ≤ live then d
          else
            let id := d.fe.nextRun
            let r : GRun := { id := id, live := true, ctx := ctx, graph := g, number := v.number, counts := v.nodes.map (fun n => n.inDeg),
                              started := [], ended := [], doneCount := 0, fault := none, aborting := false }
            let vs := d.fe.versions.map (fun y => if y.graph = g ∧ y.number = v.number then { y with pins := y.pins + 1 } else y)
            let d := { d with fe := { d.fe with runs := d.fe.runs ++ [r], nextRun := id + 1, versions := vs } }
            (d.setCtx ctx { x with st := .started, run := some id }).readyNodes id

/-- An address of a node's command is checked as far as the entries held map it: 0 passes. The rest is found when the node starts (log
entry 96). -/
def Dev.peekAddr (d : Dev) (g : Agent) (asid : Nat) (virt : Bool) (a n kinds : Nat) : Bool :=
  (pagePieces a n (n / 4096 + 2)).all (fun p =>
    match if virt then d.checkVirtual whoChanter asid p.1 p.2 kinds false else d.checkPhysical g p.1 p.2 kinds with
    | .exc _ => false
    | _ => true)

/-- A word that a node's command or semaphore names accepts the operation, as far as the entries held map it. -/
def Dev.peekSem (d : Dev) (g : Agent) (c : Nat) (virt : Bool) (a kinds : Nat) (k : SesKind) : Bool :=
  (d.cmdPlace c virt a).all (fun p => p.sesWord.any (fun w => w.accepts k)) && d.peekAddr g (d.qAsid (d.ctx c).queue) virt a 8 kinds

/-- Checks 5 to 8 of R348 on a node's command that do not rest on its own bits alone, as a queue of the graph's privilege and of the storing
queue's partition and ASID would meet them (R359; log entry 96). -/
def Dev.nodeReach (e : Env) (d : Dev) (c : Nat) (priv : Bool) (cmd : List Byte) : Bool :=
  let q := (d.ctx c).queue
  let g : Agent := { kernel := priv, part := d.qPart q, dma := false, march := false }
  let w := imgWord cmd
  let op := bits (w 0) 0 8
  let virt := !priv
  let addr := fun (a n kinds : Nat) => d.peekAddr g (d.qAsid q) virt a n kinds
  if op = opLaunch then
    let l := Machine.launchOf cmd
    let sections := if priv ∧ l.sections ≠ 0 then l.sections else if g.part < 16 then d.get (PART_CFG.SECTIONS g.part) else 0
    l.spans.all (fun s => d.peekAddr g (d.qAsid q) (!l.phys) s.1 s.2.1 s.2.2) && (d.launchAreas g l sections).1 == 0 &&
    (d.launchBody e g l sections).1 == 0
  else if op = opDma then addr (w 0x08) 128 kRead
  else if op = opSemWait then d.peekSem g c virt (w 0x08) kRead .wait
  else if op = opSemAdd then d.peekSem g c virt (w 0x08) kWrite .add
  else if op = opSemSet then d.peekSem g c virt (w 0x08) kWrite .set
  else if op = opWriteValue then addr (w 0x08) 8 kWrite && !(d.cmdPlace c virt (w 0x08)).any (fun p => p.sesWord.isSome)
  else if op = opRegWrite ∨ op = opSelftest then d.ownerQueue q
  else true

/-- The bytes that a graph command names, once its addresses and the graph pass checks 6 and 7 of R348. -/
def Dev.graphBytes (e : Env) (d : Dev) (c a n : Nat) (k : Dev → List Byte → Bool → Dev) : Dev :=
  let r := d.cmdSpans e c (d.cmdVirt c) [(a, n, kRead)]
  let d := r.1
  if r.2.1 = 0x06 then d.ctxReject e c 0 0x06 r.2.2.1 r.2.2.2
  else if !d.graphReach c (bits ((d.ctx c).word 0x08) 0 10) then d.ctxReject e c 0 0x07 0 0
  else if r.2.1 = 1 then d
  else if r.2.1 ≠ 0 then d.ctxReject e c 0 r.2.1 r.2.2.1 r.2.2.2
  else
    match d.cmdRead e c (d.cmdVirt c) a 0 n (pagesOf n) with
    | .wait d => d
    | .fault d code a r => d.ctxReject e c 0 code a r
    | .ok d bs bad => k d bs bad

/-- GRAPH_STORE (R359). -/
def execGraphStore (ctx : Nat) (s : State) : Host.Outcome State Fault Refusal :=
  s.onDev fun e d =>
    if !d.startable ctx opGraphStore then d
    else
      let x := d.ctx ctx
      let g := x.graph
      d.graphBytes e ctx (x.word 0x10) (x.num 0x18 4) fun d bs bad =>
        match (if bad then none else imageOf bs d.fe.nextRec) with
        | none => d.ctxReject e ctx 0 0x20 0 0
        | some (ns, es, priv) =>
          if !ns.all (fun n => d.nodeReach e ctx priv n.cmd) then d.ctxReject e ctx 0 0x20 0 0
          else
            match d.commit { graph := g, number := 0, nodes := ns, edges := es, edgeRec := d.fe.nextRec + ns.length, priv := priv, current := true, pins := 0 } with
            | none => d.ctxReject e ctx 0 0x21 0 0
            | some d => (d.ctxStart ctx).ctxFinish e ctx .done 0 none

/-- The entries of a patch list: node and command; none where one fails (R358, R362). -/
def patchOf (bs : List Byte) (n nodes : Nat) (priv : Bool) : Option (List (Nat × List Byte)) :=
  allSome ((List.range n).map (fun i =>
    let b := (bs.drop (320 * i)).take 320
    let h := imgWord b 0
    let cmd := (b.drop 0x40).take 256
    if bits h 16 48 = 0 ∧ (b.drop 8).take 0x38 = List.replicate 0x38 0 ∧ h % 65536 < nodes ∧ nodeOk priv cmd then some (h % 65536, cmd) else none))

/-- A version with some of its nodes' commands replaced; where a node is listed twice, the later entry stands (R362). Records are numbered from `first`. -/
def GVersion.patched (v : GVersion) (ps : List (Nat × List Byte)) (first : Nat) : GVersion :=
  { v with nodes := (v.nodes.zipIdx).map (fun p =>
      match (ps.filter (fun y => y.1 == p.2)).getLast? with
      | some (_, cmd) => { p.1 with cmd := cmd, record := first + p.2 }
      | none => p.1) }

/-- GRAPH_PATCH (R362). -/
def execGraphPatch (ctx : Nat) (s : State) : Host.Outcome State Fault Refusal :=
  s.onDev fun e d =>
    if !d.startable ctx opGraphPatch then d
    else
      let x := d.ctx ctx
      let n := bits (x.word 0x08) 32 17
      d.graphBytes e ctx (x.word 0x10) (320 * n) fun d bs bad =>
        match d.graphNow x.graph with
        | none => d.ctxReject e ctx 0 0x22 0 0
        | some v =>
          match (if bad ∨ n = 0 ∨ 65536 < n then none else patchOf bs n v.nodes.length v.priv) with
          | none => d.ctxReject e ctx 0 0x20 0 0
          | some ps =>
            if !ps.all (fun p => d.nodeReach e ctx v.priv p.2) then d.ctxReject e ctx 0 0x20 0 0
            else
              match d.commit (v.patched ps d.fe.nextRec) with
              | none => d.ctxReject e ctx 0 0x21 0 0
              | some d => (d.ctxStart ctx).ctxFinish e ctx .done 0 none

/-- GRAPH_FREE (R362). -/
def execGraphFree (ctx : Nat) (s : State) : Host.Outcome State Fault Refusal :=
  s.onDev fun e d =>
    if !d.startable ctx opGraphFree then d
    else
      let g := (d.ctx ctx).graph
      if !d.graphReach ctx g then d.ctxReject e ctx 0 0x07 0 0
      else if (d.graphNow g).isNone then d.ctxReject e ctx 0 0x22 0 0
      else ((d.withdraw g).ctxStart ctx).ctxFinish e ctx .done 0 none

/-- A node's signal edge (R272, R360). Its semaphore is reached as the queue reaches it; a word that takes no ADD gets none (R290; log
entry 38). -/
def Dev.nodeSignal (e : Env) (d : Dev) (c : Nat) (sem : Nat) : Dev :=
  let g := d.ctxAgent c
  if (d.place sem).sesWord.any (fun w => w.accepts .add) && d.admits g (d.place sem) 8 true then d.signal e (.chanter c) .other g.part g.kernel sem 1
  else d

/-- Fabric stores, atomics and Sesame operations of a node's kernel, or ahead of them in its cores' outbound queues, are not acknowledged
(R266, R272). -/
def Dev.nodeStores (d : Dev) (c : Nat) : Bool :=
  let cores := match (d.ctx c).launch with | some id => (d.launchOf id).startedOn | none => []
  d.outstanding.any (fun x => !x.2.acked &&
    (match x.2.owner with
     | .store gs => gs.any (fun y => cores.contains y.1.core)
     | .load g _ => cores.contains g.core && x.2.pkt.type == tAtomic
     | .cmd k => k == c
     | _ => false))

/-- GRAPH_NODE_END: a node whose effects are performed ends; its node edges and signal edges follow (R272, R360, R361). -/
def execGraphNodeEnd (ctx : Nat) (s : State) : Host.Outcome State Fault Refusal :=
  s.onDev fun e d =>
    match (d.ctx ctx).node with
    | none => d
    | some (run, n) =>
      let d := d.kernelEnd e ctx
      let x := d.ctx ctx
      if !(x.live && x.st == .ending) then d
      else
        let r := d.runOf run
        let v := d.graphAt r.graph r.number
        let node := v.nodes.getD n default
        let es := node.edges v.edges
        let far := es.any (fun y => y.signal && (d.place y.sem).isFab)
        let finish := fun (d : Dev) =>
          let d := match x.launch with | some id => d.dropLaunch id | none => d
          d.setCtx ctx default
        match x.outcome with
        | some .faulted =>
          let code := match x.fault with | some f => f.code | none => 0
          let r := { r with fault := match r.fault with | some f => some f | none => some (n, code) }
          ((finish (d.setRun r)).runAbort e run)
        | some .aborted => (finish d).runSettle e run
        | _ =>
          if far && d.nodeStores ctx then d
          else
            let hits := es.filterMap (fun y => if y.signal then none else some y.target)
            let counts := (r.counts.zipIdx).map (fun p => p.1 - (hits.filter (fun t => t == p.2)).length)
            let r := { r with counts := counts, ended := r.ended ++ [n], doneCount := r.doneCount + b2n (x.outcome == some .done) }
            let d := (es.filter (fun y => y.signal)).foldl (fun d y => d.nodeSignal e ctx y.sem) d
            (((finish d).setRun r).readyNodes run).runSettle e run

/-! Ends. -/

/-- COMMAND_COMPLETE: a command whose last effect is performed gets its one terminal state, and what can be reported in ring order
is (R349, R354, R355, R365). -/
def execCommandComplete (ctx : Nat) (s : State) : Host.Outcome State Fault Refusal :=
  s.onDev fun e d =>
    if !isRing ctx then d
    else
      let d := d.kernelEnd e ctx
      let x := d.ctx ctx
      match x.outcome with
      | none => d
      | some t =>
        if !(x.live && x.st == .ending) then d
        else
          let q := x.queue
          let d := d.setCtx ctx { x with st := .terminal t }
          let code := match x.fault with | some f => f.code | none => 0
          let d := if t = .faulted ∧ !(0x30 ≤ code ∧ d.get (QUEUE_CFG.CONT_EXEC q) = 1) then d.stopQueue q else d
          let d := if t = .aborted ∧ d.get (QUEUE_ABORT_STATUS.SEQ q) = x.seq then d.put (QUEUE_ABORT_STATUS.PROGRESS q) x.progress else d
          (d.reportQueue e q ((d.fe.queues.look q).order.length)).disableSettle q

/-! Queue control (R340, R349, R371). -/

/-- A user queue's device ring lies in HBM shares of its partition. -/
def Dev.ringInside (d : Dev) (q : Nat) : Bool :=
  let a := d.get (QUEUE_RING.BASE q) * 4096
  let n := 64 * 2 ^ d.ringSize q
  (List.range ((a + n - 1) / shareBytes - a / shareBytes + 1)).all (fun i => d.get (SHARE_OWN.OWNER (a / shareBytes + i)) == d.qPart q)

/-- The ring span names nothing (R27). -/
def Dev.ringUnmapped (d : Dev) (q : Nat) : Bool :=
  let a := d.get (QUEUE_RING.BASE q) * 4096
  let n := 64 * 2 ^ d.ringSize q
  if d.get (QUEUE_RING.DEVICE q) = 1 then (match d.placeLocal a, d.placeLocal (a + n - 1) with | .hbm _, .hbm _ => false | _, _ => true)
  else d.get (HOST_PORT.LINK_UP (portOf (d.qFunc q))) != 1

/-- ENABLE is set: HEAD and NEXT_SEQ are loaded, or the enable is refused (R340). -/
def Dev.queueOn (d : Dev) (q v : Nat) : Dev :=
  if d.get (QUEUE_STATUS.STATE q) ≠ 0 then d
  else
    let bad :=
      if (d.qKernel q && !isPF (d.qFunc q)) || (!d.qKernel q && d.qPart q == 31) then 1
      else if !d.qKernel q && d.get (QUEUE_RING.DEVICE q) == 1 && !d.ringUnmapped q && !d.ringInside q then 2
      else if d.ringUnmapped q then 3 else 0
    let d := d.put (QUEUE_STATUS.ENABLE_RESULT q) bad
    if bad ≠ 0 then d
    else
      let d := (d.put (QUEUE_CTL.ENABLE q) 1).put (QUEUE_STATUS.STATE q) 1
      let d := ((d.put (QUEUE_STATUS.HEAD q) (bits v 32 32)).put (QUEUE_TAIL.TAIL q) (bits v 32 32)).put (QUEUE_STATUS.NEXT_SEQ q) (bits v 16 16)
      d.mapQueue q (fun _ => { (default : Queue) with tailSeen := bits v 32 32 })

/-- ENABLE is cleared: the queue is DISABLED once its commands have ended. -/
def Dev.queueOff (d : Dev) (q : Nat) : Dev :=
  if d.get (QUEUE_STATUS.STATE q) = 0 then d
  else ((d.put (QUEUE_CTL.ENABLE q) 0).mapQueue q (fun y => { y with disabling := true })).disableSettle q

/-- RESUME of a stopped queue: HEAD, TAIL and NEXT_SEQ are loaded (R349). -/
def Dev.queueOnward (d : Dev) (q v : Nat) : Dev :=
  if d.get (QUEUE_STATUS.STATE q) ≠ 4 ∨ (d.fe.queues.look q).disabling then d
  else
    let d := (d.put (QUEUE_STATUS.STATE q) 1).put (QUEUE_STATUS.NEXT_SEQ q) (bits v 16 16)
    let d := (d.put (QUEUE_STATUS.HEAD q) (bits v 32 32)).put (QUEUE_TAIL.TAIL q) (bits v 32 32)
    d.mapQueue q (fun y => { y with tailSeen := bits v 32 32 })

/-- A write to QUEUE_CTL by a function or a kernel queue's REG_WRITE: the bound function's is performed (R371). -/
def Dev.wrQueueCtl (d : Dev) (f q v : Nat) : Dev :=
  if d.qFunc q ≠ f then d
  else
    let d := d.note (QUEUE_CTL.off q) v
    let d := if bit v 1 then d.queueOnward q v else d
    if bit v 0 then (if d.get (QUEUE_CTL.ENABLE q) = 1 then d else d.queueOn q v) else d.queueOff q

/-- QUEUE_ENABLE: a write that sets ENABLE. -/
def execQueueEnable (f q : Nat) (value : DWord) (s : State) : Host.Outcome State Fault Refusal :=
  s.onDev fun _ d => if bit value.toNat 0 && !bit value.toNat 1 then d.wrQueueCtl f q value.toNat else d

/-- QUEUE_DISABLE: a write that clears ENABLE. -/
def execQueueDisable (f q : Nat) (value : DWord) (s : State) : Host.Outcome State Fault Refusal :=
  s.onDev fun _ d => if bit value.toNat 0 || bit value.toNat 1 then d else d.wrQueueCtl f q value.toNat

/-- QUEUE_RESUME: a write with RESUME. -/
def execQueueResume (f q : Nat) (value : DWord) (s : State) : Host.Outcome State Fault Refusal :=
  s.onDev fun _ d => if bit value.toNat 1 then d.wrQueueCtl f q value.toNat else d

/-- A write to QUEUE_ABORT: the command of that SEQ is aborted where it has no terminal state (R364, R365). -/
def Dev.wrQueueAbort (e : Env) (d : Dev) (src : Src) (q v : Nat) : Dev :=
  let may := match src with
    | .host f => d.isOwner f || d.qFunc q == f
    | _ => true
  if !may then d
  else
    let d := d.note (QUEUE_ABORT.off q) v
    let seq := v % 65536
    let result := fun (d : Dev) (r : Nat) => ((d.put (QUEUE_ABORT_STATUS.RESULT q) r).put (QUEUE_ABORT_STATUS.SEQ q) seq).put (QUEUE_ABORT_STATUS.PROGRESS q) 0
    match (d.fe.queues.look q).order.find? (fun c => (d.ctx c).seq == seq) with
    | none => result d 2
    | some c =>
      match d.abortCmd e c with
      | none => result d 1
      | some d => result d 0

/-- QUEUE_ABORT. -/
def execQueueAbort (src : Src) (q : Nat) (value : DWord) (s : State) : Host.Outcome State Fault Refusal :=
  s.onDev fun e d => d.wrQueueAbort e src q value.toNat

/-- A write to QUEUE_CFG: only while the queue is disabled (R339). -/
def Dev.wrQueueCfg (e : Env) (d : Dev) (src : Src) (q v : Nat) : Dev :=
  let nv := v % 2 ^ 30
  d.guardOwn e src (QUEUE_CFG.off q) (d.reg (QUEUE_CFG.off q) % 2 ^ 30 != nv) fun d =>
    if d.get (QUEUE_STATUS.STATE q) = 0 then d.setReg (QUEUE_CFG.off q) nv else d

/-- A write to QUEUE_RING or QUEUE_COMPL: of the bound function, while ENABLE is 0 (R371). -/
def Dev.wrQueueOwn (d : Dev) (f q off mask v : Nat) : Dev :=
  if d.qFunc q = f ∧ d.get (QUEUE_CTL.ENABLE q) = 0 then d.setReg off (v &&& mask) else d

/-- A write to a pool register: ignored while any graph holds a version (R372). -/
def Dev.wrPool (e : Env) (d : Dev) (src : Src) (off mask v : Nat) : Dev :=
  d.guardOwn e src off (d.reg off != (v &&& mask)) fun d => if d.fe.versions.isEmpty then d.setReg off (v &&& mask) else d

end Sys2Proof.Machine
end

