-- ==== Sys2Proof/Machine/FabIn.lean ====
section
/-! DEFINITION. KLP requests at their target: what every reliable packet passes (R389-R394, R400-R404, R408), then WRITE, READ,
ATOMIC, SEM, SEM_WITHDRAW, DSP_WRITE and DSP_RETURN (R26, R27, R309, R410-R412). -/

namespace Sys2Proof

open Sys2Proof.Machine

/-- The payload of a packet has the length its header gives, within bounds. -/
def Packet.fits (p : Packet) (lo hi : Nat) : Bool := p.length == p.data.length && decide (lo ≤ p.length) && decide (p.length ≤ hi)

/-- SEG and SEGS of an extended header. -/
def Packet.seg (p : Packet) : Nat := if p.type = tDspWrite then bits p.exth 0 8 else bits p.exth 32 8
def Packet.segs (p : Packet) : Nat := if p.type = tDspWrite then bits p.exth 8 8 else bits p.exth 40 8

/-- A segment index within its row. -/
def Packet.segOk (p : Packet) : Bool := decide (1 ≤ p.segs) && decide (p.segs ≤ 8) && decide (p.seg < p.segs)

/-- The last segment of a DSP_WRITE ends in the slot record. -/
def Packet.lastSeg (p : Packet) : Bool := p.seg + 1 == p.segs

/-- The row that a DSP_RETURN segment belongs to. -/
def Packet.returned (p : Packet) : RetRow :=
  { ctx := bits p.exth 0 6, gen := bits p.exth 8 8, token := bits p.exth 16 12, rank := bits p.exth 28 3, fp32 := bit p.exth 31,
    width := bits p.exth 64 15, data := [], poison := false, origin := p.src, ret := none, psns := [] }

end Sys2Proof

namespace Sys2Proof.Machine

/-! Arrival. -/

/-- A packet is discarded and counted (R389, R390). -/
def Dev.malformed (d : Dev) : Dev := d.bump FAB_STATS.MALFORMED 1

/-- An epoch is newer than another, modulo 2^16 (R400). -/
def epochNewer (a b : Nat) : Bool :=
  let k := (a + 65536 - b) % 65536
  decide (0 < k) && decide (k < 32768)

/-- The receive flow for a packet: as it stands, or begun anew at a newer epoch; none where the epoch is older (R400). -/
def RecvFlow.forEpoch (f : RecvFlow) (p : Packet) : Option RecvFlow :=
  let fresh : RecvFlow := { (default : RecvFlow) with live := true, src := p.src, epoch := p.epoch }
  if f.live then
    if p.epoch = f.epoch then some f else if epochNewer p.epoch f.epoch then some fresh else none
  else if f.epoch = 0 ∨ epochNewer p.epoch f.epoch then some fresh
  else none

/-- The 8-byte payload of PROBE and FLOW_RESET (R396). -/
def Dev.incarnationBytes (d : Dev) (echo : Nat) : List Byte := beBytes 4 d.mgmt.incarnation ++ beBytes 4 echo

/-- FLOW_RESET to a peer (R408). -/
def Dev.sendReset (e : Env) (d : Dev) (id : Nat) : Dev :=
  d.sendPlain e id (d.packet id tFlowReset 0 0 0 8 0 (d.incarnationBytes 0))

/-- KLP takes a packet of a type on a logical port for this device (R391, R397, R428). -/
def Dev.klpTakes (d : Dev) (l : Nat) (p : Packet) (type : Nat) : Bool :=
  d.klpEnabled && d.klpOn l && d.get (LP_CFG.ENABLE l) == 1 && p.type == type && p.dst == d.fabId

/-- A reliable packet arrives: its form is checked, a dead source answered FLOW_RESET, its epoch and PSN placed in the receive
flow; a packet not yet performed is given to `k` (R390, R400, R401, R404, R408). -/
def Dev.klpArrive (e : Env) (d : Dev) (l : Nat) (p : Packet) (type : Nat) (ok : Bool) (k : Dev → Dev) : Dev :=
  if !d.klpTakes l p type then d
  else if !ok then d.malformed
  else if d.peerDead p.src then d.sendReset e p.src
  else
    match (d.rflow p.src).forEpoch p with
    | none => d
    | some f =>
      let above := psnAbove p.psn f.cum
      if 2 ^ 31 ≤ above ∨ f.done.contains p.psn then
        (d.setRflow p.src { f with newest := max f.newest p.tstamp }).sendAck e p.src
      else if 1023 < above ∨ f.opened.contains p.psn then d
      else
        let d := k (d.setRflow p.src { f with newest := max f.newest p.tstamp, opened := f.opened ++ [p.psn] })
        if p.ackNow then d.sendAck e p.src else d

/-- A packet that cannot be taken yet is as if it had not arrived; its sender repeats it (R403). DESIGN CHOICE: so waits one for memory that
does not serve it at the moment (R20, R451; log entry 80). -/
def Dev.putOff (d : Dev) (p : Packet) : Dev :=
  let f := d.rflow p.src
  d.setRflow p.src { f with opened := f.opened.filter (fun x => x != p.psn) }

/-- A packet that cannot be taken now: NAK BUSY, and it may come again (R403, R412, R418). -/
def Dev.busy (e : Env) (d : Dev) (p : Packet) : Dev := (d.putOff p).sendNak e p.src p.psn 4

/-! Tags (R394). -/

/-- The agent a request acts as; none where its tag is refused. -/
def Dev.tagAgent (d : Dev) (p : Packet) : Option Agent :=
  if p.tenant = 0 then
    let w := (d.routeOf p.src).1.toNat
    if bits w 0 20 == p.src && bit w 20 && bit w 21 then some { kernel := true, part := 31, dma := false, march := false } else none
  else
    ((List.range 64).find? (fun i => d.get (FAB_TENANT.VALID i) == 1 && d.get (FAB_TENANT.TAG i) == p.tenant)).map
      (fun i => { kernel := false, part := d.get (FAB_TENANT.PART i), dma := false, march := false })

/-- The partition a request is charged to (R411). -/
def Agent.charged (g : Agent) : Nat := if g.kernel then 31 else g.part

/-- A request is refused: counted, answered NAK; an address it may not name posts a record here too (R27, R202, R404). -/
def Dev.refuseReq (e : Env) (d : Dev) (p : Packet) (reason : Nat) : Dev :=
  let d := d.bump FAB_STATS.REFUSED 1
  let part := match d.tagAgent p with | some g => g.charged | none => 31
  let d := if reason ≤ 2 then d.postP e 0x73 part [2 ^ 63 + d.fabId * 2 ^ 40 + p.addr % 2 ^ 40, reason] else d
  d.refusePsn e p.src p.psn reason

/-- A request is performed as the agent its tag gives, or refused (R394). -/
def Dev.asAgent (e : Env) (d : Dev) (p : Packet) (k : Agent → Dev → Dev) : Dev :=
  match d.tagAgent p with
  | none => d.refuseReq e p 3
  | some g => k g (d.fabMoved g.charged p.data.length)

/-- Why an agent may not reach n bytes of the target's memory: 0 it may, 1 address, 2 ownership (R26, R27, R201). Sesame words are
reached by their operations. -/
def Dev.reachFault (d : Dev) (g : Agent) (a n : Nat) (write : Bool) : Nat :=
  if 2 ^ 40 < a + n then 1
  else
    match d.placeLocal a with
    | .hbm _ | .sp _ _ => if !d.admits g (d.placeLocal a) n write then 2 else if (d.homeBytes a n).isNone then 1 else 0
    | _ => 1

/-- A request's bytes are written: not while their section's clock switches (R20), in the class of the packet (R247). -/
def Dev.klpStore (d : Dev) (p : Packet) (g : Agent) (a : Nat) (bs : List Byte) (poison : Bool) : Dev :=
  if bs.isEmpty then d else d.writeHome a g.charged bs poison p.cls

/-- A request's bytes are read at their home, through L2 in the class of the packet, and given to `k` with their poison mark; the packet is
put off while their section's clock switches (R20) or a sector is under repair (R451). -/
def Dev.klpFetch (e : Env) (d : Dev) (p : Packet) (part a n : Nat) (k : List Byte × Bool → Dev → Dev) : Dev :=
  if d.placeSwitches (d.placeLocal a) then d.putOff p
  else
    let d := d.takeHome e a n part p.cls
    if d.repairing a n then d.putOff p else k ((d.homeBytes a n).getD ([], true)) d

/-! Requests (R410). -/

/-- WRITE. -/
def Dev.klpWrite (e : Env) (d : Dev) (p : Packet) : Dev :=
  d.asAgent e p fun g d =>
    let f := d.reachFault g p.addr p.length true
    if f ≠ 0 then d.refuseReq e p f
    else if d.placeSwitches (d.placeLocal p.addr) then d.putOff p
    else ((d.klpStore p g p.addr p.data (p.status == 1)).moved g.charged p.length).performed e p.src p.psn

/-- WRITE (R390, R410). -/
def execWrite (l : Nat) (p : Packet) (s : State) : Host.Outcome State Fault Refusal :=
  s.onDev fun e d => d.klpArrive e l p tWrite (p.fits 1 8192 && p.subop == 0) fun d => d.klpWrite e p

/-- READ: the bytes with their poison mark; an 8-byte read of a Sesame word goes to its store (R309, R390). -/
def Dev.klpRead (e : Env) (d : Dev) (l : Nat) (p : Packet) : Dev :=
  d.asAgent e p fun g d =>
    match d.placeLocal p.addr with
    | .ses a =>
      if p.length ≠ 8 ∨ a % 8 ≠ 0 ∨ 2 ^ 40 ≤ p.addr then d.refuseReq e p 1
      else if !d.sesAdmits g a then d.refuseReq e p 2
      else
        let r := d.newId
        r.2.sesPush (SesOp.plain r.1 (.peer p.src l p.psn) .load a 0)
    | _ =>
      let f := d.reachFault g p.addr p.length false
      if f ≠ 0 then d.refuseReq e p f
      else
        d.klpFetch e p g.charged p.addr p.length fun v d =>
          let d := d.moved g.charged p.length
          let q := { (d.packet p.src tReadResp p.cls p.tenant 0 p.length p.psn v.1) with status := b2n v.2 }
          (d.performed e p.src p.psn).fabSend e p.src .response none q

/-- READ. -/
def execRead (l : Nat) (p : Packet) (s : State) : Host.Outcome State Fault Refusal :=
  s.onDev fun e d =>
    d.klpArrive e l p tRead (p.data.isEmpty && decide (1 ≤ p.length) && decide (p.length ≤ 8192) && p.subop == 0) fun d => d.klpRead e l p

/-- SUBOP of an ATOMIC: operation, signed, size 8 (R87, R390). -/
def atomSubop (s : Nat) : Bool := decide (bits s 0 4 ≤ 9) && bits s 6 2 == 0 && (decide (bits s 0 4 < 8) || !bit s 5)

/-- ATOMIC: performed once at the home, answered with the old value (R87, R390). -/
def Dev.klpAtomic (e : Env) (d : Dev) (p : Packet) : Dev :=
  d.asAgent e p fun g d =>
    let size := if bit p.subop 5 then 8 else 4
    let f := if p.addr % size ≠ 0 then 1 else d.reachFault g p.addr size true
    if f ≠ 0 then d.refuseReq e p f
    else
      let a : AtomReq :=
        { op := bits p.subop 0 4, size := size, off := p.addr, signed := bit p.subop 4, b := BitVec.ofNat 64 (beOf (p.data.take 8)),
          c := BitVec.ofNat 64 (beOf ((p.data.drop 8).take 8)), lane := 0 }
      d.klpFetch e p g.charged p.addr size fun v d =>
        let old := leOf v.1
        let new := atomApply a.op size a.signed old (a.b.toNat % 2 ^ (8 * size)) (a.c.toNat % 2 ^ (8 * size))
        let r : Nat × Bool × Dev :=
          match d.placeLocal p.addr with
          | .sp c _ => d.spAtom c a
          | _ => (old, v.2, d.klpStore p g p.addr (leBytes size new) false)
        let d := r.2.2.moved g.charged size
        let q := { (d.packet p.src tAtomicResp p.cls p.tenant 0 8 p.psn (beBytes 8 r.1)) with status := b2n r.2.1 }
        (d.performed e p.src p.psn).fabSend e p.src .response none q

/-- ATOMIC. -/
def execAtomic (l : Nat) (p : Packet) (s : State) : Host.Outcome State Fault Refusal :=
  s.onDev fun e d => d.klpArrive e l p tAtomic (p.fits 16 16 && atomSubop p.subop) fun d => d.klpAtomic e p

/-- SEM: the operation goes to its word's store; SET is of kernel-queue agents alone (R92, R309, R312, R390). -/
def Dev.klpSem (e : Env) (d : Dev) (l : Nat) (p : Packet) : Dev :=
  d.asAgent e p fun g d =>
    let k := semKind p.subop
    match d.placeLocal p.addr with
    | .ses a =>
      if 2 ^ 40 ≤ p.addr ∨ a % 8 ≠ 0 ∨ !(sesWord a).accepts k then d.refuseReq e p 1
      else if !d.sesAdmits g a ∨ (k = .set ∧ !g.kernel) then d.refuseReq e p 2
      else
        let r := d.newId
        let n := beOf (p.data.take 8)
        let second := beOf ((p.data.drop 8).take 8)
        let o := SesOp.plain r.1 (.peer p.src l p.psn) k a n
        r.2.sesPush (match k with
          | .lock | .unlock => { o with lanes := [{ lane := 0, addr := a, tag := second }] }
          | _ => { o with timeout := second % 2 ^ 32 })
    | _ => d.refuseReq e p 1

/-- SEM. -/
def execSem (l : Nat) (p : Packet) (s : State) : Host.Outcome State Fault Refusal :=
  s.onDev fun e d => d.klpArrive e l p tSem (p.fits 16 16 && decide (p.subop ≤ 9)) fun d => d.klpSem e l p

/-- SEM_WITHDRAW: the waiting operation of the named PSN leaves the store, and its requester is told (R310, R311, R410). -/
def Dev.klpWithdraw (e : Env) (d : Dev) (p : Packet) : Dev :=
  let psn := p.addr % 2 ^ 32
  let mine := fun (o : SesOp) => match o.src with | .peer id _ n => id == p.src && n == psn && o.kind.holds | _ => false
  let found := d.ses.parked.any mine || d.ses.queue.any mine
  let d := (d.sesRemove mine true).performed e p.src p.psn
  if found then (d.performed e p.src psn).semResp e p.src psn false true 0 else d

/-- SEM_WITHDRAW. -/
def execSemWithdraw (l : Nat) (p : Packet) (s : State) : Host.Outcome State Fault Refusal :=
  s.onDev fun e d => d.klpArrive e l p tSemWithdraw (p.data.isEmpty && p.length == 0 && p.subop == 0) fun d => d.klpWithdraw e p

/-! Dispatch rows (R412). -/

/-- DSP_WRITE: the row segment at ADDR, with the last one its slot record at RECADDR. -/
def Dev.klpDspWrite (e : Env) (d : Dev) (p : Packet) : Dev :=
  d.asAgent e p fun g d =>
    let rec' := if p.lastSeg then p.data.drop (p.length - 16) else []
    let row := if p.lastSeg then p.data.take (p.length - 16) else p.data
    let recAddr := bits p.exth 64 64
    let f := if row.isEmpty then 0 else d.reachFault g p.addr row.length true
    let f' := if rec'.isEmpty then 0 else d.reachFault g recAddr 16 true
    if f ≠ 0 then d.refuseReq e p f
    else if f' ≠ 0 then d.refuseReq e p f'
    else if (!row.isEmpty && d.placeSwitches (d.placeLocal p.addr)) || (!rec'.isEmpty && d.placeSwitches (d.placeLocal recAddr)) then d.putOff p
    else
      let d := (d.klpStore p g p.addr row (p.status == 1)).klpStore p g recAddr rec' false
      (d.moved g.charged p.length).performed e p.src p.psn

/-- DSP_WRITE. -/
def execDspWrite (l : Nat) (p : Packet) (s : State) : Host.Outcome State Fault Refusal :=
  s.onDev fun e d =>
    let ok := p.fits (if p.lastSeg then 16 else 1) (if p.lastSeg then 8208 else 8192) && p.segOk && p.subop == 0
    d.klpArrive e l p tDspWrite ok fun d => d.klpDspWrite e p

/-- Bytes staged for an instance. -/
def Dev.stagedBytes (d : Dev) (u : Nat) : Nat :=
  ((d.edu.staging.filter (fun t => instOf t.row.ctx == u)).map (fun t => (t.got.map (fun g => g.2.length)).sum)).sum

/-- The bytes of a staged row in segment order. -/
def Staging.bytes (t : Staging) : List Byte :=
  (List.range t.segs).flatMap (fun i => (t.got.filter (fun g => g.1 == i)).flatMap (fun g => g.2))

/-- DSP_RETURN: the segment is staged; with the last one the row goes to its instance. Every segment is acknowledged when the row has
been accepted or discarded there (R402, R412). -/
def Dev.klpDspReturn (e : Env) (d : Dev) (p : Packet) : Dev :=
  d.asAgent e p fun g d =>
    let row := p.returned
    let u := instOf row.ctx
    if 2 ^ 20 < d.stagedBytes u + p.length then d.busy e p
    else
      let same := fun (t : Staging) =>
        t.peer == p.src && t.row.ctx == row.ctx && t.row.gen == row.gen && t.row.token == row.token && t.row.rank == row.rank
      let t := (d.edu.staging.find? same).getD { peer := p.src, row := row, segs := p.segs, got := [] }
      let t := { t with
        row := { t.row with poison := t.row.poison || p.status == 1, psns := t.row.psns ++ [p.psn] },
        got := t.got ++ [(p.seg, p.data)] }
      let others := d.edu.staging.filter (fun t => !same t)
      let d := d.moved g.charged p.length
      if (List.range t.segs).all (fun i => t.got.any (fun x => x.1 == i)) then
        { d with edu := { d.edu with staging := others, rows := d.edu.rows.put u (d.edu.rows.look u ++ [{ t.row with data := t.bytes }]) } }
      else { d with edu := { d.edu with staging := others ++ [t] } }

/-- DSP_RETURN. -/
def execDspReturn (l : Nat) (p : Packet) (s : State) : Host.Outcome State Fault Refusal :=
  s.onDev fun e d => d.klpArrive e l p tDspReturn (p.fits 1 8192 && p.segOk && p.subop == 0) fun d => d.klpDspReturn e p

end Sys2Proof.Machine
end

