-- ==== Sys2Proof/Machine/Coll.lean ====
section
/-! DEFINITION. Collective reductions (R413-R420): arming, the contributions that arrive, the rounds that are sent. -/

namespace Sys2Proof.Machine

/-- A collective context record (Table: Collective context record). -/
structure CollRec where
  recv : Bool
  send : Bool
  fwd : Bool
  stream : Bool
  op : Nat
  sfmt : Nat
  dfmt : Nat
  part : Nat
  expected : Nat
  elems : Nat
  dest : Nat
  src : Nat
  trigSem : Nat
  trigStep : Nat
  doneSem : Nat
  chunkSem : Nat
  tgtId : Nat
  tgtCtx : Nat
deriving DecidableEq, Repr, Inhabited

/-- The fields of a record's 64 bytes. -/
def collOf (bs : List Byte) : CollRec :=
  let w := fun (i : Nat) => leOf ((bs.drop (8 * i)).take 8)
  { recv := bit (w 0) 0, send := bit (w 0) 1, fwd := bit (w 0) 2, stream := bit (w 0) 3, op := bits (w 0) 4 2, sfmt := bits (w 0) 6 2,
    dfmt := bits (w 0) 8 1, part := bits (w 0) 9 5, expected := bits (w 0) 16 16, elems := bits (w 0) 32 32, dest := w 1, src := w 2,
    trigSem := w 3, trigStep := bits (w 4) 0 32, doneSem := w 5, chunkSem := w 6, tgtId := bits (w 7) 0 20, tgtCtx := bits (w 7) 20 8 }

/-- Unlisted bits of a record are 0. -/
def collReserved (bs : List Byte) : Bool :=
  let w := fun (i : Nat) => leOf ((bs.drop (8 * i)).take 8)
  bits (w 0) 14 2 == 0 && bits (w 4) 32 32 == 0 && bits (w 7) 28 36 == 0

/-- Bytes of an element of a contribution: FP32, BF16, FP8 E4M3, FP8 E5M2. -/
def collSize (fmt : Nat) : Nat := if fmt = 0 then 4 else if fmt = 1 then 2 else 1

/-- The format of an element. -/
def collFmt : Nat → Fmt
  | 0 => fp32
  | 1 => bf16
  | 2 => e4m3
  | _ => e5m2

/-- Chunks of a context: 2,048 elements each (R414). -/
def CollRec.chunks (r : CollRec) : Nat := (r.elems + 2047) / 2048

/-- Elements of a chunk. -/
def CollRec.chunkLen (r : CollRec) (k : Nat) : Nat := min 2048 (r.elems - 2048 * k)

/-- The agent a context acts as (R413). -/
def CollRec.agent (r : CollRec) : Agent := { kernel := r.part == 31, part := r.part, dma := false, march := false }

/-- A context. -/
def Dev.coll (d : Dev) (c : Nat) : Coll := d.fab.colls.look c

/-- Replaces a context. -/
def Dev.setColl (d : Dev) (c : Nat) (x : Coll) : Dev := { d with fab := { d.fab with colls := d.fab.colls.put c x } }

/-- The record of a context as read at arming. -/
def Coll.record' (x : Coll) : CollRec := collOf x.record

/-- An agent reaches every byte of a range that lies in HBM or in one scratchpad. -/
def Dev.spanReach (d : Dev) (g : Agent) (a n : Nat) (write : Bool) : Bool :=
  match d.placeLocal a, d.placeLocal (a + n - 1) with
  | .hbm _, .hbm _ => (List.range (shareOf (a + n - 1) - shareOf a + 1)).all (fun i => d.hbmAdmits g (max a ((shareOf a + i) * shareBytes)) write)
  | .sp c o, .sp k _ => c == k && d.spAdmits g c o n
  | _, _ => false

/-- An array of a record lies in memory its owner reaches (R201, R413). -/
def Dev.collArray (d : Dev) (r : CollRec) (a n : Nat) (write : Bool) : Bool :=
  a % 64 == 0 && decide (a < 2 ^ 40) && (n == 0 || d.spanReach r.agent a n write)

/-- A semaphore of a record, which its owner reaches. -/
def Dev.collSem (d : Dev) (r : CollRec) (a : Nat) : Bool :=
  match d.place a with
  | .ses w => d.isSemaphore w && d.sesAdmits r.agent w
  | _ => false

/-- Arming accepts a record (R413). DEDUCED: an address is checked where a set feature uses it (log entry 116). -/
def Dev.collOk (d : Dev) (bs : List Byte) : Bool :=
  let r := collOf bs
  collReserved bs && decide (r.op ≤ 2) && (r.dfmt == 0 || r.sfmt == 1) && decide (1 ≤ r.expected) &&
  (!r.recv || d.collArray r r.dest (r.elems * collSize r.dfmt) true) &&
  (!r.send || (d.collArray r r.src (r.elems * collSize r.sfmt) false && d.collSem r r.trigSem && decide (1 ≤ r.trigStep))) &&
  (r.doneSem == 0 || d.collSem r r.doneSem) && (r.chunkSem == 0 || d.collSem r r.chunkSem)

/-- The context has stopped (R420): 1 a refused send, 2 a dead peer. -/
def Dev.collStop (d : Dev) (c why : Nat) : Dev :=
  if (d.coll c).armed ∧ d.get (COLL_STATUS.STOP c) = 0 then d.put (COLL_STATUS.STOP c) why else d

/-- A contribution for a chunk goes to the target context (R414, R416). -/
def Dev.collSend (e : Env) (d : Dev) (c fmt k : Nat) (v : List Byte × Bool) : Dev :=
  let x := d.coll c
  let r := x.record'
  if d.get (COLL_STATUS.STOP c) ≠ 0 then d
  else if !d.routed r.tgtId ∨ r.tgtId = d.fabId then d.collStop c 1
  else if d.peerDead r.tgtId then d.collStop c 2
  else
    let h := r.tgtCtx + x.round % 256 * 2 ^ 8 + fmt * 2 ^ 16 + k * 2 ^ 64
    let p := { (d.packet r.tgtId tColl 1 (d.tagOf (r.part == 31) r.part) 0 v.1.length 0 v.1) with status := b2n v.2, exth := h }
    d.fabSend e r.tgtId (.coll c) none p

/-- The bytes of a chunk of an array. -/
def Dev.collBytes (d : Dev) (a k size n : Nat) : List Byte × Bool :=
  (d.homeBytes (a + 2048 * k * size) (n * size)).getD ([], true)

/-- A chunk's bytes are read at their home, through L2 in a class (R240, R247). -/
def Dev.collTake (e : Env) (d : Dev) (r : CollRec) (a k size cls : Nat) : Dev :=
  d.takeHome e (a + 2048 * k * size) (r.chunkLen k * size) (if r.part < 16 then r.part else 31) cls

/-- A chunk's bytes are under repair (log entry 80). -/
def Dev.collRepairs (d : Dev) (r : CollRec) (a k size : Nat) : Bool := d.repairing (a + 2048 * k * size) (r.chunkLen k * size)

/-- A packet of the context awaits its acknowledgement. -/
def Dev.collPending (d : Dev) (c : Nat) : Bool := d.fabPending (fun o => o == .coll c)

/-- With every chunk complete and every packet of the round acknowledged the round ends: DONESEM gets its add and ROUND rises
(R416); a context being disarmed stops once its packets are acknowledged (R419). -/
def Dev.collSettle (e : Env) (d : Dev) (c : Nat) : Dev :=
  let x := d.coll c
  let r := x.record'
  if !x.armed ∨ d.collPending c then d
  else if x.disarming then d.setColl c { x with armed := false, disarming := false }
  else
    let received := !r.recv || decide (r.chunks ≤ x.doneChunks.length)
    let sent := !r.send || x.sentRound == some x.round
    if d.get (COLL_STATUS.STOP c) = 0 ∧ (r.recv || r.send) ∧ received ∧ sent then
      let d := d.setColl c { x with round := x.round + 1, sentRound := none, counts := [], doneChunks := [] }
      let d := d.put (COLL_STATUS.ROUND c) (x.round + 1)
      if r.doneSem = 0 then d else d.signal e (.coll c) .other r.part (r.part == 31) r.doneSem 1
    else d

/-- A chunk is complete: CHUNKSEM with STREAM, then the chunk goes onward with FWD (R416). -/
def Dev.chunkDone (e : Env) (d : Dev) (c k : Nat) : Dev :=
  let x := d.coll c
  let r := x.record'
  let d := d.setColl c { x with doneChunks := x.doneChunks ++ [k] }
  let d := if r.stream && r.chunkSem != 0 then d.signal e (.coll c) .other r.part (r.part == 31) r.chunkSem 1 else d
  let d := if r.fwd then d.collTake e r r.dest k (collSize r.dfmt) 1 else d
  let d := if r.fwd then d.collSend e c r.dfmt k (d.collBytes r.dest k (collSize r.dfmt) (r.chunkLen k)) else d
  d.collSettle e c

/-- One element: d = op(d, x), x widened exactly, a sum rounded once to DFMT (R415, R150). -/
def collElem (op dfmt fmt dv xv : Nat) : Nat :=
  let f := collFmt dfmt
  let x := (collFmt fmt).decode xv
  match op with
  | 0 => (f.encode 0 false (FVal.add 0 (f.decode dv) x)).1
  | 1 => (f.minMax true dv (f.encode 0 false x).1).1
  | _ => (f.minMax false dv (f.encode 0 false x).1).1

/-- The elements of some bytes. -/
def elemsOf (size n : Nat) (bs : List Byte) : List Nat := (List.range n).map (fun i => leOf ((bs.drop (size * i)).take size))

/-- A contribution is reduced into its chunk of DEST (R415); poison on either side marks the chunk. -/
def Dev.collReduce (d : Dev) (r : CollRec) (fmt k : Nat) (p : Packet) (old : List Byte × Bool) : Dev :=
  let size := collSize r.dfmt
  let n := r.chunkLen k
  let vs := (elemsOf size n old.1).zip (elemsOf (collSize fmt) n p.data)
  let out := vs.flatMap (fun v => leBytes size (collElem r.op r.dfmt fmt v.1 v.2))
  let part := if r.part < 16 then r.part else 31
  (d.writeHome (r.dest + 2048 * k * size) part out (old.2 || p.status == 1) p.cls).moved part p.length

/-- A contribution is acknowledged, discarded and counted; COLL_DISCARD once per context and round (R418). -/
def Dev.collDiscard (e : Env) (d : Dev) (c round why : Nat) (p : Packet) : Dev :=
  let d := (d.performed e p.src p.psn).bump (COLL_STATUS.DISCARDS c) 1
  let x := d.coll c
  if x.posted = some x.round then d
  else
    let part := if x.armed then x.record'.part else 31
    (d.setColl c { x with posted := some x.round }).postP e 0x75 part [c + round * 2 ^ 8 + why * 2 ^ 16]

/-- COLL: a contribution is reduced, put off, or discarded (R415, R418). -/
def Dev.klpColl (e : Env) (d : Dev) (p : Packet) : Dev :=
  d.asAgent e p fun g d =>
    let c := bits p.exth 0 8
    let round := bits p.exth 8 8
    let fmt := bits p.exth 16 2
    let k := bits p.exth 64 32
    let x := d.coll c
    let r := x.record'
    let size := collSize r.dfmt
    if !x.armed ∨ !r.recv ∨ d.get (COLL_STATUS.STOP c) ≠ 0 then d.collDiscard e c round 4 p
    else if (r.dfmt = 1 ∧ fmt ≠ 1) ∨ r.chunks ≤ k ∨ p.length ≠ r.chunkLen k * collSize fmt then d.collDiscard e c round 3 p
    else if round = (x.round + 1) % 256 then d.busy e p
    else if round ≠ x.round % 256 then d.collDiscard e c round 1 p
    else if r.expected ≤ x.counts.look k then d.collDiscard e c round 2 p
    else
      let f := d.reachFault g (r.dest + 2048 * k * size) (r.chunkLen k * size) true
      if f ≠ 0 then d.refuseReq e p f
      else
        d.klpFetch e p r.agent.charged (r.dest + 2048 * k * size) (r.chunkLen k * size) fun old d =>
          let d := (d.collReduce r fmt k p old).performed e p.src p.psn
          let d := d.setColl c { x with counts := x.counts.put k (x.counts.look k + 1) }
          if x.counts.look k + 1 = r.expected then d.chunkDone e c k else d

/-- COLL. -/
def execColl (l : Nat) (p : Packet) (s : State) : Host.Outcome State Fault Refusal :=
  s.onDev fun e d => d.klpArrive e l p tColl (p.fits 1 8192 && p.subop == 0) fun d => d.klpColl e p

/-- COLL_ROUND_SEND: TRIGSEM has reached the round's threshold: SRC is read and sent, one COLL per chunk (R414); not while a sector of it is
under repair (log entry 80) or its section's clock switches (R20). -/
def execCollRoundSend (c : Nat) (s : State) : Host.Outcome State Fault Refusal :=
  s.onDev fun e d =>
    let x := d.coll c
    let r := x.record'
    let ready := match d.place r.trigSem with | .ses a => decide ((x.round + 1) * r.trigStep ≤ d.sesVal a) | _ => false
    if 256 ≤ c ∨ !x.armed ∨ x.disarming ∨ d.get (COLL_STATUS.STOP c) ≠ 0 ∨ !r.send ∨ x.sentRound = some x.round ∨ !ready ∨
        d.placeSwitches (d.placeLocal r.src) then d
    else
      let d := (List.range r.chunks).foldl (fun d k => d.collTake e r r.src k (collSize r.sfmt) 1) d
      if (List.range r.chunks).any (fun k => d.collRepairs r r.src k (collSize r.sfmt)) then d
      else
      let d := d.setColl c { x with sentRound := some x.round }
      let d := (List.range r.chunks).foldl (fun d k =>
        d.collSend e c r.sfmt k (d.collBytes r.src k (collSize r.sfmt) (r.chunkLen k))) d
      d.collSettle e c

/-- The context is being disarmed (R419). -/
def Dev.collDisarm (e : Env) (d : Dev) (c : Nat) : Dev :=
  let x := d.coll c
  if x.armed then (d.setColl c { x with disarming := true }).collSettle e c else d

/-- The context is armed, or arming refused (R413). -/
def Dev.collArm (e : Env) (d : Dev) (c : Nat) : Dev :=
  let d := d.takeHome e (d.get FAB_COLL_BASE.BASE * 4096 + 64 * c) 64 31 1
  let bs := (d.homeBytes (d.get FAB_COLL_BASE.BASE * 4096 + 64 * c) 64).getD ([], true)
  if bs.2 ∨ !d.collOk bs.1 then d.put (COLL_STATUS.ARM_RESULT c) 1
  else
    let x : Coll := { armed := true, round := 0, record := bs.1, sentRound := none, counts := [], doneChunks := [], disarming := false, posted := none }
    (((d.setColl c x).put (COLL_STATUS.ARM_RESULT c) 0).put (COLL_STATUS.STOP c) 0).put (COLL_STATUS.ROUND c) 0

/-- A write to FAB_COLL_ARM (R413, R419). -/
def Dev.wrCollArm (e : Env) (d : Dev) (src : Src) (v : Nat) : Dev :=
  d.guardOwn e src FAB_COLL_ARM.off true fun d =>
    let d := d.note FAB_COLL_ARM.off (bits v 0 9)
    if bit v 8 then d.collDisarm e (bits v 0 8) else d.collArm e (bits v 0 8)

/-- COLL_ARM. -/
def execCollArm (src : Src) (value : DWord) (s : State) : Host.Outcome State Fault Refusal :=
  s.onDev fun e d => if bit value.toNat 8 then d else d.wrCollArm e src value.toNat

/-- COLL_DISARM. -/
def execCollDisarm (src : Src) (value : DWord) (s : State) : Host.Outcome State Fault Refusal :=
  s.onDev fun e d => if bit value.toNat 8 then d.wrCollArm e src value.toNat else d

end Sys2Proof.Machine
end

