-- ==== Sys2Proof/Machine/Buddy.lean ====
section
/-! DEFINITION. Buddy pairing (R421-R425): the fragile states, what is mirrored and when, the items received, the resume at boot. -/

namespace Sys2Proof.Machine

/-- The device's own state: START before RECOVERY before TEST (R421; log entry 45). -/
def Dev.ownState (d : Dev) : Nat :=
  if d.fab.buddy.start then 1
  else if d.get FAB_BUDDY.RECOVERY = 1 then 3
  else if d.fab.buddy.tests ≠ 0 ∨ d.get MGMT_MAINT.ACTIVE = 1 then 2
  else 0

/-- A BUDDY_STATE record (R427). -/
def Dev.buddyEvent (e : Env) (d : Dev) (reason : Nat) : Dev :=
  d.postD e 0x74 31 31 [d.get FAB_BUDDY.OWN_STATE + d.get FAB_BUDDY.BUDDY_STATE * 4 + reason * 16]

/-- OWN_STATE follows the states; a change is posted (R421, R427). -/
def Dev.buddyRefresh (e : Env) (d : Dev) : Dev :=
  if d.get FAB_BUDDY.OWN_STATE = d.ownState then d
  else (d.put FAB_BUDDY.OWN_STATE d.ownState).buddyEvent e 0

/-! Sending (R421-R423). -/

/-- Entries split over items of at most `per` entries. `fuel`: at least the items. -/
def Dev.mirrorItems (e : Env) (d : Dev) (kind per : Nat) : List (List Byte) → Nat → Dev
  | _, 0 => d
  | es, fuel + 1 =>
    if es.isEmpty then d
    else Dev.mirrorItems e (d.mirrorItem e kind (es.take per).length (es.take per).flatten) kind per (es.drop per) fuel

/-- Sends all entries of a kind. -/
def Dev.mirrorAll (e : Env) (d : Dev) (kind per : Nat) (es : List (List Byte)) : Dev := d.mirrorItems e kind per es (es.length + 1)

/-- A queue's entry (kind 3) as a word. -/
def Dev.queueEntry (d : Dev) (q : Nat) : Nat :=
  q + d.get (QUEUE_STATUS.STATE q) * 2 ^ 12 + d.get (QUEUE_STATUS.NEXT_SEQ q) * 2 ^ 16 + d.get (QUEUE_STATUS.HEAD q) * 2 ^ 32

/-- A graph's entry (kind 4) as a word. -/
def Dev.graphEntry (d : Dev) (g : Nat) : Nat := g + d.get (GRAPH_INFO.VERSION g) * 2 ^ 32

/-- The semaphores of the mirrored sync blocks. -/
def Dev.mirroredSems (d : Dev) : List Nat :=
  (maskList 64 d.mgmt.cfg.buddyMask).flatMap (fun j => (List.range 1024).map (fun i => 1024 * j + i))

/-- Both mirror everything while either is fragile (R421), once the device's own resume is settled. -/
def Dev.mirrorsAll (d : Dev) : Bool :=
  d.paired && decide (3 ≤ d.fab.buddy.resume) && (d.get FAB_BUDDY.OWN_STATE != 0 || d.get FAB_BUDDY.BUDDY_STATE != 0)

/-- The configuration digest as its 32 bytes (R463). -/
def Dev.digestBytes (d : Dev) : List Byte := beBytes 32 (d.mgmt.digests.look 2)

/-- The mirrored state that the buddy has not been sent, or all of it (R421). -/
def Dev.mirrorState (e : Env) (d : Dev) (all : Bool) : Dev :=
  let b := d.fab.buddy
  let d := if all || !b.sentDigest then d.mirrorItem e 1 1 d.digestBytes else d
  let qs := (List.range 4096).filter (fun q => all || (b.sentQueues.look q).toNat != d.queueEntry q - q)
  let d := d.mirrorAll e 3 1022 (qs.map (fun q => beBytes 8 (d.queueEntry q)))
  let gs := (List.range 1024).filter (fun g => all || (b.sentGraphs.look g).toNat != d.get (GRAPH_INFO.VERSION g))
  let d := d.mirrorAll e 4 1022 (gs.map (fun g => beBytes 8 (d.graphEntry g)))
  let ss := d.mirroredSems.filter (fun i => all || (b.sentSems.look i).toNat != d.sesVal (sesAddr (.sem i)))
  let d := d.mirrorAll e 5 511 (ss.map (fun i => beBytes 4 i ++ beBytes 4 0 ++ beBytes 8 (d.sesVal (sesAddr (.sem i)))))
  let c := d.fab.buddy
  d.setBuddy { c with
    sentDigest := true
    sentQueues := qs.foldl (fun t q => Sparse.put t q (BitVec.ofNat 64 (d.queueEntry q - q))) c.sentQueues
    sentGraphs := gs.foldl (fun t g => Sparse.put t g (BitVec.ofNat 64 (d.get (GRAPH_INFO.VERSION g)))) c.sentGraphs
    sentSems := ss.foldl (fun t i => Sparse.put t i (BitVec.ofNat 64 (d.sesVal (sesAddr (.sem i))))) c.sentSems }

/-- A full resend, closed by END (R423, R425). -/
def Dev.mirrorResend (e : Env) (d : Dev) : Dev := (d.mirrorState e true).mirrorItem e 8 0 []

/-- MIRROR_BATCH: what has changed goes to the buddy while either is fragile (R421). DESIGN CHOICE: graph versions and semaphore values
go with it too (log entry 115). -/
def execMirrorBatch (s : State) : Host.Outcome State Fault Refusal :=
  s.onDev fun e d => if d.mirrorsAll then d.mirrorState e false else d

/-- The buddy has acknowledged an item (R422). -/
def Dev.mirrorAcked (d : Dev) (iseq : Nat) : Dev :=
  let b := d.fab.buddy
  match b.ledgerSent.find? (fun x => x.1 == iseq) with
  | some x => d.setBuddy { b with ledgerAcked := max b.ledgerAcked x.2, ledgerSent := b.ledgerSent.filter (fun y => y.1 != iseq) }
  | none => d

/-! Receiving (R423). -/

/-- The header of a mirror item. -/
def mirrorOf (p : Packet) : MirrorItem :=
  { kind := beOf (p.data.take 1), state := beOf ((p.data.drop 1).take 1), count := beOf ((p.data.drop 2).take 2),
    iseq := beOf ((p.data.drop 4).take 4), incarnation := beOf ((p.data.drop 8).take 4), entries := p.data.drop 16 }

/-- Bytes of an entry of a kind (Table: Mirror item kinds). -/
def mirrorSize : Nat → Nat
  | 1 => 32
  | 2 => 64
  | 3 | 4 | 7 => 8
  | 5 => 16
  | 6 => 40
  | _ => 0

/-- The kind is known and its entries lie within the packet. -/
def MirrorItem.fits (m : MirrorItem) : Bool :=
  decide (1 ≤ m.kind) && decide (m.kind ≤ 9) && decide (m.count * mirrorSize m.kind ≤ m.entries.length) &&
  (m.kind != 1 || m.count == 1) && (mirrorSize m.kind != 0 || m.count == 0)

/-- Entry i of an item. -/
def MirrorItem.entry (m : MirrorItem) (i : Nat) : List Byte := (m.entries.drop (i * mirrorSize m.kind)).take (mirrorSize m.kind)

/-- The index of an entry of kinds 1, 3, 4 and 5, and its value. -/
def mirrorEntry (kind : Nat) (bs : List Byte) : Nat × Nat :=
  match kind with
  | 3 => (bits (beOf bs) 0 12, beOf bs)
  | 4 => (bits (beOf bs) 0 10, beOf bs)
  | 5 => (bits (beOf (bs.take 4)) 0 16, beOf (bs.drop 8))
  | _ => (0, 0)

/-- An entry is kept where its item is newer than the one that last set it. -/
def Mirror.take (m : Mirror) (kind iseq : Nat) (bs : List Byte) : Mirror :=
  if kind = 2 then
    if m.ledger.any (fun r => r.take 4 == bs.take 4) then m else { m with ledger := m.ledger ++ [bs] }
  else
    let x := mirrorEntry kind bs
    let key := kind * 65536 + x.1
    if iseq ≤ m.iseqs.look key then m
    else
      let m := { m with iseqs := m.iseqs.put key iseq }
      match kind with
      | 1 => { m with digest := bs }
      | 3 => { m with queues := m.queues.put x.1 (BitVec.ofNat 64 x.2) }
      | 4 => { m with graphs := m.graphs.put x.1 (BitVec.ofNat 64 x.2) }
      | _ => { m with sems := m.sems.put x.1 (BitVec.ofNat 64 x.2) }

/-- Every entry of an item; items of a new pairing start a new series. -/
def Mirror.apply (m : Mirror) (i : MirrorItem) : Mirror :=
  let m := if m.incarnation = i.incarnation then m else { m with iseqs := [], incarnation := i.incarnation }
  (List.range i.count).foldl (fun m k => m.take i.kind i.iseq (i.entry k)) m

/-- The mirror of an earlier boot is restored: queues DISABLED with their HEAD and NEXT_SEQ, graph numbering, semaphores (R424). -/
def Dev.resumeApply (e : Env) (d : Dev) (m : Mirror) : Dev :=
  let d := m.queues.foldl (fun d x =>
    let q := x.1
    let v := x.2.toNat
    ((d.put (QUEUE_STATUS.HEAD q) (bits v 32 32)).put (QUEUE_STATUS.NEXT_SEQ q) (bits v 16 16)).put (QUEUE_STATUS.STATE q) 0) d
  let d := { d with fe := { d.fe with lastNumber := m.graphs.foldl (fun (t : Sparse Nat) (x : Nat × DWord) => Sparse.put t x.1 (bits x.2.toNat 32 32)) d.fe.lastNumber } }
  let d := m.sems.foldl (fun d x => d.setSes (sesAddr (.sem x.1)) x.2.toNat) d
  (d.setBuddy { d.fab.buddy with resume := 3 }).buddyEvent e 1

/-- The device boots cold (R424). -/
def Dev.resumeCold (e : Env) (d : Dev) (reason : Nat) : Dev :=
  (d.setBuddy { d.fab.buddy with resume := 4, incoming := default }).buddyEvent e reason

/-- A resume transfer is applied once END and every item have arrived (R423). -/
def Dev.resumeSettle (e : Env) (d : Dev) : Dev :=
  let b := d.fab.buddy
  match b.resumeWant with
  | some n =>
    if b.resume = 2 ∧ b.resumeEnd ∧ n ≤ b.resumeItems then
      (d.resumeApply e b.incoming).setBuddy { b with resume := 3, incoming := default }
    else d
  | none => d

/-- Kinds 1 to 5 and END. -/
def Dev.mirrorTake (e : Env) (d : Dev) (m : MirrorItem) : Dev :=
  let b := d.fab.buddy
  if b.resume = 1 ∨ b.resume = 2 then
    let b := { b with resumeItems := b.resumeItems + 1 }
    let b := if m.kind = 8 then { b with resumeEnd := true } else { b with incoming := b.incoming.apply m }
    (d.setBuddy b).resumeSettle e
  else if m.kind = 8 then d
  else
    let fragile := bits m.state 0 2 != 0
    let d := d.setBuddy { b with held := b.held.apply m, fragileHeld := fragile }
    d.put FAB_BUDDY.MIRROR_HELD (b2n fragile)

/-- The buddy's own state, from an item's header. -/
def Dev.buddySees (e : Env) (d : Dev) (m : MirrorItem) : Dev :=
  if d.get FAB_BUDDY.BUDDY_STATE = bits m.state 0 2 then d
  else (d.put FAB_BUDDY.BUDDY_STATE (bits m.state 0 2)).buddyEvent e 0

/-- A mirror item of some kinds arrives on a pairing port from the buddy. An item that is not understood is acknowledged,
discarded and counted. -/
def Dev.mirrorArrive (e : Env) (d : Dev) (l : Nat) (p : Packet) (kinds : List Nat) (k : MirrorItem → Dev → Dev) : Dev :=
  let m := mirrorOf p
  let other := ([6, 7, 9].filter (fun x => !kinds.contains x)).contains m.kind
  if !d.paired || p.src != d.buddyId || !d.mgmt.cfg.buddyPorts.contains l || other || (kinds.length == 1 && !kinds.contains m.kind) then d
  else
    d.klpArrive e l p tMirror (p.fits 16 8192 && p.subop == 0) fun d =>
      let d := d.performed e p.src p.psn
      if !m.fits then d.malformed else k m (d.buddySees e m)

/-- MIRROR: kinds 1 to 5, END, and kinds that are not known (R423). -/
def execMirror (l : Nat) (p : Packet) (s : State) : Host.Outcome State Fault Refusal :=
  s.onDev fun e d => d.mirrorArrive e l p [1, 2, 3, 4, 5, 8] fun m d => d.mirrorTake e m

/-- The entries of the held mirror, as item bodies with their kinds and counts. -/
def Mirror.items (m : Mirror) : List (Nat × Nat × List Byte) :=
  let split := fun (kind per : Nat) (es : List (List Byte)) =>
    (List.range ((es.length + per - 1) / per)).map (fun i =>
      let part := (es.drop (i * per)).take per
      (kind, part.length, part.flatten))
  (if m.digest.isEmpty then [] else [(1, 1, m.digest)]) ++
  split 2 127 m.ledger ++
  split 3 1022 (m.queues.map (fun x => beBytes 8 (x.1 + x.2.toNat / 4096 * 4096))) ++
  split 4 1022 (m.graphs.map (fun x => beBytes 8 (x.1 + x.2.toNat / 2 ^ 32 * 2 ^ 32))) ++
  split 5 511 (m.sems.map (fun x => beBytes 4 x.1 ++ beBytes 4 0 ++ beBytes 8 x.2.toNat))

/-- RESUME_REQ: the buddy asks for its mirror (R423, R424). -/
def execResumeReq (l : Nat) (p : Packet) (s : State) : Host.Outcome State Fault Refusal :=
  s.onDev fun e d =>
    d.mirrorArrive e l p [6] fun m d =>
      let b := d.fab.buddy
      let x := m.entry 0
      let result := if !b.fragileHeld then 1 else if beOf (x.take 8) ≠ b.peerSerial then 2 else if x.drop 8 ≠ b.held.digest then 3 else 0
      let items := if result = 0 then b.held.items else []
      let n := if result = 0 then items.length + 1 else 0
      let d := d.mirrorItem e 7 1 (beBytes 8 (result + n * 2 ^ 32))
      if result ≠ 0 then d
      else (items.foldl (fun d i => d.mirrorItem e i.1 i.2.1 i.2.2) d).mirrorItem e 8 0 []

/-- RESUME_RESP: a mirror follows, or the device boots cold (R424). -/
def execResumeResp (l : Nat) (p : Packet) (s : State) : Host.Outcome State Fault Refusal :=
  s.onDev fun e d =>
    d.mirrorArrive e l p [7] fun m d =>
      let v := beOf (m.entry 0)
      let b := d.fab.buddy
      if b.resume ≠ 1 then d
      else if bits v 0 8 = 0 then (d.setBuddy { b with resume := 2, resumeWant := some (bits v 32 32) }).resumeSettle e
      else d.resumeCold e (if bits v 0 8 = 3 then 3 else 2)

/-- RESEND_REQ: the buddy asks for a full resend (R423). -/
def execResendReq (l : Nat) (p : Packet) (s : State) : Host.Outcome State Fault Refusal :=
  s.onDev fun e d => d.mirrorArrive e l p [9] fun _ d => d.mirrorResend e

/-- The device asks its buddy for a mirror, before Chanter starts (R424). -/
def Dev.resumeAsk (e : Env) (d : Dev) (serial : Nat) : Dev :=
  let b := d.fab.buddy
  let d := d.setBuddy { b with resume := 1, incoming := default, resumeItems := 0, resumeWant := none, resumeEnd := false }
  d.mirrorItem e 6 1 (beBytes 8 serial ++ d.digestBytes)

/-- A write of FAB_BUDDY: RECOVERY is entered or left (R421). -/
def Dev.wrBuddy (e : Env) (d : Dev) (src : Src) (v : Nat) : Dev :=
  d.guardOwn e src FAB_BUDDY.off (d.get FAB_BUDDY.RECOVERY != bits v 20 1) fun d =>
    (d.put FAB_BUDDY.RECOVERY (bits v 20 1)).buddyRefresh e

/-- BUDDY_RECOVERY. -/
def execBuddyRecovery (src : Src) (value : DWord) (s : State) : Host.Outcome State Fault Refusal :=
  s.onDev fun e d => d.wrBuddy e src value.toNat

end Sys2Proof.Machine
end

