-- ==== Sys2Proof/Machine/FabAns.lean ====
section
/-! DEFINITION. KLP at the requester (R401-R410): acknowledgements and the congestion window, refusals, responses; peers declared
dead, and those that speak again; the timers. -/

namespace Sys2Proof.Machine

/-! What an acknowledgement, a refusal or a loss means to the sender of a packet. -/

/-- The fabric address a packet names. -/
def fabAddr (peer : Nat) (p : Packet) : Nat := 2 ^ 63 + peer * 2 ^ 40 + p.addr % 2 ^ 40

/-- A request that a response answers (R390). -/
def waitsResponse (p : Packet) : Bool :=
  p.type == tRead || p.type == tAtomic || (p.type == tSem && (semKind p.subop).holds)

/-- A packet is acknowledged. -/
def Dev.ownerAcked (e : Env) (d : Dev) (o : FabOwner) : Dev :=
  match o with
  | .row _ _ => d.eduSettled e o
  | .ret id => d.retAcked e id 0
  | .cmd c => d.ctxFinish e c .done 0 none
  | .coll c => d.collSettle e c
  | .mirror n => d.mirrorAcked n
  | _ => d

/-- An access of a group is answered. -/
def Dev.loadAnswer (d : Dev) (g : Gid) (w : Nat) (bs : List Byte) (poison : Bool) : Dev :=
  d.answerGroup g (.fabric w) (fun o n => ((List.range n).map (fun i => bs.getD (o + i) 0), poison))

/-- A READ of an engine or a command context is answered with data or a fault. -/
def Dev.bindAnswer (d : Dev) (id : Nat) (data : Option (List Byte × Bool)) (engFault ctxFault : Nat) : Dev :=
  let upd := fun (f : Nat) (r : DmaRead) => if r.id = id then { r with data := data, fault := f } else r
  let engs := d.dma.engines.map (fun (x : Nat × Engine) =>
    if x.2.reads.any (fun r => r.id == id) then (x.1, { x.2 with reads := x.2.reads.map (upd engFault) }) else x)
  let ctxs := d.fe.ctxs.map (fun (x : Nat × Ctx) =>
    if x.2.reads.any (fun r => r.id == id) then (x.1, { x.2 with reads := x.2.reads.map (upd ctxFault) }) else x)
  { d with dma := { d.dma with engines := engs }, fe := { d.fe with ctxs := ctxs } }

/-- The first write in descriptor order that was not performed, with its fault. -/
def firstLost (l : Option (Nat × Nat)) (pos fault : Nat) : Option (Nat × Nat) :=
  match l with
  | some x => if pos < x.1 then some (pos, fault) else some x
  | none => some (pos, fault)

/-- The engine notes a write of a run that was not performed: of its running descriptor, or of one whose writes are awaited (R324). -/
def Dev.dmaLost (d : Dev) (n run pos fault : Nat) : Dev :=
  let x := d.eng n
  if x.run = run then d.setEng n { x with lost := firstLost x.lost pos fault }
  else d.setEng n { x with ends := x.ends.map (fun h => if h.run = run then { h with lost := firstLost h.lost pos fault } else h) }

/-- The waiting operation of an identity at a peer. -/
def Dev.remoteOp (d : Dev) (op : Nat) : Option SesOp := (d.ses.remote.find? (fun x => x.2.id == op)).map (fun x => x.2)

/-- It waits no longer. -/
def Dev.remoteDrop (d : Dev) (op : Nat) : Dev := { d with ses := { d.ses with remote := d.ses.remote.filter (fun x => x.2.id != op) } }

/-- A waiting operation ends with an exception of its group, or its agent's fault (R404, R310). `tag`: the one a lock met (R64, R65). -/
def Dev.remoteExc (e : Env) (d : Dev) (o : SesOp) (code ctxKind ctxCode : Nat) (tag : Option Nat := none) : Dev :=
  match o.src, o.kind with
  | .group g _ _, .lock => d.lockPart e g o.id 0 (FarLock.excs { id := o.id, peer := 0, lanes := o.lanes, won := false } code tag)
  | .chanter c, _ => d.ctxFault e c ctxKind ctxCode o.addr
  | _, _ => d.sesExc e o code

/-- What waited for the repair of a sector goes on: the movers of both instances; every other agent asks again (R451). -/
def Dev.repairOver (e : Env) (d : Dev) (s : Nat) : Dev :=
  ((({ d with mem := { d.mem with repairs := d.mem.repairs.filter (fun x => x != s) } } : Dev)).moverRun e 0).moverRun e 1

/-- A repair can't be made from the buddy's mirror: the sector stays damaged (R255, R451). -/
def Dev.repairFailed (e : Env) (d : Dev) (s : Nat) : Dev :=
  (match d.regionOf (s * 32) with
   | some r => d.regionDamaged e r s
   | none => d).repairOver e s

/-- A request was refused for a reason (Table: Requester outcome of a refused request). -/
def Dev.ownerRefused (e : Env) (d : Dev) (peer reason : Nat) (s : Sent) : Dev :=
  let dma := if reason = 1 then 0x01 else 0x02
  let cmd := if reason = 1 then 6 else 7
  match s.owner with
  | .load g w => d.loadAnswer g w [] true
  | .sem op =>
    match d.remoteOp op with
    | some o => (d.remoteDrop op).remoteExc e o xPoison 0 cmd
    | none => d
  | .dma n run pos => d.dmaLost n run pos dma
  | .row c t => (d.ectxFault e c dma (fabAddr peer s.pkt)).mapAsg c t (fun a => { a with acked := true })
  | .eduWrite c _ => d.ectxFault e c dma (fabAddr peer s.pkt)
  | .ret id => d.retAcked e id dma
  | .coll c => (d.collStop c 1).collSettle e c
  | .repair x => d.repairFailed e x
  | .bind id => d.bindAnswer id none dma cmd
  | .cmd c => d.ctxFault e c 0 cmd (fabAddr peer s.pkt)
  | .store _ | .mirror _ | .response | .other => d

/-- A packet to a peer declared dead is lost (R190, R285, R310, R324, R420). -/
def Dev.ownerLost (e : Env) (d : Dev) (s : Sent) : Dev :=
  match s.owner with
  | .store gs => if s.acked then d else gs.foldl (fun d g => d.fabLoss g.1 g.2 1 false) d
  | .load g w => d.loadAnswer g w [] true
  | .dma n run pos => d.dmaLost n run pos 0x05
  | .ret id => d.retAcked e id 0
  | .coll c => d.collStop c 2
  | .repair x => d.repairFailed e x
  | .bind id => d.bindAnswer id none 0x05 0x07
  | .cmd c => d.ctxFinish e c .done 0 none
  | .sem _ | .row _ _ | .eduWrite _ _ | .mirror _ | .response | .other => d

/-- Lost stores in a packet that was not acknowledged: its stores, non-returning atomics and Sesame operations that nothing waits for
(R285). -/
def Sent.losses (s : Sent) : Nat :=
  if s.acked then 0
  else
    match s.owner with
    | .store gs => gs.length
    | .mirror _ | .response | .coll _ | .load _ _ | .sem _ | .repair _ | .bind _ => 0
    | _ => if s.pkt.type = tSemWithdraw then 0 else 1

/-! Acknowledgements (R401, R405). -/

/-- The smoothed round-trip time and its deviation after a sample, with gains 1/8 and 1/4 (R403; log entry 44). -/
def SendFlow.sample (f : SendFlow) (rtt : Nat) : SendFlow :=
  if f.srtt = 0 then { f with srtt := rtt, rttvar := rtt / 2 }
  else
    let dev := (max f.srtt rtt) - (min f.srtt rtt)
    { f with rttvar := (3 * f.rttvar + dev) / 4, srtt := (7 * f.srtt + rtt) / 8 }

/-- The window after an ACK: `cc_on_ack` of R405. -/
def Dev.ccOnAck (e : Env) (d : Dev) (f : SendFlow) (echo acked : Nat) : SendFlow :=
  let rtt := e.time - echo
  let rtts := (f.rtts.filter (fun x => e.time < x.1 + 10000000)) ++ [(e.time, rtt)]
  let base := rtts.foldl (fun m x => min m x.2) rtt
  let target := base + d.get FAB_CC.TARGET_DELAY_US * 1000
  let f := { f with rtts := rtts, baseRtt := base }
  let f :=
    if rtt ≤ target then { f with cwnd := f.cwnd + d.get FAB_CC.AI_BYTES * acked / f.cwnd }
    else if base ≤ e.time - f.lastCut then
      let cut := f.cwnd * d.get FAB_CC.BETA16 * (rtt - target) / (16 * rtt)
      { f with cwnd := f.cwnd - min cut (f.cwnd / 2), lastCut := e.time }
    else f
  { f with cwnd := min 4194304 (max 8192 f.cwnd) }

/-- An ACK's payload covers a PSN: below the cumulative point, or a bit of the map of the 64 PSNs after it. -/
def ackCovers (cum map psn : Nat) : Bool :=
  let k := psnAbove psn (cum + 1)
  decide (2 ^ 31 ≤ psnAbove psn cum) || (decide (k < 64) && bit map k)

/-- Packets a flow has sent leave it, the flow then sends what it may; one with nothing left makes room for another (R400). -/
def Dev.flowTake (e : Env) (d : Dev) (peer : Nat) (f : SendFlow) : Dev :=
  let d := (d.setFlow peer { f with idle := e.time }).transmit e peer (f.pkts.length + 1)
  if f.pkts.isEmpty then d.openWaiting e else d

/-- ACK: every packet it covers is acknowledged, the window adjusts (R401, R405). -/
def Dev.klpAck (e : Env) (d : Dev) (p : Packet) : Dev :=
  let f := d.flow p.src
  if !f.live || f.epoch != p.epoch then d
  else
    let cum := beOf (p.data.take 8)
    let map := beOf ((p.data.drop 8).take 8)
    let echo := beOf ((p.data.drop 16).take 8)
    let hit := fun (s : Sent) => s.sent && !s.acked && ackCovers cum map s.pkt.psn
    let got := f.pkts.filter hit
    let left := (f.pkts.filter (fun s => !(hit s && !waitsResponse s.pkt))).map (fun s => if hit s then { s with acked := true } else s)
    let f := (d.ccOnAck e { f with pkts := left } echo (got.map (fun s => pktSize s.pkt)).sum).sample (e.time - echo)
    let d := d.setFlow p.src f
    let d := (got.map (fun s => s.owner)).foldl (fun d o => d.ownerAcked e o) d
    d.flowTake e p.src (d.flow p.src)

/-- An unreliable packet arrives for this device (R390): one of a dead peer is answered FLOW_RESET (R408). -/
def Dev.plainArrive (e : Env) (d : Dev) (l : Nat) (p : Packet) (type len : Nat) (k : Dev → Dev) : Dev :=
  if !d.klpTakes l p type then d
  else if p.length ≠ len ∨ p.data.length ≠ len then d.malformed
  else if d.peerDead p.src then d.sendReset e p.src
  else k d

/-- ACK. -/
def execAck (l : Nat) (p : Packet) (s : State) : Host.Outcome State Fault Refusal :=
  s.onDev fun e d => d.plainArrive e l p tAck 24 fun d => d.klpAck e p

/-- One KLP_REFUSED record per peer and reason per millisecond (R404). -/
def Dev.postRefused (e : Env) (d : Dev) (peer reason : Nat) (p : Packet) : Dev :=
  let key := peer * 8 + reason
  let ms := e.time / 1000000
  if d.fab.refusedMs.look key = ms + 1 then d
  else
    let d := { d with fab := { d.fab with refusedMs := d.fab.refusedMs.put key (ms + 1) } }
    d.postP e 0x73 (d.tagPart p.tenant) [fabAddr peer p, reason]

/-- NAK: the request is refused and ends, or is to be repeated (R403, R404). -/
def Dev.klpNak (e : Env) (d : Dev) (p : Packet) : Dev :=
  let f := d.flow p.src
  let psn := beOf (p.data.take 4)
  let reason := beOf (p.data.drop 4)
  if !f.live || f.epoch != p.epoch then d
  else
    match f.pkts.find? (fun s => s.sent && s.pkt.psn == psn) with
    | none => d
    | some s =>
      if reason = 4 then
        d.setFlow p.src { f with pkts := f.pkts.map (fun x => if x.pkt.psn = psn ∧ !x.acked then { x with busy := true, last := e.time } else x) }
      else
        let d := d.setFlow p.src { f with pkts := f.pkts.filter (fun x => x.pkt.psn != psn) }
        let d := (d.ownerRefused e p.src reason s).postRefused e p.src reason s.pkt
        d.flowTake e p.src (d.flow p.src)

/-- NAK. -/
def execNak (l : Nat) (p : Packet) (s : State) : Host.Outcome State Fault Refusal :=
  s.onDev fun e d => d.plainArrive e l p tNak 8 fun d => d.klpNak e p

/-! Responses (R402). -/

/-- A response arrives: it is itself acknowledged, and ends the request whose PSN it names. -/
def Dev.respond (e : Env) (d : Dev) (p : Packet) (types : List Nat) (k : Sent → Dev → Dev) : Dev :=
  let d := d.performed e p.src p.psn
  let f := d.flow p.src
  let psn := p.addr % 2 ^ 32
  match f.pkts.find? (fun s => s.sent && s.pkt.psn == psn && types.contains s.pkt.type) with
  | none => d
  | some s =>
    let d := d.setFlow p.src { f with pkts := f.pkts.filter (fun x => x.pkt.psn != psn) }
    let d := (k s d).fabMoved (d.tagPart s.pkt.tenant) p.data.length
    d.flowTake e p.src (d.flow p.src)

/-- READ_RESP: data or poison for an access, an engine, a command or a repair. -/
def Dev.klpReadResp (e : Env) (d : Dev) (p : Packet) : Dev :=
  d.respond e p [tRead] fun s d =>
    let bad := p.status == 1
    match s.owner with
    | .load g w => d.loadAnswer g w p.data bad
    | .bind id => d.bindAnswer id (some (p.data, bad)) 0 0
    | .repair x =>
      if bad then d.repairFailed e x
      else
        (match d.regionOf (x * 32) with
         | some r => d.regionRepair e r x (fabAddr p.src s.pkt) (BitVec.ofNat 256 (leOf p.data))
         | none => d).repairOver e x
    | _ => d

/-- READ_RESP. -/
def execReadResp (l : Nat) (p : Packet) (s : State) : Host.Outcome State Fault Refusal :=
  s.onDev fun e d => d.klpArrive e l p tReadResp (p.fits 1 8192 && p.subop == 0) fun d => d.klpReadResp e p

/-- ATOMIC_RESP: the old value. -/
def execAtomicResp (l : Nat) (p : Packet) (s : State) : Host.Outcome State Fault Refusal :=
  s.onDev fun e d =>
    d.klpArrive e l p tAtomicResp (p.fits 8 8 && p.subop == 0) fun d =>
      d.respond e p [tAtomic] fun s d =>
        match s.owner with
        | .load g w => d.loadAnswer g w (leBytes 8 (beOf p.data)) (p.status == 1)
        | _ => d

/-- SEM_RESP: a remote wait ends with PD, withdrawn, or with what the store found (R309, R390; log entry 24). -/
def Dev.klpSemResp (e : Env) (d : Dev) (p : Packet) : Dev :=
  d.respond e p [tSem] fun s d =>
    match s.owner with
    | .sem op =>
      match d.remoteOp op with
      | none => d
      | some o =>
        let d := d.remoteDrop op
        let ok := bit (beOf p.data) 0
        if p.status = 1 then d.remoteExc e o xPoison 4 semFault
        else if p.status ≠ 0 then d.remoteExc e o p.status 4 semFault (if o.kind = .lock then some (beOf p.data / 256) else none)
        else
          match o.src, o.kind with
          | .group g _ _, .lock => d.lockPart e g o.id (if ok then maskOf ((o.lanes.map (fun l => l.lane)).take 1) else 0) []
          | _, _ => d.sesAnswer e o ok
    | _ => d

/-- SEM_RESP. -/
def execSemResp (l : Nat) (p : Packet) (s : State) : Host.Outcome State Fault Refusal :=
  s.onDev fun e d => d.klpArrive e l p tSemResp (p.fits 8 8 && p.subop == 0) fun d => d.klpSemResp e p

/-! Peers that fail (R407, R408). -/

/-- PEER_TIMEOUT in ns: a value outside 1 to 64 ms acts as 4 ms (R407). -/
def Dev.peerTimeout (d : Dev) : Nat :=
  let v := d.get FAB_CTL.PEER_TIMEOUT_MS
  (if 1 ≤ v ∧ v ≤ 64 then v else 4) * 1000000

/-- A peer's record. -/
def Dev.peer (d : Dev) (id : Nat) : Peer := d.fab.peers.look id

/-- Replaces it. -/
def Dev.setPeer (d : Dev) (id : Nat) (x : Peer) : Dev := { d with fab := { d.fab with peers := d.fab.peers.put id x } }

/-- Waits of this device at a dead peer end (R310): WAIT, TAKE, ARRIVE and counter waits with PD false, the others as returning
atomics of R286. -/
def Dev.remoteDead (e : Env) (d : Dev) (id : Nat) : Dev :=
  let out := (d.ses.remote.filter (fun x => x.1 == id)).map (fun x => x.2)
  let d := { d with ses := { d.ses with remote := d.ses.remote.filter (fun x => x.1 != id) } }
  out.foldl (fun d o =>
    match o.src, o.kind with
    | .chanter c, _ => d.ctxFault e c 4 0x33 o.addr
    | .group _ _ _, .prod | .group _ _ _, .cons | .group _ _ _, .lock => d.remoteExc e o xPoison 0 0
    | _, _ => d.sesAnswer e o false) d

/-- A peer is declared dead: its flows are dropped, with the effects of R190, R285, R310, R324 and R420 (R407). -/
def Dev.peerDie (e : Env) (d : Dev) (id : Nat) : Dev :=
  let f := d.flow id
  let r := d.rflow id
  let d := d.setPeer id { d.peer id with dead := true, probe := none }
  let d := d.setFlow id { f with live := false, pkts := [] }
  let d := d.setRflow id { r with live := false, done := [], opened := [], newPkts := 0 }
  let d := f.pkts.foldl (fun d s => d.ownerLost e s) d
  let d := (d.remoteDead e id).eduPeerDead id
  let d := (List.range 256).foldl (fun d c =>
    let x := (d.coll c).record'
    if (d.coll c).armed ∧ (x.send ∨ x.fwd) ∧ x.tgtId = id then (d.collStop c 2).collSettle e c else d) d
  let d := d.sesRemove (fun o => match o.src with | .peer p _ _ => p == id | _ => false) false
  let d := { d with edu := { d.edu with staging := d.edu.staging.filter (fun t => t.peer != id) } }
  let d := d.bump FAB_STATS.DEAD 1
  let d := (d.postD e 0x20 31 31 [id % 2 ^ 20, (f.pkts.map (fun s => s.losses)).sum]).openWaiting e
  if d.paired && id == d.buddyId then d.buddyEvent e 5 else d

/-- A peer is known: PEER_JOINED gives its incarnation (R408, R427; log entry 46). -/
def Dev.peerJoin (e : Env) (d : Dev) (id incarnation : Nat) : Dev :=
  let x := d.peer id
  if x.joined && !x.dead then d
  else
    let dead := x.dead
    let d := d.setPeer id { x with dead := false, wasDead := dead, incarnation := incarnation, joined := true, probe := none }
    let d := if dead ∧ x.incarnation ≠ incarnation then d.setRflow id { d.rflow id with epoch := 0 } else d
    let d := d.postD e 0x71 31 31 [id % 2 ^ 20 + b2n dead * 2 ^ 20 + incarnation * 2 ^ 32]
    if dead && d.paired && id == d.buddyId then (if d.mirrorsAll then d.mirrorResend e else d) else d

/-- A PROBE of this device, on a logical port or on the path R399 gives. -/
def Dev.sendProbe (e : Env) (d : Dev) (id : Nat) (port : Option Nat) : Dev :=
  let x := d.peer id
  let d := d.setPeer id { x with probe := some (x.probe.getD e.time), probed := e.time }
  let p := d.packet id tProbe 0 0 0 8 0 (d.incarnationBytes 0)
  match port with
  | some l => d.emit (.klp l { p with tstamp := e.time })
  | none => d.sendPlain e id p

/-- PROBE: answered PROBE_ACK; a dead peer's is answered with a PROBE of this device as well (R408). -/
def Dev.klpProbe (e : Env) (d : Dev) (p : Packet) : Dev :=
  let inc := beOf (p.data.take 4)
  let d := d.sendPlain e p.src (d.packet p.src tProbeAck 0 0 0 8 0 (d.incarnationBytes inc))
  if d.peerDead p.src then d.sendProbe e p.src none
  else d.peerJoin e p.src inc

/-- PROBE. -/
def execProbe (l : Nat) (p : Packet) (s : State) : Host.Outcome State Fault Refusal :=
  s.onDev fun e d =>
    if !d.klpTakes l p tProbe then d
    else if p.length ≠ 8 ∨ p.data.length ≠ 8 then d.malformed
    else d.klpProbe e p

/-- PROBE_ACK: an outstanding PROBE is answered; a dead peer rejoins (R408). -/
def Dev.klpProbeAck (e : Env) (d : Dev) (p : Packet) : Dev :=
  let inc := beOf (p.data.take 4)
  let echo := beOf (p.data.drop 4)
  let x := d.peer p.src
  if x.probe.isNone ∨ echo ≠ d.mgmt.incarnation then (if x.dead then d.sendReset e p.src else d)
  else (d.setPeer p.src { x with probe := none }).peerJoin e p.src inc

/-- PROBE_ACK. -/
def execProbeAck (l : Nat) (p : Packet) (s : State) : Host.Outcome State Fault Refusal :=
  s.onDev fun e d =>
    if !d.klpTakes l p tProbeAck then d
    else if p.length ≠ 8 ∨ p.data.length ≠ 8 then d.malformed
    else d.klpProbeAck e p

/-- FLOW_RESET: a peer held alive is declared dead at once (R408). -/
def execFlowReset (l : Nat) (p : Packet) (s : State) : Host.Outcome State Fault Refusal :=
  s.onDev fun e d =>
    if !d.klpTakes l p tFlowReset then d
    else if p.length ≠ 8 ∨ p.data.length ≠ 8 then d.malformed
    else if d.peerDead p.src then d
    else d.peerDie e p.src

/-! Timers. -/

/-- ACK_TIMER: 1 us after the first packet not yet acknowledged (R401). -/
def execAckTimer (peer : Nat) (s : State) : Host.Outcome State Fault Refusal :=
  s.onDev fun e d =>
    let f := d.rflow peer
    if f.live ∧ f.src = peer ∧ f.newPkts ≠ 0 ∧ f.firstNew + 1000 ≤ e.time then d.sendAck e peer else d

/-- RTO of a packet in ns (R403). -/
def Dev.rto (d : Dev) (f : SendFlow) (s : Sent) : Nat :=
  let least := d.get FAB_CC.RTO_MIN_US * 1000
  if s.busy then least else min 1000000 (max least (2 * f.srtt + 4 * f.rttvar) * 2 ^ s.tries)

/-- RETRANSMIT_TIMEOUT: a packet is sent again, RTO doubled and the window at its least; after a NAK BUSY the window stands (R403,
R405, R409). -/
def execRetransmitTimeout (peer psn : Nat) (s : State) : Host.Outcome State Fault Refusal :=
  s.onDev fun e d =>
    let f := d.flow peer
    match f.pkts.find? (fun x => x.pkt.psn == psn && x.sent && !x.acked) with
    | none => d
    | some x =>
      let port := if x.pkt.type = tMirror then d.pickPairPort peer else d.pickPort peer false
      match port with
      | none => d
      | some l =>
        if !f.live ∨ !d.klpEnabled ∨ e.time < x.last + d.rto f x then d
        else
          let p := { x.pkt with retx := true, tstamp := e.time }
          let y := { x with pkt := p, last := e.time, port := l, tries := if x.busy then x.tries else x.tries + 1, busy := false }
          let f := { f with
            pkts := f.pkts.map (fun z => if z.pkt.psn = psn then y else z), count := f.count + 1,
            cwnd := if x.busy then f.cwnd else 8192 }
          (((d.setFlow peer f).bump FAB_STATS.RETX 1).emit (.klp l p)).fabMoved (d.tagPart p.tenant) (pktSize p)

/-- A local agent waits on a peer: a request awaits its response, or a dispatch expects returns from it (R407). -/
def Dev.waitsOn (d : Dev) (peer : Nat) : Bool :=
  d.ses.remote.any (fun x => x.1 == peer) || (d.flow peer).pkts.any (fun s => s.acked) ||
  d.edu.ctxs.any (fun c => c.2.route.combine && d.ectxState c.1 != 0 && c.2.assigns.any (fun a =>
    (a.2.status == 1 || a.2.status == 2) && !a.2.combined && d.peerOf (entryOf (c.2.experts.look a.2.expert).entry).dest == some peer))

/-- PROBE_TIMER: a PROBE every eighth of the peer timeout while a local agent waits and nothing else is under way (R407). -/
def execProbeTimer (peer : Nat) (s : State) : Host.Outcome State Fault Refusal :=
  s.onDev fun e d =>
    if !d.klpEnabled ∨ d.peerDead peer ∨ !d.waitsOn peer ∨ (d.flow peer).pkts.any (fun s => !s.acked) ∨
        e.time < (d.peer peer).probed + d.peerTimeout / 8 then d
    else d.sendProbe e peer none

/-- Something sent to a peer has stayed unacknowledged for the peer timeout: a packet since its first transmission, a packet that
waits with no slot up, or a PROBE (R407, R409). -/
def Dev.timedOut (e : Env) (d : Dev) (peer : Nat) : Bool :=
  let t := d.peerTimeout
  let stuck := ((d.slotsOf peer).filter d.klpOn).isEmpty
  (d.flow peer).pkts.any (fun s => !s.acked && (s.sent || stuck) && decide (s.first + t ≤ e.time)) ||
  (match (d.peer peer).probe with | some p => decide (p + t ≤ e.time) | none => false)

/-- PEER_DEAD (R407). -/
def execPeerDead (peer : Nat) (s : State) : Host.Outcome State Fault Refusal :=
  s.onDev fun e d => if d.peerDead peer ∨ !d.timedOut e peer then d else d.peerDie e peer

end Sys2Proof.Machine
end

