-- ==== Sys2Proof/Machine/FabLink.lean ====
section
/-! DEFINITION. Logical ports of the fabric (R386-R388, R395-R397, R406, R409, R428), the routing table (R398), frames that are
discarded (R387, R389), time (R426). -/

namespace Sys2Proof.Machine

/-! Links. -/

/-- The breakout of a physical port creates the logical port (R386). -/
def Dev.portExists (d : Dev) (l : Nat) : Bool :=
  match d.get (PHY_CFG.BREAKOUT (l / 4)) with
  | 0 => false
  | 1 => l % 4 == 0
  | 2 => decide (l % 4 < 2)
  | _ => true

/-- Lanes of a logical port, as a mask of its physical port's lanes (R386). -/
def Dev.portLanes (d : Dev) (l : Nat) : Nat :=
  match d.get (PHY_CFG.BREAKOUT (l / 4)) with
  | 1 => 15
  | 2 => 3 * 4 ^ (l % 4)
  | _ => 2 ^ (l % 4)

/-- A PORT_LINK record (R427). -/
def Dev.portEvent (e : Env) (d : Dev) (l up : Nat) : Dev :=
  d.postD e 0x70 31 31 [l + up * 2 ^ 8 + d.get (PHY_CFG.BREAKOUT (l / 4)) * 2 ^ 9]

/-- Every flow sends what it now may. -/
def Dev.transmitAll (e : Env) (d : Dev) : Dev :=
  (d.liveFlows.map (fun x => (x.1, x.2.pkts.length))).foldl (fun d x => d.transmit e x.1 (x.2 + 1)) d

/-- A logical port loses its link and leaves every path choice (R409). -/
def Dev.portDown (e : Env) (d : Dev) (l : Nat) : Dev :=
  if !d.linkUp l then d
  else
    let p := l / 4
    let lock := d.get (PHY_STATUS.LANE_LOCK p)
    ((d.put (LP_STATUS.LINK_UP l) 0).put (PHY_STATUS.LANE_LOCK p) (lock - (lock &&& d.portLanes l))).portEvent e l 0

/-- LINK_DOWN. -/
def execLinkDown (l : Nat) (s : State) : Host.Outcome State Fault Refusal :=
  s.onDev fun e d => if l < 192 then d.portDown e l else d

/-- LINK_UP: an enabled logical port that its breakout creates comes up, and takes new packets at once; a port held by Bassoon stays
down (R386, R409, R468). An LLDP frame is due (R395). -/
def execLinkUp (l : Nat) (s : State) : Host.Outcome State Fault Refusal :=
  s.onDev fun e d =>
    if 192 ≤ l ∨ d.linkUp l ∨ !d.portExists l ∨ d.get (LP_CFG.ENABLE l) = 0 ∨ d.mgmt.portHeld.look l then d
    else
      let p := l / 4
      let d := (d.put (LP_STATUS.LINK_UP l) 1).put (PHY_STATUS.LANE_LOCK p) (d.get (PHY_STATUS.LANE_LOCK p) ||| d.portLanes l)
      let d := { d with fab := { d.fab with lldpAt := d.fab.lldpAt.put l 0, helloAt := d.fab.helloAt.put l 0 } }
      (d.portEvent e l 1).transmitAll e

/-- A write of PHY_CFG: a change of BREAKOUT takes the port down and leaves the new logical ports to train (R388). -/
def Dev.wrPhyCfg (e : Env) (d : Dev) (src : Src) (p v : Nat) : Dev :=
  d.guardOwn e src (PHY_CFG.off p) (d.reg (PHY_CFG.off p) != bits v 0 3) fun d =>
    let d := if d.get (PHY_CFG.BREAKOUT p) = bits v 0 2 then d else (List.range 4).foldl (fun d i => d.portDown e (4 * p + i)) d
    d.setReg (PHY_CFG.off p) (bits v 0 3)

/-- BREAKOUT_CHANGE. -/
def execBreakoutChange (src : Src) (p : Nat) (value : DWord) (s : State) : Host.Outcome State Fault Refusal :=
  s.onDev fun e d => if p < 48 then d.wrPhyCfg e src p value.toNat else d

/-- A write of LP_CFG: a port that is disabled loses its link and an ID conflict is forgotten; a held port may train again (R397,
R468). -/
def Dev.wrLpCfg (e : Env) (d : Dev) (src : Src) (l v : Nat) : Dev :=
  d.guardOwn e src (LP_CFG.off l) (d.reg (LP_CFG.off l) != bits v 0 28) fun d =>
    let d := (d.setReg (LP_CFG.off l) (bits v 0 28))
    let d := { d with mgmt := { d.mgmt with portHeld := d.mgmt.portHeld.put l false } }
    if bit v 0 then d else (d.put (LP_STATUS.ID_CONFLICT l) 0).portDown e l

/-- A write of FAB_ID: only while FAB_CTL.ENABLE is 0; ID conflicts are forgotten (R391, R397). -/
def Dev.wrFabId (e : Env) (d : Dev) (src : Src) (v : Nat) : Dev :=
  d.guardOwn e src FAB_ID.off (d.fabId != bits v 0 20) fun d =>
    if d.get FAB_CTL.ENABLE = 1 then d
    else (List.range 192).foldl (fun d l => d.put (LP_STATUS.ID_CONFLICT l) 0) (d.put FAB_ID.ID (bits v 0 20))

/-- A write of FAB_CTL: packets that waited for ENABLE go out. -/
def Dev.wrFabCtl (e : Env) (d : Dev) (src : Src) (v : Nat) : Dev :=
  d.guardOwn e src FAB_CTL.off (d.reg FAB_CTL.off != bits v 0 25) fun d => (d.setReg FAB_CTL.off (bits v 0 25)).transmitAll e

/-! Discovery (R395-R397). -/

/-- HELLO: the link partner is a Derell; one that claims this device's own ID under another serial number disables KLP here. A dead
peer's HELLO is answered with a PROBE (R396, R397, R408). -/
def execHello (l : Nat) (m : HelloMsg) (s : State) : Host.Outcome State Fault Refusal :=
  s.onDev fun e d =>
    if 192 ≤ l ∨ !d.linkUp l ∨ d.get (LP_CFG.ENABLE l) = 0 then d
    else
      let d := (d.put (LP_STATUS.NBR_KIND l) 1).put (LP_STATUS.NBR_ID l) m.id
      let d := if d.get (LP_CFG.DIRECT l) = 1 then d.put (LP_NEXTHOP.MAC l) m.mac else d
      if m.id = d.fabId ∧ m.id ≠ 0 then
        if m.serial = e.chip.serial ∨ d.get (LP_STATUS.ID_CONFLICT l) = 1 then d
        else (d.put (LP_STATUS.ID_CONFLICT l) 1).postD e 0x72 31 31 [l + m.id * 2 ^ 8]
      else
        let d := if d.paired && m.id == d.buddyId && d.mgmt.cfg.buddyPorts.contains l then d.setBuddy { d.fab.buddy with peerSerial := m.serial } else d
        if m.id = 0 ∨ !d.klpEnabled ∨ !d.klpOn l then d
        else if d.peerDead m.id then d.sendProbe e m.id (some l)
        else d.peerJoin e m.id m.incarnation

/-- LLDP_RECEIVE: the neighbour registers (R395, R428). -/
def execLldpReceive (l : Nat) (m : LldpMsg) (s : State) : Host.Outcome State Fault Refusal :=
  s.onDev fun _ d =>
    if 192 ≤ l ∨ !d.linkUp l ∨ d.get (LP_CFG.ENABLE l) = 0 then d
    else
      let d := match m.fabricId with
        | some id => (d.put (LP_STATUS.NBR_KIND l) 1).put (LP_STATUS.NBR_ID l) id
        | none => if d.get (LP_STATUS.NBR_KIND l) = 1 then d else d.put (LP_STATUS.NBR_KIND l) 2
      let d := (d.put (LP_NEIGHBOUR.CHASSIS l 0) (leOf (m.chassis.take 8))).put (LP_NEIGHBOUR.PORT l 1) (leOf (m.portId.take 8))
      let d := (d.put (LP_NEIGHBOUR.CHASSIS_LEN l 2) m.chassis.length).put (LP_NEIGHBOUR.CHASSIS_SUBTYPE l 2) m.chassisSubtype
      (d.put (LP_NEIGHBOUR.PORT_LEN l 2) m.portId.length).put (LP_NEIGHBOUR.PORT_SUBTYPE l 2) m.portSubtype

/-- A periodic frame is due: none sent since link-up, or the period has passed. -/
def frameDue (at' period now : Nat) : Bool := at' == 0 || decide (at' - 1 + period ≤ now)

/-- LLDP_TRANSMIT: every 30 s and on link-up (R395). -/
def execLldpTransmit (l : Nat) (s : State) : Host.Outcome State Fault Refusal :=
  s.onDev fun e d =>
    if 192 ≤ l ∨ !d.linkUp l ∨ d.get (LP_CFG.ENABLE l) = 0 ∨ !frameDue (d.fab.lldpAt.look l) 30000000000 e.time then d
    else { d with fab := { d.fab with lldpAt := d.fab.lldpAt.put l (e.time + 1) } }.emit (.lldp l)

/-- HELLO_TRANSMIT: every 100 us (R396). -/
def execHelloTransmit (l : Nat) (s : State) : Host.Outcome State Fault Refusal :=
  s.onDev fun e d =>
    if 192 ≤ l ∨ !d.linkUp l ∨ d.get (LP_CFG.ENABLE l) = 0 ∨ !frameDue (d.fab.helloAt.look l) 100000 e.time then d
    else
      let m : HelloMsg := { id := d.fabId, serial := e.chip.serial, incarnation := d.mgmt.incarnation, lport := l, mac := d.get (LP_MAC.MAC l) }
      { d with fab := { d.fab with helloAt := d.fab.helloAt.put l (e.time + 1) } }.emit (.hello l m)

/-! Flow control and discards. -/

/-- PFC_FRAME: with PFC_EN set, priorities are paused or resumed; the time paused is counted in us (R406). -/
def execPfcFrame (l : Nat) (prios : BitVec 8) (pause : Bool) (s : State) : Host.Outcome State Fault Refusal :=
  s.onDev fun e d =>
    if 192 ≤ l ∨ !d.linkUp l ∨ d.get (LP_CFG.PFC_EN l) = 0 then d
    else
      let old := d.fab.paused.look l
      let new := if pause then old ||| prios else old &&& ~~~prios
      let d := { d with fab := { d.fab with paused := d.fab.paused.put l new } }
      if old = 0 ∧ new ≠ 0 then { d with fab := { d.fab with pausedAt := d.fab.pausedAt.put l e.time } }
      else
        let d := if old ≠ 0 ∧ new = 0 then d.bump (LP_ERRS.PAUSED l) ((e.time - d.fab.pausedAt.look l) / 1000) else d
        if pause then d else d.transmitAll e

/-- Uncorrectable codewords of a port in the last second (R468). -/
def Dev.fecSecond (e : Env) (d : Dev) (l : Nat) : List Nat := (d.mgmt.fecAt.look l).filter (fun t => decide (e.time < t + 1000000000))

/-- MALFORMED_PACKET: a frame or datagram is discarded and counted (R387, R389-R391). -/
def execMalformedPacket (l : Nat) (cause : BadFrame) (s : State) : Host.Outcome State Fault Refusal :=
  s.onDev fun e d =>
    if 192 ≤ l ∨ !d.linkUp l then d
    else
      match cause with
      | .malformed => d.malformed
      | .fcs => d.bump (LP_ERRS.FCS l) 1
      | .fecErrored =>
        let d := (d.bump (LP_FEC.UNCORRECTABLE l) 1).bump (LP_ERRS.FCS l) 1
        { d with mgmt := { d.mgmt with fecAt := d.mgmt.fecAt.put l (d.fecSecond e l ++ [e.time]) } }

/-! The routing table (R398). -/

/-- A write of FAB_RT_CMD: the entry goes into DATA, or DATA into the entry. -/
def Dev.wrRtCmd (e : Env) (d : Dev) (src : Src) (v : Nat) : Dev :=
  d.guardOwn e src FAB_RT_CMD.off true fun d =>
    let d := d.note FAB_RT_CMD.off (bits v 0 17)
    let i := bits v 0 16
    if bit v 16 then
      let w : DWord × DWord := (BitVec.ofNat 64 (bits (d.get (FAB_RT_DATA.DATA 0)) 0 22), BitVec.ofNat 64 (d.get (FAB_RT_DATA.DATA 1)))
      let d := { d with fab := { d.fab with route := Sparse.set (fun _ => (0, 0)) d.fab.route i w } }
      d.transmitAll e
    else
      let w := d.routeOf i
      (d.put (FAB_RT_DATA.DATA 0) w.1.toNat).put (FAB_RT_DATA.DATA 1) w.2.toNat

/-- ROUTE_ENTRY_READ. -/
def execRouteEntryRead (src : Src) (value : DWord) (s : State) : Host.Outcome State Fault Refusal :=
  s.onDev fun e d => if bit value.toNat 16 then d else d.wrRtCmd e src value.toNat

/-- ROUTE_ENTRY_WRITE. -/
def execRouteEntryWrite (src : Src) (value : DWord) (s : State) : Host.Outcome State Fault Refusal :=
  s.onDev fun e d => if bit value.toNat 16 then d.wrRtCmd e src value.toNat else d

/-! Time (R426). -/

/-- The port that carries PTP: the first up one of the list, from the index in FAB_PTP.PORTS. -/
def Dev.ptpActive (d : Dev) : Option Nat :=
  let l := d.mgmt.cfg.ptpPorts
  let i := d.get FAB_PTP.PORTS
  (l.drop i ++ l.take i).find? d.linkUp

/-- What a message does: the device after it, and the forward step of the counter at lock. `offset`: the counter less the
grandmaster's time, in ns. -/
def Dev.ptpTake (d : Dev) (l : Nat) (offset : Int) : Dev × Nat :=
  let f := d.fab
  if f.ptpState = 0 ∨ f.ptpPort ≠ some l then
    ({ d with fab := { f with ptpState := 1, ptpPort := some l, ptpOffset := offset, ptpSlew := 0 } }, 0)
  else if f.ptpState = 1 ∧ offset < -1000000 then
    ({ d with fab := { f with ptpState := 2, ptpOffset := 0, ptpSlew := 0 } }, offset.natAbs)
  else ({ d with fab := { f with ptpState := 2, ptpOffset := offset, ptpSlew := -offset } }, 0)

/-- PTP_MESSAGE: a message on the active port; the counter is slewed by the ticks that follow, or steps forward once at lock. -/
def execPtpMessage (l : Nat) (offset : Int) (s : State) : Host.Outcome State Fault Refusal :=
  if s.dev.ptpActive = some l then
    let r := s.dev.ptpTake l offset
    .next { s with dev := r.1, time := s.time + BitVec.ofNat 64 r.2 }
  else .next s

/-- The length of a tick of 10 ns under slewing: at most 1 ns in 10,000 longer or shorter (100 ppm; R17, R426). -/
def Dev.slewTick (e : Env) (d : Dev) : Dev × Nat :=
  let f := d.fab
  if f.ptpSlew = 0 ∨ e.time < f.ptpLast + 10000 then (d, 10)
  else if 0 < f.ptpSlew then ({ d with fab := { f with ptpSlew := f.ptpSlew - 1, ptpLast := e.time } }, 11)
  else ({ d with fab := { f with ptpSlew := f.ptpSlew + 1, ptpLast := e.time } }, 9)

/-- PTP_STATE_TIMER: the state, every second. -/
def execPtpStateTimer (s : State) : Host.Outcome State Fault Refusal :=
  s.onDev fun e d =>
    if e.time < d.fab.ptpStateAt + 1000000000 then d
    else
      let state := if d.ptpActive.isNone then 0 else d.fab.ptpState
      let d := { d with fab := { d.fab with ptpState := state, ptpStateAt := e.time } }
      d.postT e 0x76 31 31 [ofSigned 64 d.fab.ptpOffset, state]

end Sys2Proof.Machine
end

