-- ==== Sys2Proof/Machine/Partition.lean ====
section
/-! DEFINITION. Partitions (R442-R448), share handovers (R447), common regions (R449, R450), the handovers of bank sets that follow
on them (R205-R208), discarded stores (R280, R281). -/

namespace Sys2Proof.Machine

/-! Discarded stores (R280, R281). -/

/-- A flow without some packets it has not sent; those behind move up. -/
def SendFlow.dropUnsent (f : SendFlow) (p : Sent → Bool) : SendFlow :=
  let sent := f.pkts.filter (fun s => s.sent)
  let wait := f.pkts.filter (fun s => !s.sent)
  let first := match wait with | s :: _ => s.pkt.psn | [] => f.nextPsn
  let kept := ((wait.filter (fun s => !p s)).zipIdx).map (fun x => { x.1 with pkt := { x.1.pkt with psn := (first + x.2) % 2 ^ 32 } })
  { f with pkts := sent ++ kept, nextPsn := (first + kept.length) % 2 ^ 32 }

/-- A packet that writes at a peer, or does so without an answer: what a group stored, an engine, mover or command wrote. -/
def Sent.isWrite (s : Sent) : Bool :=
  match s.owner with
  | .store _ | .dma _ _ _ | .row _ _ | .eduWrite _ _ | .ret _ | .cmd _ => true
  | _ => false

/-- A store or atomic of a core that waits for its slice. -/
def L2Req.isStore (r : L2Req) : Bool :=
  match r.src, r.op with
  | .core _, .write _ | .core _, .atom _ => true
  | _, _ => false

/-- Undrained stores and writes are discarded: those waiting for a slice, a landing zone, a host window's port or the fabric, and Sesame
operations no group waits for. The device after it and how many went. -/
def Dev.discardStores (d : Dev) (l2 : L2Req → Bool) (lz : LzEntry → Bool) (host : HostStore → Bool) (fab : Sent → Bool) (ses : SesOp → Bool) :
    Dev × Nat :=
  let a := d.mem.l2q.filter (fun r => r.isStore && l2 r)
  let b := (d.mem.lz ++ d.mem.port).filter lz
  let h := d.mem.hostq.filter host
  let isStore := fun (s : Sent) => !s.sent && s.isWrite && fab s
  let n := ((d.fab.send.flatMap (fun x => x.2.pkts.filter isStore)).map (fun s => match s.owner with | .store gs => gs.length | _ => 1)).sum
  let mine := fun (o : SesOp) => !o.kind.holds && o.kind != .load && ses o
  let c := d.ses.queue.filter mine
  let m : MemSys :=
    { d.mem with
      l2q := d.mem.l2q.filter (fun r => !(r.isStore && l2 r)), lz := d.mem.lz.filter (fun z => !lz z), port := d.mem.port.filter (fun z => !lz z),
      hostq := d.mem.hostq.filter (fun w => !host w) }
  let send := d.fab.send.map (fun (x : Nat × SendFlow) => (x.1, if x.2.pkts.any isStore then x.2.dropUnsent isStore else x.2))
  ({ d with
      mem := m, fab := { d.fab with send := send }, ses := { d.ses with queue := d.ses.queue.filter (fun o => !mine o) } },
   a.length + b.length + h.length + n + c.length)

/-- The partition that an agent of a Sesame operation acts for, 31 where none (R281). -/
def Dev.sesPart (d : Dev) (o : SesOp) : Nat :=
  match o.src with
  | .group _ l _ => (d.core.launches.find? (fun x => x.id == l)).elim 31 (fun x => if x.kernel then 31 else x.part)
  | _ => o.part

/-- A piece of the movers' work that writes for a partition. -/
def EduJob.writesFor (p : Nat) : EduJob → Bool
  | .write _ kernel part _ _ => !kernel && part == p
  | .row _ _ => false

/-- Undrained stores of a partition's agents, found by the tag that every queue entry, slot and buffer carries (R281): of its groups, and
of its descriptors, dispatch contexts, their movers and commands. DEDUCED: a dispatch context waits no more for what was discarded (log
entry 106). -/
def Dev.discardPart (e : Env) (d : Dev) (p : Nat) : Dev × Nat :=
  let rets := (d.outstanding.filter (fun x => !x.2.sent && x.2.part == p)).filterMap (fun x => match x.2.owner with | .ret id => some id | _ => none)
  let r := d.discardStores (fun r => r.part == p) (fun z => z.part == p) (fun w => w.part == p) (fun s => s.part == p) (fun o => d.sesPart o == p)
  let jobs := ([0, 1].map (fun u => ((r.1.edu.jobs.look u).filter (fun j => j.writesFor p)).length)).sum
  let d := [0, 1].foldl (fun d u => d.setJobs u ((d.edu.jobs.look u).filter (fun j => !j.writesFor p))) r.1
  let d := rets.foldl (fun d id => d.retAcked e id 4) d
  let d := (List.range 64).foldl (fun d c =>
    let x := d.ectx c
    if d.ectxState c = 0 ∨ x.part ≠ p then d
    else d.setEctx c { x with assigns := x.assigns.map (fun a =>
      (a.1, if (a.2.status == 1 || a.2.status == 2) && !d.eduPending (.row c a.1) then { a.2 with acked := true } else a.2)) }) d
  (d, r.2 + jobs)

/-! The partition registers. -/

/-- Shares that a partition holds, in its PART_CFG. -/
def Dev.countShares (d : Dev) : Dev :=
  (List.range 16).foldl (fun d p =>
    d.put (PART_CFG.SHARES p) ((List.range 128).filter (fun i => d.get (SHARE_OWN.OWNER i) == p)).length) d

/-- The end of an operation of PART_CTL that started. -/
def Dev.partDone (e : Env) (d : Dev) (start result : Nat) : Dev :=
  let d := (d.put PART_STATUS.STATE 0).put PART_STATUS.RESULT result
  (d.put PART_STATUS.ELAPSED_US (min (2 ^ 32 - 1) (ceilDiv (e.time - start) 1000))).incr PART_STATUS.SEQ

/-- A write of PART_CTL that starts nothing. -/
def Dev.partRefuse (d : Dev) (result : Nat) : Dev := (d.put PART_STATUS.RESULT result).incr PART_STATUS.SEQ

/-- The ledger's PARTITION record: operation (1 ASSIGN, 2 teardown start, 3 teardown end), partition, sections, shares (R480). -/
def Dev.partLedger (e : Env) (d : Dev) (op p : Nat) : Dev :=
  d.ledger e 0x07 12 [op, p, d.get (PART_CFG.SECTIONS p), d.get (PART_CFG.SHARES p)]

/-! ASSIGN (R445). -/

/-- The cores of a section. -/
def sectCores (s : Nat) : List Nat := (List.range 8).map (fun i => 8 * s + i)

/-- A section belongs to no partition and every bank set of its cores is UNOWNED. -/
def Dev.sectFree (d : Dev) (s : Nat) : Bool :=
  d.sectOwner s == 31 && (sectCores s).all (fun c => (List.range 16).all (fun k => d.get (SP_OWN.OWNER c k) == 31))

/-- An ASSIGN ends: the partition holds the sections that were handed over. -/
def Dev.assignEnd (e : Env) (d : Dev) (a : Assigning) (sections result : Nat) : Dev :=
  let held := d.get (PART_CFG.SECTIONS a.part) ||| sections
  let d := { d with part := { d.part with assign := none } }
  let d := d.put (PART_CFG.SECTIONS a.part) held
  let d := d.put (PART_CFG.STATE a.part) (if held = 0 then 0 else 1)
  ((d.partLedger e 1 a.part).report e (.assign a.part sections)).partDone e a.start result

/-- The next section of an ASSIGN is handed over; after the last the partition holds them. -/
def Dev.partKick (e : Env) (d : Dev) : Dev :=
  match d.part.assign, d.mem.hand with
  | some a, none =>
    match a.left with
    | s :: rest =>
      let d := { d with part := { d.part with assign := some { a with left := rest } } }
      d.handStart { sect := s, cores := 255, sets := 65535, owner := a.part, limit := 1000, start := e.time, zeroing := false, by_ := 2 }
    | [] => d.assignEnd e a a.sections 0
  | _, _ => d

/-- ASSIGN of sections to a partition. -/
def Dev.partAssign (e : Env) (d : Dev) (p sections : Nat) : Dev :=
  if d.get (PART_CFG.STATE p) = 2 then d.partRefuse 6
  else if !(maskList 16 sections).all d.sectFree then d.partRefuse 1
  else
    let d := { d with part := { d.part with assign := some { part := p, sections := sections, left := maskList 16 sections, start := e.time } } }
    (d.put PART_STATUS.STATE 1).partKick e

/-! TEARDOWN (R446, R448). -/

/-- Replaces the teardown in progress. -/
def Dev.setTd (d : Dev) (t : Option Teardown) : Dev := { d with part := { d.part with teardown := t } }

/-- Bank sets of a core that a partition owns. -/
def Dev.setsHeld (d : Dev) (c p : Nat) : List Nat := (List.range 16).filter (fun k => d.get (SP_OWN.OWNER c k) == p)

/-- The first section from s on with a bank set of the partition. -/
def Dev.nextHeldSect (d : Dev) (p s : Nat) : Option Nat :=
  (List.range 16).find? (fun x => decide (s ≤ x) && (sectCores x).any (fun c => !(d.setsHeld c p).isEmpty))

/-- The first share from i on of the partition. -/
def Dev.nextHeldShare (d : Dev) (p i : Nat) : Option Nat :=
  (List.range 128).find? (fun x => decide (i ≤ x) && d.get (SHARE_OWN.OWNER x) == p)

/-- PENDING of the partition's sets in a section. -/
def Dev.pendSect (d : Dev) (p s v : Nat) : Dev :=
  (sectCores s).foldl (fun d c => (d.setsHeld c p).foldl (fun d k => d.put (SP_OWN.PENDING c k) v) d) d

/-- A handover of step 4 begins, once no other is in progress (R204, R205). -/
def Dev.tdHand (d : Dev) (p s : Nat) : Dev := if d.mem.hand.isSome then d else (d.put SP_HANDOVER_STATUS.STATE 1).pendSect p s 1

/-- Step 1, and what step 2 stops (R446): queues disabled with their kernels, descriptors and waits, tenant entries, dispatch
contexts, collective contexts. -/
def Dev.tdBegin (e : Env) (d : Dev) (p : Nat) : Dev :=
  let d := d.put (PART_CFG.STATE p) 2
  let d := (d.partLedger e 2 p).report e (.teardownStart p)
  let d := (List.range 64).foldl (fun d i => if d.get (FAB_TENANT.PART i) = p then d.setReg (FAB_TENANT.off i) 0x1F0000 else d) d
  let d := (List.range 4096).foldl (fun d q => if d.qPart q = p then (d.killQueue e q).1 else d) d
  let d := d.eduTeardown p
  (List.range 256).foldl (fun d c => if (d.coll c).armed ∧ (d.coll c).record'.part = p then d.collDisarm e c else d) d

/-- Step 2 has ended: no kernel, context or collective context of the partition is left. -/
def Dev.tdStopped (d : Dev) (p : Nat) : Bool :=
  !d.core.launches.any (fun l => l.live && l.part == p) && !(List.range 64).any (fun c => d.ectxState c != 0 && (d.ectx c).part == p) &&
  !(List.range 256).any (fun c => (d.coll c).armed && (d.coll c).record'.part == p) &&
  !d.dma.engines.any (fun x => x.2.queue.any (fun q => q.part == p && !q.kernel))

/-- ASIDs bound to a partition. -/
def Dev.asidsOf (d : Dev) (p : Nat) : List Nat :=
  (d.rt.bound.map (fun x => x.1)).filter (fun a => d.asidBound a && d.asidPart a == p)

/-- Step 3: undrained stores discarded, ASIDs invalidated and unbound. -/
def Dev.tdUnbind (e : Env) (d : Dev) (p : Nat) : Dev :=
  let d := (d.discardPart e p).1
  (d.asidsOf p).foldl (fun d a => (d.setReg (RT_ASID.off a) (regReset (RT_ASID.off a)).toNat).invalPush 32 a (some (regReset (RT_ASID.off a)))) d

/-- A section's bank sets of the partition go to UNOWNED, zeroed (step 4). -/
def Dev.tdSect (e : Env) (d : Dev) (p s : Nat) : Dev :=
  let held := (sectCores s).map (fun c => (c, d.setsHeld c p))
  let n := (held.map (fun x => x.2.length)).sum
  let d := held.foldl (fun d x => x.2.foldl (fun d k => d.setOwner x.1 k 31) (d.zeroSets [x.1] x.2)) d
  d.report e (.handover 0 p 31 n)

/-- Every core of the partition's sections loses its registers, L1, Husk, function tables, array state and the partition's trace packets
(step 5; R522). What its landing zone held for the partition went in step 3. Groups that still run there belong to kernel queues and
stand. -/
def Dev.tdCores (d : Dev) (p : Nat) : Dev :=
  let cores := ((maskList 16 (d.get (PART_CFG.SECTIONS p))).flatMap sectCores)
  cores.foldl (fun d c =>
    let cs := d.core
    let busy := cs.groups.any (fun x => decide (c * 64 ≤ x.1) && decide (x.1 < c * 64 + 64) && x.2.live)
    let d := { d with core := { cs with
      groups := cs.groups.filter (fun x => !(decide (c * 64 ≤ x.1) && decide (x.1 < c * 64 + 64)) || x.2.live)
      ftab := Sparse.clearRange cs.ftab (c * 4) (c * 4 + 4)
      icache := if busy then cs.icache else Sparse.clearRange cs.icache (c * 2 ^ 64) ((c + 1) * 2 ^ 64) } }
    ((d.traceDiscard c (fun t => t.part == p)).invalidateL1 c).arrayClear c) d

/-- Bytes that the blocks below a number put on the channel of a place of MAP (R242). -/
def blocksBelow (cu n k : Nat) : Nat := n / cu + (if (k + cu - n / cu % cu) % cu < n % cu then 1 else 0)

/-- A share is zeroed through its homes, in the bulk class (R447); writes to a channel that is down are discarded and counted (R254). -/
def Dev.zeroShare (d : Dev) (i : Nat) : Dev :=
  let cu := d.cu
  let lo := i * (shareBytes / 256)
  let hi := (i + 1) * (shareBytes / 256)
  let d := (List.range cu).foldl (fun d k =>
    let g := d.mem.chanMap.getD k 0
    let n := blocksBelow cu hi k - blocksBelow cu lo k
    if d.chanDown g then d.bump (HBM_CH_DROPPED.WRITES g) (8 * n) else d.countBytes g 2 (256 * n)) d
  (d.zeroHbm (i * shareBytes) ((i + 1) * shareBytes)).sectors 31 (shareBytes / 32)

/-- A running descriptor still reads or writes bytes of a share. -/
def Dev.dmaInShare (d : Dev) (i : Nat) : Bool :=
  d.dma.engines.any (fun x => x.2.started && (match x.2.queue with
    | [] => false
    | q :: _ =>
      let z := descOf x.2.desc
      let here := fun (s : Side) => match s with | .at' (.hbm a) => shareOf a == i | _ => false
      (z.movesFrom x.2.pos).any (fun m =>
        (z.op == 1 && here (d.side x.1 q z.srcV z.asid m.src m.n kRead)) || here (d.side x.1 q z.dstV z.asid m.dst m.n kWrite))))

/-- Work accepted to a share has not finished: requests that wait for their slice, descriptors, dispatch moves (R205 step 2, R447).
DEDUCED: a share in a handover is not refused to new accesses, since R447 takes over step 2 of R205 alone (log entry 108). -/
def Dev.shareBusy (d : Dev) (i : Nat) : Bool :=
  d.mem.l2q.any (fun r => shareOf (r.sector * 32) == i) || d.dmaInShare i ||
  (d.edu.jobs.look 0 ++ d.edu.jobs.look 1).any (fun j => (d.jobSpans j).any (fun p =>
    match d.place p.1 with
    | .hbm a => decide (shareOf a ≤ i) && decide (i ≤ shareOf (a + p.2 - 1))
    | _ => false))

/-- A share of the partition is zeroed and set UNOWNED (step 7). -/
def Dev.tdShare (e : Env) (d : Dev) (p i : Nat) : Dev :=
  let d := d.zeroShare i
  let d := ((d.put (SHARE_OWN.OWNER i) 31).put (SHARE_OWN.CLEAN i) 1).put (SHARE_OWN.PENDING i) 0
  d.countShares.report e (.handover 2 p 31 1)

/-- A collective record that names the partition names none (step 8). -/
def Dev.tdColl (d : Dev) (p c : Nat) : Dev :=
  let x := d.coll c
  if x.record.isEmpty ∨ x.record'.part ≠ p then d
  else
    let fix := fun (bs : List Byte) => leBytes 8 (setBits (leOf (bs.take 8)) 9 5 31) ++ bs.drop 8
    let a := d.get FAB_COLL_BASE.BASE * 4096 + 64 * c
    let d := d.setColl c { x with record := fix x.record }
    match d.homeBytes a 64 with
    | some (bs, bad) => if (collOf bs).part = p then d.writeHome a 31 (fix bs) bad else d
    | none => d

/-- Steps 8 and 9: nothing names the partition any more, and it is FREE. -/
def Dev.tdEnd (e : Env) (d : Dev) (t : Teardown) : Dev :=
  let p := t.part
  let d := (List.range 32).foldl (fun d f => if d.get (HOST_FUNC.PART f) = p then d.put (HOST_FUNC.PART f) 31 else d) d
  let d := (List.range 4096).foldl (fun d q => if d.qPart q = p then d.put (QUEUE_CFG.PART q) 31 else d) d
  let d := (List.range 64).foldl (fun d c => if d.get (CTX_OWNER.PART c) = p then d.put (CTX_OWNER.PART c) 31 else d) d
  let d := (List.range 1024).foldl (fun d g => if d.get (GRAPH_OWNER.PART g) = p then (d.withdraw g).put (GRAPH_OWNER.PART g) 31 else d) d
  let d := (List.range 256).foldl (fun d c => d.tdColl p c) d
  let d := (d.put (FAB_PART_TAG.TAG p) 0).put (L2_PART_WAYS.WAYS p) 0xFFFF
  let d := (List.range 16).foldl (fun d r => d.put (CR_READERS.MASK r) (setBits (d.get (CR_READERS.MASK r)) p 1 0)) d
  let d := (d.partLedger e 3 p).setReg (PART_CFG.off p) 0
  ((d.setTd none).report e (.teardownEnd p)).partDone e t.start 0

/-- From a section on: the next section of step 4 starts to drain, or steps 5 and 6 run and step 7 starts with the shares from i on;
with no share left the teardown ends. -/
def Dev.tdShares (e : Env) (d : Dev) (t : Teardown) (i : Nat) : Dev :=
  match d.nextHeldShare t.part i with
  | some j => (d.setTd (some { t with step := 7, position := j, since := e.time })).put (SHARE_OWN.PENDING j) 1
  | none => d.tdEnd e t

/-- Step 4 from a section on. -/
def Dev.tdSects (e : Env) (d : Dev) (t : Teardown) (s : Nat) : Dev :=
  match d.nextHeldSect t.part s with
  | some x => (d.setTd (some { t with step := 4, position := x, since := e.time })).tdHand t.part x
  | none => d.setTd (some { t with step := 5, position := 0 })

/-- Sets owned by MARCH whose prior owner is the partition are left to their run, and marked (R446). -/
def Dev.markTorn (d : Dev) (p : Nat) : Dev :=
  let keys := (List.range 128).flatMap (fun c =>
    ((List.range 16).filter (fun k => d.get (SP_OWN.OWNER c k) == 17 && d.get (SP_OWN.PRIOR c k) == p)).map (fun k => c * 16 + k))
  { d with part := { d.part with torn := keys.foldl (fun t k => Sparse.put t k true) d.part.torn } }

/-- TEARDOWN of a partition: from the start, or from the step at which it stopped. -/
def Dev.partTeardown (e : Env) (d : Dev) (p limit : Nat) : Dev :=
  if (List.range 16).any (fun r => d.get (CR_CFG.VALID r) == 1 && d.get (CR_CFG.OWNER r) == p) then d.partRefuse 4
  else
    let d := d.put PART_STATUS.STATE 1
    let at' := d.part.stoppedAt.look p
    let t : Teardown := { part := p, step := 2, limit := if limit = 0 then 1000 else limit, start := e.time, position := 0, since := e.time }
    let d := { d with part := { d.part with stoppedAt := d.part.stoppedAt.put p 0 } }
    if at' / 1024 = 4 then d.tdSects e t (at' % 1024)
    else if at' / 1024 = 7 then d.tdShares e t (at' % 1024)
    else ((d.tdBegin e p).markTorn p).setTd (some t)

/-- A write of PART_CTL (R445). -/
def Dev.wrPartCtl (e : Env) (d : Dev) (src : Src) (v : Nat) : Dev :=
  let go := fun (d : Dev) =>
    let op := bits v 0 2
    let p := bits v 2 4
    if d.get PART_STATUS.STATE = 1 then d.partRefuse 2
    else if op = 1 then d.partAssign e p (bits v 6 16)
    else if op = 2 then d.partTeardown e p (bits v 22 16)
    else d.partRefuse 1
  match src with
  | .queue q => if d.qKernel q then go (d.note PART_CTL.off v) else d.partRefuse 3
  | _ => d.guardOwn e src PART_CTL.off true fun d => go (d.note PART_CTL.off v)

/-- ASSIGN: a write of PART_CTL that names it, or an invalid OP. -/
def execAssign (src : Src) (value : DWord) (s : State) : Host.Outcome State Fault Refusal :=
  s.onDev fun e d => if bits value.toNat 0 2 = 2 then d else d.wrPartCtl e src value.toNat

/-- TEARDOWN. -/
def execTeardown (src : Src) (value : DWord) (s : State) : Host.Outcome State Fault Refusal :=
  s.onDev fun e d => if bits value.toNat 0 2 = 2 then d.wrPartCtl e src value.toNat else d

/-- What a teardown in progress does when its step's drain or zeroing has ended (R446). -/
def Dev.tdStep (e : Env) (d : Dev) (t : Teardown) : Dev :=
  let p := t.part
  match t.step with
  | 2 => if d.tdStopped p then (d.tdUnbind e p).setTd (some { t with step := 3 }) else d
  | 3 => if (d.asidsOf p).isEmpty then d.tdSects e t 0 else d
  | 4 =>
    let s := t.position
    if d.mem.hand.isSome then d
    else if d.get SP_HANDOVER_STATUS.STATE = 0 then (d.setTd (some { t with since := e.time })).tdHand p s
    else if (sectCores s).any (fun c => d.setBusy c (d.setsHeld c p)) then d
    else ((d.tdSect e p s).handStatus e t.since 0 true).tdSects e t (s + 1)
  | 5 => (d.tdCores p).setTd (some { t with step := 6 })
  | 6 =>
    let d := (List.range 64).foldl (fun d j => if d.get (SYNC_OWN.OWNER j) = p then d.syncGive e j 31 else d) d
    d.tdShares e t 0
  | 7 => if d.shareBusy t.position then d else (d.tdShare e p t.position).tdShares e t (t.position + 1)
  | _ => d

/-- TEARDOWN_STEP_COMPLETE. -/
def execTeardownStepComplete (s : State) : Host.Outcome State Fault Refusal :=
  s.onDev fun e d => match d.part.teardown with | some t => d.tdStep e t | none => d

/-- TEARDOWN_TIMEOUT: a handover of step 4 or 7 has not drained in time, and the teardown stops there (R448). -/
def execTeardownTimeout (s : State) : Host.Outcome State Fault Refusal :=
  s.onDev fun e d =>
    match d.part.teardown with
    | none => d
    | some t =>
      if (t.step ≠ 4 ∧ t.step ≠ 7) ∨ (t.step = 4 ∧ d.mem.hand.isSome) ∨ e.time < t.since + 1000 * t.limit then d
      else
        let d := if t.step = 4 then (d.pendSect t.part t.position 0).handStatus e t.since 1 false else d.put (SHARE_OWN.PENDING t.position) 0
        let d := { d with part := { d.part with stoppedAt := d.part.stoppedAt.put t.part (t.step * 1024 + t.position) } }
        (d.setTd none).partDone e t.start 5

/-! Handovers of bank sets (R205-R208). -/

/-- SP_HANDOVER_DRAINED: the work of the named sets has finished; zeroing follows where R206 requires it, else the owner changes. -/
def execSpHandoverDrained (s : State) : Host.Outcome State Fault Refusal :=
  s.onDev fun e d =>
    match d.mem.hand with
    | none => d
    | some h =>
      if h.zeroing || d.handPaused h || h.coreList.any (fun c => d.setBusy c h.setList) then d
      else if (d.handZeroes h).isEmpty then (d.handFinish e h).partKick e
      else
        let d := { d with mem := { d.mem with hand := some { h with zeroing := true } } }
        d.put SP_HANDOVER_STATUS.STATE 2

/-- SP_HANDOVER_COMPLETE: zeroing ends, the owner changes and PENDING clears. -/
def execSpHandoverComplete (s : State) : Host.Outcome State Fault Refusal :=
  s.onDev fun e d =>
    match d.mem.hand with
    | none => d
    | some h => if h.zeroing && !d.handPaused h then (d.handFinish e h).partKick e else d

/-- SP_HANDOVER_TIMEOUT: the drain limit expires and the handover is abandoned (R208). DESIGN CHOICE: one of an ASSIGN has the limit of
1,000 us, and ends it with RESULT 5, the partition holding the sections handed over before (log entry 100). -/
def execSpHandoverTimeout (s : State) : Host.Outcome State Fault Refusal :=
  s.onDev fun e d =>
    match d.mem.hand with
    | none => d
    | some h =>
      if h.zeroing || decide (e.time < h.start + 1000 * h.limit) then d
      else
        let d := (d.setPending h 0).handDone e h 1 false
        match h.by_, d.part.assign with
        | 2, some a => d.assignEnd e a (maskOf ((maskList 16 a.sections).filter (fun s => s != h.sect && !a.left.contains s))) 5
        | _, _ => d.partKick e

/-! Shares (R447). -/

/-- A write of SHARE_HANDOVER that starts nothing. -/
def Dev.shareRefuse (d : Dev) (result : Nat) : Dev := (d.put SHARE_HANDOVER_STATUS.RESULT result).incr SHARE_HANDOVER_STATUS.SEQ

/-- Shares of a run. -/
def runOfShares (first count : Nat) : List Nat := (List.range count).map (fun i => first + i)

/-- A write of SHARE_HANDOVER. -/
def Dev.wrShareHandover (e : Env) (d : Dev) (src : Src) (v : Nat) : Dev :=
  let go := fun (d : Dev) =>
    let first := bits v 0 7
    let count := bits v 7 8
    let new := bits v 15 5
    if d.get SHARE_HANDOVER_STATUS.STATE ≠ 0 then d.shareRefuse 4
    else if !(new == 31 || (decide (new < 16) && d.get (PART_CFG.STATE new) != 2)) then d.shareRefuse 2
    else if count = 0 ∨ 128 < count ∨ d.cu < first + count then d.shareRefuse 1
    else if (runOfShares first count).any (fun i => d.get (SHARE_OWN.OWNER i) == 18) then d.shareRefuse 5
    else
      let d := { d with mem := { d.mem with share := some { first := first, count := count, owner := new, start := e.time } } }
      (runOfShares first count).foldl (fun d i => d.put (SHARE_OWN.PENDING i) 1) (d.put SHARE_HANDOVER_STATUS.STATE 1)
  match src with
  | .queue q => if d.qKernel q then go (d.note SHARE_HANDOVER.off v) else d.shareRefuse 3
  | _ => d.guardOwn e src SHARE_HANDOVER.off true fun d => go (d.note SHARE_HANDOVER.off v)

/-- SHARE_HANDOVER. -/
def execShareHandover (src : Src) (value : DWord) (s : State) : Host.Outcome State Fault Refusal :=
  s.onDev fun e d => d.wrShareHandover e src value.toNat

/-- A share is zeroed by a handover: it leaves a partition, or enters one while not CLEAN. -/
def Dev.shareZeroes (d : Dev) (i new : Nat) : Bool :=
  let o := d.get (SHARE_OWN.OWNER i)
  new != o && (decide (o < 16) || (decide (new < 16) && d.get (SHARE_OWN.CLEAN i) == 0))

/-- A share changes its owner. -/
def Dev.shareGive (d : Dev) (i new : Nat) : Dev :=
  let o := d.get (SHARE_OWN.OWNER i)
  let d := if d.shareZeroes i new then (d.zeroShare i).put (SHARE_OWN.CLEAN i) 1 else d
  let d := if new < 16 ∧ new ≠ o then d.put (SHARE_OWN.CLEAN i) 0 else d
  (d.put (SHARE_OWN.OWNER i) new).put (SHARE_OWN.PENDING i) 0

/-- SHARE_HANDOVER_COMPLETE: the shares have drained; they are zeroed where R447 says so and have their new owner. -/
def execShareHandoverComplete (s : State) : Host.Outcome State Fault Refusal :=
  s.onDev fun e d =>
    match d.mem.share with
    | none => d
    | some h =>
      let l := runOfShares h.first h.count
      if l.any d.shareBusy then d
      else
        let zeroed := l.any (fun i => d.shareZeroes i h.owner)
        let olds := l.map (fun i => d.get (SHARE_OWN.OWNER i))
        let d := (l.foldl (fun d i => d.shareGive i h.owner) d).countShares
        let d := (olds.eraseDups).foldl (fun d o =>
          if o ≠ h.owner ∧ (o < 16 ∨ h.owner < 16) then d.report e (.handover 2 o h.owner (olds.filter (fun x => x == o)).length) else d) d
        let d := { d with mem := { d.mem with share := none } }
        let d := ((d.put SHARE_HANDOVER_STATUS.STATE 0).put SHARE_HANDOVER_STATUS.RESULT 0).put SHARE_HANDOVER_STATUS.ZEROED (b2n zeroed)
        (d.put SHARE_HANDOVER_STATUS.ELAPSED_US (min (2 ^ 32 - 1) (ceilDiv (e.time - h.start) 1000))).incr SHARE_HANDOVER_STATUS.SEQ

/-! Common regions (R449). -/

/-- Result of registering a region. -/
def Dev.crCheck (d : Dev) (r v : Nat) : Nat :=
  let first := bits v 0 7
  let count := bits v 7 8
  let owner := bits v 15 5
  let l := runOfShares first count
  let held := fun (i : Nat) => decide (i < d.cu) && d.get (SHARE_OWN.OWNER i) == owner && d.get (SHARE_OWN.PENDING i) == 0
  let m := d.get (CR_MIRROR.ADDR r)
  if count = 0 ∨ 128 < count ∨ v / 2 ^ 23 ≠ 0 ∨ bits v 20 2 = 3 ∨ !(decide (owner < 16) || owner == 31) then 4
  else if !l.all held then 1
  else
    match bits v 20 2 with
    | 1 =>
      let span := (List.range ((m % shareBytes + count * shareBytes + shareBytes - 1) / shareBytes)).map (fun i => shareOf m + i)
      if m % 256 = 0 ∧ span.all (fun i => held i && !l.contains i) then 0 else 2
    | 2 => if d.paired ∧ m.testBit 63 ∧ bits m 60 3 = 0 ∧ bits m 40 20 = d.buddyId ∧ m % 256 = 0 then 0 else 3
    | _ => 0

/-- A write of CR_CFG: a region is registered or withdrawn; while VALID, only withdrawn. -/
def Dev.wrCrCfg (e : Env) (d : Dev) (src : Src) (r v : Nat) : Dev :=
  let valid := d.get (CR_CFG.VALID r) = 1
  d.guardOwn e src (CR_CFG.off r) (d.reg (CR_CFG.off r) != bits v 0 23) fun d =>
    let d := d.note (CR_CFG.off r) v
    let l := fun (d : Dev) => runOfShares (d.get (CR_CFG.FIRST r)) (d.get (CR_CFG.COUNT r))
    if valid then
      if bit v 22 then d
      else
        let owner := d.get (CR_CFG.OWNER r)
        let d := (l d).foldl (fun d i => (d.put (SHARE_OWN.OWNER i) owner).put (SHARE_OWN.REGION i) 0) d
        ((d.put (CR_CFG.VALID r) 0).countShares).report e (.region r false owner)
    else
      let result := d.crCheck r v
      let d := d.setReg (CR_CFG.off r) (bits v 0 22)
      if !bit v 22 then d
      else
        let d := d.put (CR_STATUS.RESULT r) result
        if result ≠ 0 then d
        else
          let d := (l d).foldl (fun d i => (d.put (SHARE_OWN.OWNER i) 18).put (SHARE_OWN.REGION i) r) (d.put (CR_CFG.VALID r) 1)
          d.countShares.report e (.region r true (bits v 15 5))

/-- CR_REGISTER. -/
def execCrRegister (src : Src) (r : Nat) (value : DWord) (s : State) : Host.Outcome State Fault Refusal :=
  s.onDev fun e d => if 16 ≤ r ∨ !bit value.toNat 22 then d else d.wrCrCfg e src r value.toNat

/-- CR_WITHDRAW. -/
def execCrWithdraw (src : Src) (r : Nat) (value : DWord) (s : State) : Host.Outcome State Fault Refusal :=
  s.onDev fun e d => if 16 ≤ r ∨ bit value.toNat 22 then d else d.wrCrCfg e src r value.toNat

end Sys2Proof.Machine
end

