-- ==== Sys2Proof/Machine/Scans.lean ====
section
/-! DEFINITION. The march test engines (R219-R225), margin scans (R249-R253) and the self-tests that ask for them (R353, R477,
R478). -/

namespace Sys2Proof.Machine

/-- Bassoon's firmware runs and may act on its own (R468, R476). -/
def Dev.governs (e : Env) (d : Dev) : Bool :=
  d.get GLOBAL_STATUS.READY == 1 && !d.mgmt.clocksOff &&
  (d.mgmt.restartAt == 0 || decide (d.mgmt.restartAt + 50000000 ≤ e.time + 1))

/-! Repairs (R219). -/

/-- Rows of a bank remapped so far. -/
def Dev.rowRepairs (d : Dev) (c b : Nat) : Nat := ((d.core.repair.look c).rows.filter (fun r => r.1 == b)).length

/-- A repair is recorded in the repair map and the ledger (R219, R480; log entry 49). `h`: the row, none for a whole bank. -/
def Dev.addRepair (e : Env) (d : Dev) (c b : Nat) (h : Option Nat) (spare : Nat) : Dev :=
  let r := d.core.repair.look c
  let r' : Repair := match h with
    | some x => { r with rows := r.rows ++ [(b, x)] }
    | none => { r with bank := some b }
  let d := { d with core := { d.core with repair := d.core.repair.put c r' } }
  d.ledger e 0x03 (2 + halfOf c) [c + b * 2 ^ 8 + h.getD 0 * 2 ^ 16 + spare * 2 ^ 24]

/-- A core fails (R219). -/
def Dev.failCore (e : Env) (d : Dev) (c b h : Nat) : Dev :=
  let d := { d with core := { d.core with repair := d.core.repair.put c { d.core.repair.look c with failed := true } } }
  let d := d.ledger e 0x03 (2 + halfOf c) [c + b * 2 ^ 8 + h * 2 ^ 16 + 3 * 2 ^ 24]
  (d.put (SP_STATUS.FAILED c) 1).postD e 0x41 31 31 [c]

/-- What became of a failing row under repair. -/
inductive Fix where
  | row | bank | core
deriving DecidableEq, Repr

/-- A failing row is repaired: a spare row, else the spare bank, else the core fails (R219; log entry 50). -/
def Dev.fixRow (e : Env) (d : Dev) (c b h : Nat) : Dev × Fix :=
  let used := d.get (SP_STATUS.SPARE_BANK_USED c)
  let spared := used = 1 ∧ d.get (SP_STATUS.SPARE_FOR c) = b
  let n := d.rowRepairs c b
  if n < 2 ∧ ¬ spared then
    ((d.put (SP_STATUS.SPARE_ROWS_USED c) (d.get (SP_STATUS.SPARE_ROWS_USED c) + 1)).addRepair e c b (some h) n, .row)
  else if used = 0 then
    (((d.put (SP_STATUS.SPARE_BANK_USED c) 1).put (SP_STATUS.SPARE_FOR c) b).addRepair e c b none 2, .bank)
  else (d.failCore e c b h, .core)

/-- The failing rows of a run under REPAIR, in order, with the counts of what they became. -/
def Dev.fixRows (e : Env) (d : Dev) (c : Nat) : List (Nat × Nat) → Dev × List Fix
  | [] => (d, [])
  | (b, h) :: t =>
    let r := d.fixRow e c b h
    match r.2 with
    | .core => (r.1, [.core])
    | x =>
      let q := Dev.fixRows e r.1 c t
      (q.1, x :: q.2)

/-! Self-tests (R477, R478). -/

/-- The identity of a deferred request. -/
def Deferred.key (t : Deferred) : Nat := t.queue * 65536 + t.seq

/-- The fragile state TEST follows the SELFTESTs that run (R421). -/
def Dev.testsRefresh (e : Env) (d : Dev) : Dev :=
  let own := fun (c : Option Nat) (k : Option Nat) => c.isSome || k.any (fun k => decide (k < 4096 * 65536))
  let n := (d.mem.march.filter (fun m => own m.ctx m.entry)).length + (d.mem.scanRun.filter (fun x => own x.ctx x.entry)).length
  (d.setBuddy { d.fab.buddy with tests := n }).buddyRefresh e

/-- Replaces the deferred table (R487). -/
def Dev.setDeferred (d : Dev) (l : List Deferred) : Dev :=
  ({ d with mgmt := { d.mgmt with deferred := l } } : Dev).put MGMT_AUTO.DEFERRED l.length

/-- The SELFTEST_DONE record of a request (R488); Bassoon's own requests have none. -/
def Dev.testDone (e : Env) (d : Dev) (t : Deferred) (status w3 : Nat) : Dev :=
  if t.queue < 4096 then
    d.postF e 0x81 t.func t.part [t.queue + t.seq * 2 ^ 16 + t.target % 4 * 2 ^ 32 + status * 2 ^ 34, w3]
  else d

/-- A request leaves the deferred table with its record (R478). -/
def Dev.endDeferred (e : Env) (d : Dev) (key status w3 : Nat) : Dev :=
  match d.mgmt.deferred.find? (fun t => t.key == key) with
  | none => d
  | some t => (d.setDeferred (d.mgmt.deferred.filter (fun x => x.key != key))).testDone e t status w3

/-- The engine of a core may start on the sets of a mask: all owned by MARCH, which a pending handover does not refuse to it, and no
run on the core (R205, R220; log entry 50). -/
def Dev.marchFree (d : Dev) (c mask : Nat) : Bool :=
  decide (c < 128) && !d.mem.march.any (fun m => m.core == c) && (maskList 16 mask).all (fun k => d.get (SP_OWN.OWNER c k) == 17)

/-- The cores that a march parameter word would test now (R221). -/
def Dev.marchCores (d : Dev) (param : Nat) : List Nat :=
  let c := bits param 4 8
  (if c = 255 then List.range 128 else [c]).filter (fun c => d.marchFree c (bits param 12 16))

/-- A scan of the channel runs. -/
def Dev.scanning (d : Dev) (ch : Nat) : Bool := d.mem.scanRun.any (fun x => x.ch == ch)

/-- A live scan may start: the channel is in service, and a slot is free of the 16, of the stack's two (R251). -/
def Dev.liveFree (d : Dev) (ch : Nat) : Bool :=
  let live := d.mem.scanRun.filter (fun x => x.kind == 0)
  decide (ch < 128) && d.get (HBM_CH_STATUS.STATE ch) == 0 && !d.scanning ch &&
  decide (live.length < 16) && decide ((live.filter (fun x => x.ch / 16 == ch / 16)).length < 2)

/-- A full scan may start: the maintenance state holds and is not being left, the channel is offline and unused (R250, R251,
R479; log entry 51). -/
def Dev.fullFree (d : Dev) (ch : Nat) : Bool :=
  decide (ch < 128) && d.get MGMT_MAINT.ACTIVE == 1 && d.get MGMT_MAINT.RESULT != 2 &&
  d.get (HBM_CH_STATUS.STATE ch) == 1 && !d.scanning ch

/-- The test owner holds the resource of a request (R477). -/
def Dev.testFree (d : Dev) (target param : Nat) : Bool :=
  match target with
  | 0 => !(d.marchCores param).isEmpty
  | 1 => d.liveFree param
  | _ => d.fullFree param

/-- A scan starts. -/
def Dev.startScan (e : Env) (d : Dev) (x : Scan) : Dev :=
  let d := { d with mem := { d.mem with scanRun := d.mem.scanRun ++ [{ x with start := e.time }] } }
  d.put (HBM_CH_STATUS.SCAN_ACTIVE x.ch) 1

/-- A test starts for a command or a deferred request. -/
def Dev.startTest (e : Env) (d : Dev) (target param : Nat) (ctx entry : Option Nat) : Dev :=
  let d := match target with
    | 0 =>
      let runs := (d.marchCores param).map (fun c =>
        ({ core := c, alg := bits param 0 2, preserve := bit param 2, fix := bit param 3, sets := bits param 12 16, boot := false,
           ctx := ctx, entry := entry } : MarchRun))
      { d with mem := { d.mem with march := d.mem.march ++ runs } }
    | t => d.startScan e { ch := param, kind := if t = 1 then 0 else 1, start := 0, ctx := ctx, entry := entry }
  d.testsRefresh e

/-- The deferred request at a place may start: its resource is there, and no request before it may start (R478). -/
def Dev.deferredReady (d : Dev) (pos : Nat) : Bool :=
  let can := fun (t : Deferred) => !t.running && d.testFree t.target t.param
  (d.mgmt.deferred[pos]?).any can && !(d.mgmt.deferred.take pos).any can

/-- A request that finds its resource missing enters the table; a full table ends it at once (R478). -/
def Dev.defer (e : Env) (d : Dev) (t : Deferred) : Dev :=
  if d.mgmt.deferred.length < 32 then d.setDeferred (d.mgmt.deferred ++ [t]) else d.testDone e t 3 0

/-- The TIMEOUT_MS of a request from now, 0 acting as 10,000 (R477). -/
def testDeadline (now ms : Nat) : Nat := now + (if ms = 0 then 10000 else ms) * 1000000

/-- SELFTEST (R346, R353, R477): a request whose resource is free runs; another is deferred. It waits while an older deferred
request may start (log entry 51). -/
def execSelftest (ctx : Nat) (s : State) : Host.Outcome State Fault Refusal :=
  s.onDev fun e d =>
    if !d.startable ctx opSelftest then d
    else
      let x := d.ctx ctx
      let q := x.queue
      if !d.ownerQueue q then d.ctxReject e ctx 0 0x05 0 0
      else if (List.range d.mgmt.deferred.length).any d.deferredReady then d
      else
        let target := bits (x.word 0x08) 0 4
        let param := if target = 0 then x.num 0x10 4 else bits (x.word 0x10) 0 7
        let d := d.ctxStart ctx
        if d.testFree target param then d.startTest e target param (some ctx) none
        else
          let t : Deferred :=
            { queue := q, func := d.qFunc q, part := d.qPart q, seq := x.seq, target := target, param := param,
              deadline := testDeadline e.time (x.num 0x18 4), running := false }
          (d.ctxFinish e ctx .deferred 0 none).defer e t

/-- SELFTEST_START: a deferred request whose resource has reached the test owner runs; one of Bassoon's own is an act (R468, R477,
R478). -/
def execSelftestStart (pos : Nat) (s : State) : Host.Outcome State Fault Refusal :=
  s.onDev fun e d =>
    match d.mgmt.deferred[pos]? with
    | none => d
    | some t =>
      if d.deferredReady pos then
        let d := (d.setDeferred (setAt d.mgmt.deferred pos { t with running := true })).startTest e t.target t.param none (some t.key)
        if 4096 ≤ t.queue then d.autoAct e 4 t.param 0 0 0 else d
      else d

/-- SELFTEST_TIMEOUT: a deferred request that still waits at its deadline ends; a resource that is there wins (R477). -/
def execSelftestTimeout (pos : Nat) (s : State) : Host.Outcome State Fault Refusal :=
  s.onDev fun e d =>
    match d.mgmt.deferred[pos]? with
    | none => d
    | some t =>
      if t.running ∨ e.time < t.deadline ∨ d.testFree t.target t.param then d
      else (d.setDeferred (removeAt d.mgmt.deferred pos)).testDone e t 2 0

/-- What waited for a test learns its end, once no part of it runs (R353, R478). -/
def Dev.testEnd (e : Env) (d : Dev) (ctx entry : Option Nat) (pass : Bool) (w3 : Nat) : Dev :=
  let more := d.mem.march.any (fun m => (m.ctx.isSome && m.ctx == ctx) || (m.entry.isSome && m.entry == entry))
  let d := d.testsRefresh e
  if more then d
  else
    let d := match ctx with
      | some c => d.ctxFinish e c .done 1 none
      | none => d
    match entry with
    | some k => d.endDeferred e k (b2n (!pass)) w3
    | none => d

/-! March runs (R222-R225). -/

/-- SP_MARCH_RESULT of a run (R226). -/
def marchResult (m : MarchRun) (bad : List (Nat × Nat)) (fixes : List Fix) : Nat :=
  let sets := maskOf ((bad.map (fun p => p.1 / 16)).eraseDups)
  let first := bad.head?.getD (0, 0)
  sets + min 1023 bad.length * 2 ^ 16 + (fixes.filter (fun x => x == .row)).length % 1024 * 2 ^ 26 +
  b2n (fixes.contains .bank) * 2 ^ 36 + b2n (fixes.contains .core) * 2 ^ 37 + m.alg % 4 * 2 ^ 38 + b2n m.preserve * 2 ^ 40 +
  first.1 % 256 * 2 ^ 41 + first.2 % 256 * 2 ^ 49

/-- Sets whose prior owner was torn down while they were under test go to UNOWNED, zeroed (R446). -/
def Dev.freeTorn (d : Dev) (c mask : Nat) : Dev :=
  let ks := (maskList 16 mask).filter (fun k => d.part.torn.look (c * 16 + k))
  let d := d.zeroSets [c] ks
  ks.foldl (fun d k =>
    let d := d.setOwner c k 31
    { d with part := { d.part with torn := d.part.torn.put (c * 16 + k) false } }) d

/-- A preserving run reads every word of its sets: one bit in error is corrected, more leave the poison mark; the words of failing
rows that it could not read carry it too (R218, R223, R224). -/
def Dev.marchRead (d : Dev) (c mask : Nat) (bad : List (Nat × Nat)) (lost : List Nat) : Dev :=
  let mine := fun (w : Nat) =>
    decide (spAddr c 0 ≤ w * 8) && decide (w * 8 < spAddr c 0 + spSize) && bit mask (bankSet (w * 8 - spAddr c 0))
  let ws := d.mem.upsets.filterMap (fun u => match u.site with | .sp w => if mine w then some w else none | _ => none)
  let d := ws.foldl (fun d w => d.spWords w (w + 1)) d
  let os := (lost.filter (fun o => decide (o < spSize) && bad.contains (bankOf o, o / 32768))).map (fun o => o / 8 * 8)
  os.eraseDups.foldl (fun d o =>
    if d.poisoned (spAddr c o) then d else (d.setPoison (spAddr c o) 8 true).bump (SP_ECC.UE c) 1) d

/-- A march run on a core ends: repairs under REPAIR, zeroing after a destructive run, the result and its event (R219,
R222-R225). -/
def Dev.marchFinish (e : Env) (d : Dev) (m : MarchRun) (find : MarchFind) : Dev :=
  let c := m.core
  let bad := find.failing.filter (fun p => decide (p.1 < 256) && decide (p.2 < 192) && bit m.sets (p.1 / 16))
  let d := { d with mem := { d.mem with march := d.mem.march.filter (fun x => x.core != c) } }
  let d := if m.preserve then d.marchRead c m.sets bad find.lost else d.zeroSets [c] (maskList 16 m.sets)
  let r := if m.fix then d.fixRows e c bad else (d, [])
  let w := marchResult m bad r.2
  let d := r.1.setReg (SP_MARCH_RESULT.off c) w
  let d := d.postT e 0x42 31 31 [w + c * 2 ^ 57]
  (d.freeTorn c m.sets).testEnd e m.ctx m.entry bad.isEmpty w

/-- MARCH_DONE. `find`: the rows that failed. -/
def execMarchDone (core : Nat) (find : MarchFind) (s : State) : Host.Outcome State Fault Refusal :=
  s.onDev fun e d =>
    match d.mem.march.find? (fun m => m.core == core) with
    | some m => if m.boot then d else d.marchFinish e m find
    | none => d

/-! Margin scans (R249-R253). -/

/-- HBM_LIVE_SCAN: a scan of Bassoon's schedule starts, or takes a place in the deferred table (R251, R468, R478; log entry
51). -/
def execHbmLiveScan (ch : Nat) (s : State) : Host.Outcome State Fault Refusal :=
  s.onDev fun e d =>
    let hours := d.mgmt.cfg.scanIntervalH
    let last := d.mem.scanAt.look ch
    if 128 ≤ ch ∨ !d.governs e ∨ hours = 0 ∨ (last ≠ 0 ∧ e.time + 1 < last + hours * 3600000000000) then d
    else
      let d := { d with mem := { d.mem with scanAt := d.mem.scanAt.put ch (e.time + 1) } }
      if d.liveFree ch && !(List.range d.mgmt.deferred.length).any d.deferredReady then
        (d.startScan e { ch := ch, kind := 0, start := 0, ctx := none, entry := none }).autoAct e 4 ch 0 0 0
      else
        d.defer e { queue := 4096, func := 31, part := 31, seq := ch, target := 1, param := ch,
                    deadline := testDeadline e.time 0, running := false }

/-- A byte list as a number, 0 for a place that a kind of scan does not measure (R252). -/
def marginWord (live : Bool) (l : List Nat) : Nat :=
  leOf ((List.range 8).map (fun i => BitVec.ofNat 8 (if live && decide (4 ≤ i) then 0 else l.getD i 0)))

/-- Every measured margin of a scan is at or above its floor (R252). -/
def marginsPass (floors : List Nat) (live : Bool) (find : ScanFind) : Bool :=
  (List.range (if live then 4 else 8)).all (fun i =>
    decide (floors.getD i 0 ≤ find.pc0.getD i 0 % 256) && decide (floors.getD i 0 ≤ find.pc1.getD i 0 % 256))

/-- The result record of a scan in words (R252). -/
def marginRecord (now ch kind seq : Nat) (pass : Bool) (find : ScanFind) : List Nat :=
  let live := kind == 0
  [ now,
    ch / 16 + ch % 16 * 2 ^ 3 + kind % 4 * 2 ^ 7 + b2n pass * 2 ^ 9 + b2n (!pass) * 2 ^ 10 + find.temp % 256 * 2 ^ 16 +
      (if find.timedOut then 2 else 0) * 2 ^ 24 + seq % 2 ^ 32 * 2 ^ 32,
    marginWord live find.pc0, marginWord live find.pc1,
    find.scanErrors % 2 ^ 32 + find.durationUs % 2 ^ 32 * 2 ^ 32, 0, 0, 0 ]

/-- A scan's record replaces HBM_CH_MARGIN of its channel and goes to the telemetry FIFO; three successive scans below floor mark
the channel (R252, R253). -/
def Dev.marginReport (e : Env) (d : Dev) (ch kind : Nat) (find : ScanFind) : Dev :=
  let pass := marginsPass d.mgmt.cfg.floors (kind == 0) find
  let seq := (d.mem.scanSeq.look ch + 1) % 2 ^ 32
  let below := if pass then 0 else d.mem.below.look ch + 1
  let d := { d with mem := { d.mem with scanSeq := d.mem.scanSeq.put ch seq, below := d.mem.below.put ch below } }
  let ws := marginRecord e.time ch kind seq pass find
  let d := (ws.zipIdx).foldl (fun d p => d.put (HBM_CH_MARGIN.RECORD ch p.2) p.1) d
  let d := d.postT e 0x35 31 31 ws
  if 3 ≤ below then d.retireChannel e ch 2 else d

/-- A full scan leaves the contents of its channel open (R249; log entry 48). -/
def Dev.wipeChannel (d : Dev) (ch : Nat) : Dev :=
  let n := d.free
  let hit := fun (a : Nat) => decide (a < hbmEnd) && d.chanOf a == ch
  let m : MemSys :=
    { d.mem with
      cells := Sparse.clearIf d.mem.cells hit,
      poison := Sparse.clearIf d.mem.poison (fun w => hit (w * 8)),
      failed := d.mem.failed.filter (fun s => !hit (s * 32)),
      touched := .scan ch n :: d.mem.touched }
  { d with mem := m, free := n + 1 }

/-- MGMT_MAINT.LEAVE takes effect once no full scan runs: the channels are in service again (R250, R479). -/
def Dev.maintLeave (e : Env) (d : Dev) : Dev :=
  if d.get MGMT_MAINT.ACTIVE = 1 ∧ d.get MGMT_MAINT.RESULT = 2 ∧ !d.mem.scanRun.any (fun x => x.kind == 1) then
    let d := ((d.put MGMT_MAINT.ACTIVE 0).put MGMT_MAINT.RESULT 0).put GLOBAL_STATUS.MAINT 0
    let d := (List.range 128).foldl (fun d g => if d.get (HBM_CH_STATUS.STATE g) = 1 then d.put (HBM_CH_STATUS.STATE g) 0 else d) d
    d.buddyRefresh e
  else d

/-- HBM_SCAN_COMPLETE. `find`: what the scan measured. -/
def execHbmScanComplete (ch : Nat) (find : ScanFind) (s : State) : Host.Outcome State Fault Refusal :=
  s.onDev fun e d =>
    match d.mem.scanRun.find? (fun x => x.ch == ch) with
    | none => d
    | some x =>
      let d := { d with mem := { d.mem with scanRun := d.mem.scanRun.filter (fun y => y.ch != ch) } }
      let d := d.put (HBM_CH_STATUS.SCAN_ACTIVE ch) 0
      let pass := marginsPass d.mgmt.cfg.floors (x.kind == 0) find
      let d := if x.kind = 1 then d.wipeChannel ch else d
      let d := d.marginReport e ch x.kind find
      (d.testEnd e x.ctx x.entry pass (d.mem.scanSeq.look ch)).maintLeave e

end Sys2Proof.Machine
end

