-- ==== Sys2Proof/Machine/Mgmt.lean ====
section
/-! DEFINITION. Bassoon's autonomous management (R468-R476, R529, R532): power cap and clocks, temperature, section gating, the
watchdog, fabric lanes and ports, supply faults. Power values in W, temperatures in degrees Celsius, ACLK in MHz. -/

namespace Sys2Proof.Machine

/-- Names a field of Bassoon's state to change. -/
def Dev.mg (d : Dev) (f : MgmtSys → MgmtSys) : Dev := { d with mgmt := f d.mgmt }

/-- The 50 ms in which a watchdog expiry restarts the firmware (R476; log entry 55). -/
def Dev.restarts (e : Env) (d : Dev) : Bool := d.mgmt.restartAt != 0 && decide (e.time + 1 < d.mgmt.restartAt + 50000000)

/-- A stamp of this moment: never 0. -/
def Env.stamp (e : Env) : Nat := e.time + 1

/-- A number of ns has passed since a stamp; true where there is none. -/
def Env.past (e : Env) (stamp n : Nat) : Bool := stamp == 0 || decide (stamp + n ≤ e.time + 1)

/-! The supply of the cores (R529). -/

/-- The fused voltage of VDD_CORE for an ACLK, in mV: 750 at 800 MHz, else open within the set-point range (R527, R529; log entry
52). -/
def fusedMv (mhz : Nat) : Nat := if mhz = 800 then 750 else 550 + Config.fusedVoltage mhz % 251

/-- What a section runs at: 200 MHz while the firmware restarts, else the lower of the target and its thermal limit (R470, R476). -/
def Dev.wanted (e : Env) (d : Dev) (s : Nat) : Nat :=
  if d.restarts e then 200 else min (d.get MGMT_POWER_STATUS.TARGET_MHZ) (d.get (MGMT_SECTION.THERM_MHZ s))

/-- The ungated sections of a half. -/
def Dev.powered (d : Dev) (h : Nat) : List Nat :=
  ((List.range 8).map (fun i => 8 * h + i)).filter (fun s => d.get (MGMT_SECTION.GATED s) == 0)

/-- The set point of a half is raised before an ACLK of it rises (R529). -/
def Dev.raiseHalf (e : Env) (d : Dev) (h : Nat) : Dev :=
  let w := ((d.powered h).map (d.wanted e)).foldl max 0
  if d.mgmt.vrHeld.look h || decide (w ≤ d.mgmt.vddSet.look h) then d
  else (d.mg fun m => { m with vddSet := m.vddSet.put h w }).emit (.vdd h (fusedMv w))

/-- Both halves. -/
def Dev.raiseVdd (e : Env) (d : Dev) : Dev := (d.raiseHalf e 0).raiseHalf e 1

/-- The set point of a half is lowered only after the ACLK has been (R529). -/
def Dev.lowerVdd (e : Env) (d : Dev) (h : Nat) : Dev :=
  let w := ((d.powered h).map (fun s => max (d.get (MGMT_SECTION.MHZ s)) (d.wanted e s))).foldl max 200
  if d.mgmt.vrHeld.look h || decide (d.mgmt.vddSet.look h ≤ w) then d
  else (d.mg fun m => { m with vddSet := m.vddSet.put h w, vddOk := m.vddOk.put h w }).emit (.vdd h (fusedMv w))

/-- VR_TIMEOUT: a regulator does not answer or settle: its rail is held at the last confirmed set point (R529; log entry 52). -/
def execVrTimeout (half : Nat) (s : State) : Host.Outcome State Fault Refusal :=
  s.onDev fun e d =>
    if 2 ≤ half ∨ !d.governs e then d
    else
      let ok := d.mgmt.vddOk.look half
      let d := d.mg fun m => { m with vddSet := m.vddSet.put half ok, vrHeld := m.vrHeld.put half true, alert := true }
      d.autoAct e 1 (8 * half) ok ok 0xFF

/-! The power cap (R469, R470). -/

/-- A cap as it acts: 0 none, below 500 acts as 500 (R469). -/
def capActs (none' w : Nat) : Nat := if w = 0 then none' else max 500 w

/-- The effective cap (R469). -/
def Dev.effectiveCap (d : Dev) : Nat :=
  let o := d.get MGMT_POWER.OVERLAY_CAP
  min o (min (capActs o (d.get MGMT_POWER.HOST_CAP)) (capActs o (d.get MGMT_POWER.BMC_CAP)))

/-- A new target ACLK. -/
def Dev.setTarget (e : Env) (d : Dev) (t : Nat) : Dev :=
  let d := d.put MGMT_POWER_STATUS.TARGET_MHZ t
  let d := if t = 200 then d.mg fun m => { m with reached200 := true } else d
  d.raiseVdd e

/-- The target after the fast check (R470). -/
def fastTarget (cap watts target : Nat) : Nat := if cap + cap / 10 < watts then max 200 (target - 100) else target

/-- The target after the slow step (R470). -/
def slowTarget (cap watts target : Nat) : Nat :=
  if cap + cap / 20 < watts then max 200 (target - 100)
  else if cap < watts then max 200 (target - 25)
  else if watts < cap - cap * 3 / 100 then min 800 (target + 25)
  else target

/-- POWER_FAST_CHECK: caps written before take effect, then the check. `watts`: mean power of the last 100 us. -/
def execPowerFastCheck (watts : Nat) (s : State) : Host.Outcome State Fault Refusal :=
  s.onDev fun e d =>
    if !d.governs e then d
    else
      let d := d.put MGMT_POWER.EFFECTIVE d.effectiveCap
      d.setTarget e (fastTarget (d.get MGMT_POWER.EFFECTIVE) watts (d.get MGMT_POWER_STATUS.TARGET_MHZ))

/-- POWER_SLOW_STEP. `watts`: mean power of the last 1 ms. -/
def execPowerSlowStep (watts : Nat) (s : State) : Host.Outcome State Fault Refusal :=
  s.onDev fun e d =>
    if !d.governs e then d
    else
      let d := d.put MGMT_POWER_STATUS.PACKAGE_W watts
      d.setTarget e (slowTarget (d.get MGMT_POWER.EFFECTIVE) watts (d.get MGMT_POWER_STATUS.TARGET_MHZ))

/-- POWER_CALIBRATE: the regulators' input power, against which the estimate is calibrated (R470, R528). -/
def execPowerCalibrate (inputWatts : Nat) (s : State) : Host.Outcome State Fault Refusal :=
  s.onDev fun e d => if d.governs e then d.mg fun m => { m with calib := inputWatts } else d

/-- POWER_WINDOW: a window of 10 ms ends. `watts`: its mean power (R470; log entry 58). -/
def execPowerWindow (watts : Nat) (s : State) : Host.Outcome State Fault Refusal :=
  s.onDev fun e d =>
    if !d.governs e then d
    else
      let cap := d.get MGMT_POWER.EFFECTIVE
      let unmet := d.mgmt.reached200 && decide (cap < watts)
      let d := d.mg fun m => { m with reached200 := d.get MGMT_POWER_STATUS.TARGET_MHZ == 200 }
      if !unmet then d
      else
        let d := d.bump MGMT_POWER_STATUS.UNMET_MS 10
        if e.past d.mgmt.unmetAt 1000000000 then
          let w := cap % 65536 + watts % 65536 * 65536
          ((d.mg fun m => { m with unmetAt := e.stamp }).postD e 0x83 31 31 [w]).platformEvent 0x83 w
        else d

/-! Temperature (R471-R473). -/

/-- A THERMAL record (R488). -/
def Dev.thermalRecord (e : Env) (d : Dev) (stack : Bool) (index temp : Nat) (held : Bool) : Dev :=
  let w := b2n stack + index % 16 * 16 + temp % 256 * 256 + b2n held * 65536
  (d.postD e 0x82 31 31 [w]).platformEvent 0x82 w

/-- Whole steps of `n` ns since a stamp, 0 where there is none. -/
def Env.steps (e : Env) (stamp n : Nat) : Nat := if stamp = 0 then 0 else (e.time + 1 - stamp) / n

/-- The thermal limit after a reading (R471; log entry 54). -/
def Therm.step (e : Env) (t : Therm) (temp limit : Nat) : Therm × Nat :=
  let since := fun (c : Bool) (x : Nat) => if c then (if x = 0 then e.stamp else x) else 0
  let hot := since (decide (100 ≤ temp)) t.hot
  let cool := since (decide (temp < 97)) t.cool
  let hotAt := since (decide (105 ≤ temp)) t.hotAt
  let falls := e.steps hot 1000000
  let rises := e.steps cool 10000000
  let held := (t.held && decide (97 ≤ temp)) || (hotAt != 0 && e.past hotAt 10000000)
  let lim := if held then 200 else min 800 (max 200 (limit - 25 * falls) + 25 * rises)
  ({ hot := hot + falls * 1000000, cool := cool + rises * 10000000, hotAt := hotAt, held := held }, lim)

/-- A stack of a section's half is hot (R472). -/
def Dev.halfHot (d : Dev) (s : Nat) : Bool := (List.range 4).any (fun i => d.mgmt.stackHot.look (4 * (s / 8) + i))

/-- THERMAL_SAMPLE. `temp`: the hottest junction of the section. -/
def execThermalSample (sect temp : Nat) (s : State) : Host.Outcome State Fault Refusal :=
  s.onDev fun e d =>
    if 16 ≤ sect ∨ !d.governs e then d
    else
      let t := d.mgmt.therm.look sect
      let r := t.step e (if d.halfHot sect then max 100 temp else temp) (d.get (MGMT_SECTION.THERM_MHZ sect))
      let d := (d.put (MGMT_SECTION.TEMP sect) temp).put (MGMT_SECTION.THERM_MHZ sect) r.2
      let d := d.mg fun m => { m with therm := m.therm.put sect r.1 }
      let d := if r.1.held && !t.held then d.thermalRecord e false sect temp true else d
      d.raiseVdd e

/-- HBM_THERMAL_SAMPLE: refresh doubles from 85 degrees; from 95 the stack is throttled, until below 90 (R246, R472; log entry
54). -/
def execHbmThermalSample (stack temp : Nat) (s : State) : Host.Outcome State Fault Refusal :=
  s.onDev fun e d =>
    if 8 ≤ stack ∨ !d.governs e then d
    else
      let d := (List.range 16).foldl (fun d i => d.put (HBM_CH_STATUS.TEMP (16 * stack + i)) temp) d
      let twice := decide (85 ≤ temp)
      let was := d.mgmt.refresh2.look stack
      let d := if twice = was then d
        else (d.mg fun m => { m with refresh2 := m.refresh2.put stack twice }).autoAct e 3 stack (1 + b2n was) (1 + b2n twice) 0
      let h0 := d.mgmt.stackHot.look stack
      let hot := decide (95 ≤ temp) || (h0 && decide (90 ≤ temp))
      if hot = h0 then d
      else
        let d := (d.mg fun m => { m with stackHot := m.stackHot.put stack hot }).autoAct e 3 stack (b2n h0) (b2n hot) 1
        if hot then d.thermalRecord e true stack temp false else d

/-- THERMTRIP: the comparator asserts THERMTRIP# and stops the clocks, whatever the firmware does (R473, R476). -/
def execThermtrip (sect temp : Nat) (s : State) : Host.Outcome State Fault Refusal :=
  s.onDev fun e d =>
    if 16 ≤ sect ∨ temp < 115 ∨ !d.mgmt.power ∨ d.mgmt.thermtrip then d
    else
      let d := d.mg fun m => { m with thermtrip := true, clocksOff := true, tripCount := m.tripCount + 1 }
      (d.put (MGMT_SECTION.TEMP sect) temp).ledger e 0x09 (sect / 8) [sect, temp, 0]

/-- RAIL_FAULT: a rail below 90 % for 10 us stops the clocks until PWRGD falls and rises; the record is written while VDD_MGMT, rail 15,
holds (R527, R532). -/
def execRailFault (rail : Nat) (s : State) : Host.Outcome State Fault Refusal :=
  s.onDev fun e d =>
    if 16 ≤ rail ∨ !d.mgmt.power then d
    else
      let d := d.mg fun m => { m with alert := true, clocksOff := true }
      if rail = 15 then d else d.ledger e 0x08 12 [0xFF, rail]

/-! Clock switches (R19, R135, R475). -/

/-- The cores of a section whose arrays are enabled. -/
def sectArrays (e : Env) (s : Nat) : List Nat := ((List.range 8).map (fun i => 8 * s + i)).filter (fun c => bit e.chip.arrays c)

/-- The sum of n levels that rise from one, or fall to it. -/
def levelSum (lo n : Nat) : Nat := n * lo + n * (n - 1) / 2

/-- An array freezes for a switch and ramps down from its level; what it ran before is counted (R134, R135). -/
def Dev.arrFreeze (d : Dev) (c : Nat) : Dev :=
  let a := d.arr c
  let now := d.cycles (sectOf c)
  let n := d.arrCycles c
  let lv := a.levelAt now
  let d := match a.st with
    | .freeze => d.freezeCycles c n
    | .idleGap => d.dummy c (min 63 n) (64 * min 63 n)
    | .rampDown => d.dummy c (a.level - lv) (levelSum (lv + 1) (a.level - lv))
    | .rampUp => d.dummy c (lv - a.level) (levelSum a.level (lv - a.level))
    | _ => d
  d.setArr c { a with clockFreeze := true, st := if lv = 0 then .off else .rampDown,
                      level := if a.st = .rampDown then lv else lv - 1, since := now,
                      midTile := a.hasTile && (a.midTile || a.st == .run) }

/-- An array reaches level 0: its ramp is counted (R135). -/
def Dev.arrDown (d : Dev) (c : Nat) : Dev :=
  let a := d.arr c
  if a.st = .rampDown then (d.dummy c a.level (levelSum 1 a.level)).setArr c { a with st := .off, level := 0 } else d

/-- The switch has ended: the cycles a waiting tile lost are freeze cycles, and an array with work ramps up (R133, R135; log
entry 53). -/
def Dev.arrThaw (d : Dev) (c : Nat) : Dev :=
  let a := d.arr c
  let now := d.cycles (sectOf c)
  let n := (now - a.since) / 4
  let d := if a.hasTile ∧ n ≠ 0 then (d.bump (ARRAY_FREEZE.COUNT c) n).pmc c none (d.sectOwner (sectOf c)) 11 n else d
  d.setArr c { a with clockFreeze := false, level := 0, since := now, st := if a.hasTile then .rampUp else .off }

/-- CLOCK_SWITCH_REQUEST: a section is to run at its wanted ACLK; a raise comes once the set point is confirmed (R470, R475, R529;
log entry 52). -/
def execClockSwitchRequest (sect mhz : Nat) (s : State) : Host.Outcome State Fault Refusal :=
  s.onDev fun e d =>
    let cur := d.get (MGMT_SECTION.MHZ sect)
    let half := sect / 8
    let want := d.wanted e sect
    let goal := if cur < want then max cur (min want (d.mgmt.vddSet.look half)) else want
    if 16 ≤ sect ∨ (d.mgmt.switch.look sect).isSome ∨ mhz ≠ goal ∨ mhz = cur ∨ !e.past d.mgmt.lastSwitch 1000 ∨
        !(d.governs e || (d.restarts e && !d.mgmt.clocksOff)) then d
    else
      let d := d.mg fun m => { m with
        switch := m.switch.put sect (some { new := mhz, begun := false }), lastSwitch := e.stamp,
        vddOk := if cur < mhz then m.vddOk.put half (m.vddSet.look half) else m.vddOk }
      (sectArrays e sect).foldl (fun d c => d.arrFreeze c) d

/-- CLOCK_SWITCH_BEGIN: every array of the section is at level 0, and its quarters stop issuing (R19, R135). -/
def execClockSwitchBegin (sect : Nat) (s : State) : Host.Outcome State Fault Refusal :=
  s.onDev fun e d =>
    match d.mgmt.switch.look sect with
    | some w =>
      if w.begun then d
      else (sectArrays e sect).foldl (fun d c => d.arrDown c) (d.mg fun m => { m with switch := m.switch.put sect (some { w with begun := true }) })
    | none => d

/-- Loads of other sections that waited for the scratchpads of a section read them now (R20). -/
def Dev.remoteReads (d : Dev) (s : Nat) : Dev :=
  (List.range 8).foldl (fun d i =>
    let c := 8 * s + i
    let asks := d.core.groups.flatMap (fun x => (x.2.accs.flatMap (fun a => a.waits.filter (fun w => w.1 == .remote c))).flatMap (fun w => w.2))
    if asks.isEmpty then d
    else
      let d := asks.foldl (fun d p => d.spCheck c p.2.1 p.2.2) d
      let data := fun (o n : Nat) => (d.spRead c o n, d.anyPoison (spAddr c o) n)
      let gs := d.core.groups.map (fun x => (x.1, { x.2 with accs := x.2.accs.map (fun a => a.answer (.remote c) data) }))
      { d with core := { d.core with groups := gs } }) d

/-- CLOCK_SWITCH_END: the section runs at the new ACLK, and what waited for it goes on; the switch is logged as an act (R19, R20,
R468). -/
def execClockSwitchEnd (sect : Nat) (s : State) : Host.Outcome State Fault Refusal :=
  s.onDev fun e d =>
    match d.mgmt.switch.look sect with
    | some w =>
      if !w.begun then d
      else
        let old := d.get (MGMT_SECTION.MHZ sect)
        let d := d.put (MGMT_SECTION.MHZ sect) w.new
        let d := d.mg fun m => { m with switch := m.switch.put sect none, actLow := min m.actLow w.new, actHigh := max m.actHigh w.new }
        let d := ((sectArrays e sect).foldl (fun d c => d.arrThaw c) d).remoteReads sect
        let d := (d.moverRun e 0).moverRun e 1
        (d.lowerVdd e (sect / 8)).autoAct e 1 sect old w.new 0
    | none => d

/-! Section gating (R280, R283, R474, R522). -/

/-- Cores of a section lose their power: caches, function tables and arrays are empty (R474; log entry 56). -/
def Dev.powerDown (d : Dev) (s : Nat) : Dev :=
  let mine := fun (c : Nat) => sectOf c == s
  let k : CoreSys :=
    { d.core with
      l1 := Sparse.clearIf d.core.l1 (fun x => mine (x / 2048)), plru := Sparse.clearIf d.core.plru (fun x => mine (x / 128)),
      husk := Sparse.clearIf d.core.husk mine, ftab := Sparse.clearIf d.core.ftab (fun x => mine (x / 4)),
      icache := Sparse.clearIf d.core.icache (fun x => mine (x / 2 ^ 64)), fills := d.core.fills.filter (fun f => !mine f.core) }
  let d := { d with core := k }
  (List.range 8).foldl (fun d i =>
    let a := d.arr (8 * s + i)
    d.setArr (8 * s + i) { a with st := .off, level := 0, since := d.cycles s }) d

/-- SECTION_GATE: a section with no resident block for GATE_IDLE_MS (R474, R475). -/
def execSectionGate (sect : Nat) (s : State) : Host.Outcome State Fault Refusal :=
  s.onDev fun e d =>
    let ms := d.mgmt.cfg.gateIdleMs
    let since := d.mgmt.idleSince.look sect
    if 16 ≤ sect ∨ !d.governs e ∨ ms = 0 ∨ d.get (MGMT_SECTION.GATED sect) = 1 ∨ !d.sectIdle sect ∨ since = 0 ∨
        !e.past since (ms * 1000000) ∨ !e.past d.mgmt.lastGate 20000 ∨ (d.mgmt.switch.look sect).isSome then d
    else
      let d := d.put (MGMT_SECTION.GATED sect) 1
      let d := d.mg fun m => { m with gateAt := m.gateAt.put sect e.stamp, lastGate := e.stamp }
      ((d.powerDown sect).lowerVdd e (sect / 8)).autoAct e 2 sect 0 1 0

/-- SECTION_UNGATE: the section is powered for a block that Chanter waits to place there; its L1s are invalidated (R234, R474, R475). -/
def execSectionUngate (sect : Nat) (s : State) : Host.Outcome State Fault Refusal :=
  s.onDev fun e d =>
    if 16 ≤ sect ∨ !d.governs e ∨ d.get (MGMT_SECTION.GATED sect) = 0 ∨ !e.past d.mgmt.lastGate 20000 ∨
        !d.core.launches.any (fun l => d.wantsSection e l == some sect) then d
    else
      let d := (List.range 8).foldl (fun d i => d.invalidateL1 (8 * sect + i)) (d.put (MGMT_SECTION.GATED sect) 0)
      let d := d.mg fun m => { m with gateAt := m.gateAt.put sect 0, lastGate := e.stamp, idleSince := m.idleSince.put sect e.stamp }
      (d.raiseVdd e).autoAct e 2 sect 1 0 0

/-- A section's undrained stores are discarded (R280). -/
def Dev.discardSect (d : Dev) (s : Nat) : Dev × Nat :=
  d.discardStores
    (fun r => match r.src with | .core c => sectOf c == s | _ => false)
    (fun z => sectOf z.gid.core == s)
    (fun w => sectOf w.core == s)
    (fun x => match x.owner with | .store gs => !gs.isEmpty && gs.all (fun g => sectOf g.1.core == s) | _ => false)
    (fun o => match o.src with | .group g _ _ => sectOf g.core == s | _ => false)

/-- GATING_DRAIN_LIMIT: 10 us after the gating, what has not drained is discarded and reported (R280, R283, R522). -/
def execGatingDrainLimit (sect : Nat) (s : State) : Host.Outcome State Fault Refusal :=
  s.onDev fun e d =>
    let at' := d.mgmt.gateAt.look sect
    if 16 ≤ sect ∨ at' = 0 ∨ !e.past at' 10000 then d
    else
      let d := d.mg fun m => { m with gateAt := m.gateAt.put sect 0 }
      let d := (List.range 8).foldl (fun d i => d.traceDiscard (8 * sect + i) (fun _ => true)) d
      let r := d.discardSect sect
      if r.2 = 0 then r.1 else r.1.postD e 0x21 31 31 [sect, r.2]

/-! The watchdog, the fabric's lanes and ports (R468, R476). -/

/-- WATCHDOG. `pc`: the firmware program counter at expiry. -/
def execWatchdog (pc : DWord) (s : State) : Host.Outcome State Fault Refusal :=
  s.onDev fun e d =>
    if !d.mgmt.power ∨ d.mgmt.bootStep < 3 then d
    else
      let d := d.mg fun m => { m with restartAt := e.stamp, alert := true }
      let d := (d.put MGMT_POWER_STATUS.TARGET_MHZ 200).mg fun m => { m with reached200 := true }
      ((d.postD e 0x86 31 31 [pc.toNat]).ledger e 0x0B 12 [pc.toNat]).platformEvent 0x86 pc.toNat

/-- LANE_RETUNE: a second has passed on a port; what it corrected is counted (R428), and a lane of a port above CE_PER_S is retuned, at
most once per port and minute (R468). -/
def execLaneRetune (r : LaneCount) (s : State) : Host.Outcome State Fault Refusal :=
  s.onDev fun e d =>
    let l := r.port
    if 192 ≤ l ∨ !d.linkUp l then d
    else
      let d := d.bump (LP_FEC.CORRECTED l) r.corrected
      if !d.governs e ∨ r.corrected ≤ d.mgmt.cfg.cePerS ∨ !e.past (d.mgmt.retune.look l) 60000000000 then d
      else (d.mg fun m => { m with retune := m.retune.put l e.stamp }).autoAct e 6 l 0 0 0

/-- PORT_RETRAIN: a port above 10 uncorrectable codewords in a second goes down to train again; beyond RETRAIN_PER_H in an hour it
stays down (R468; log entry 59). DEDUCED: the codewords that brought it down count no more (log entry 113). -/
def execPortRetrain (l : Nat) (s : State) : Host.Outcome State Fault Refusal :=
  s.onDev fun e d =>
    if 192 ≤ l ∨ !d.governs e ∨ !d.linkUp l ∨ (d.fecSecond e l).length ≤ 10 then d
    else
      let d := d.mg fun m => { m with fecAt := m.fecAt.put l [] }
      let recent := (d.mgmt.retrain.look l).filter (fun t => decide (e.time < t + 3600000000000))
      if recent.length < d.mgmt.cfg.retrainPerH then
        ((d.mg fun m => { m with retrain := m.retrain.put l (recent ++ [e.time]) }).portDown e l).autoAct e 7 l 1 1 0
      else
        ((d.mg fun m => { m with portHeld := m.portHeld.put l true }).portDown e l).autoAct e 7 l 1 0 0

end Sys2Proof.Machine
end

