-- ==== Sys2Proof/Machine/Telemetry.lean ====
section
/-! DEFINITION. The life ledger (R480-R482), MCTP with PLDM and the OEM commands (R483, R484), SPDM attestation (R485). The bytes of
the answers are laid out by the model where the manual names an outside standard (log entry 61). -/

namespace Sys2Proof.Machine

/-! The life ledger. -/

/-- A record fails its CRC when read (R480). -/
def Dev.ledgerBad (d : Dev) (r : LedgerRec) : Bool := r.bad || d.upset (.ledger r.seq) == .uncorrectable

/-- A record that has not been erased. -/
def Dev.ledgerFind (d : Dev) (seq : Nat) : Option LedgerRec := (d.mgmt.ledger ++ d.mgmt.wait).find? (fun r => r.seq == seq)

/-- LEDGER_WRITE: the oldest waiting record is written; during a commit records wait (R467, R480). -/
def execLedgerWrite (s : State) : Host.Outcome State Fault Refusal :=
  s.onDev fun _ d =>
    match d.mgmt.wait with
    | r :: t =>
      if !d.mgmt.power ∨ d.mgmt.committing then d
      else d.mg fun m => { m with ledger := m.ledger ++ [r], wait := t }
    | [] => d

/-- Records written after the newest checkpoint. -/
def sinceCheckpoint (checks : List Nat) (l : List LedgerRec) : Nat :=
  match checks.getLast? with
  | some c => l.length - (l.findIdx (fun r => r.seq == c) + 1)
  | none => l.length

/-- The ledger with the oldest sectors erased as space is needed, none younger than the second-newest checkpoint (R481). -/
def eraseOld (checks : List Nat) (l : List LedgerRec) : List LedgerRec :=
  let excess := l.length + 8192 - 524288
  let keepFrom := match checks.reverse with
    | _ :: c :: _ => l.findIdx (fun r => r.seq == c)
    | _ => 0
  l.drop (min (ceilDiv excess 1024 * 1024) (keepFrom / 1024 * 1024))

/-- LEDGER_CHECKPOINT: every 8 sectors; where the body lies, and its length, are open (R481; log entry 62). -/
def execLedgerCheckpoint (s : State) : Host.Outcome State Fault Refusal :=
  s.onDev fun e d =>
    if !d.mgmt.power ∨ d.mgmt.committing ∨ sinceCheckpoint d.mgmt.checks d.mgmt.ledger < 8192 then d
    else
      let a := d.fresh
      let b := a.2.fresh
      let seq := b.2.mgmt.nextSeq
      let d := b.2.ledger e 0x0C 12 [a.1, b.1]
      d.mg fun m => { m with checks := m.checks ++ [seq], ledger := eraseOld (m.checks ++ [seq]) m.ledger }

/-- Records created in the second of a time. -/
def Dev.recordsIn (d : Dev) (second : Nat) : Nat :=
  ((d.mgmt.ledger ++ d.mgmt.wait).filter (fun r => r.time / 1000000000 == second)).length

/-- AUTO_SUMMARY: the acts of a second and the ACLK range in it; beyond 200 records in the second it is dropped and counted (R468,
R480, R481). -/
def execAutoSummary (s : State) : Host.Outcome State Fault Refusal :=
  s.onDev fun e d =>
    let n := fun (k : Nat) => min 65535 (d.mgmt.acts.look k)
    if !d.mgmt.power ∨ !d.mgmt.acts.any (fun x => x.2 != 0) then d
    else
      let w := fun (k : Nat) => n k + n (k + 1) * 2 ^ 16 + n (k + 2) * 2 ^ 32 + n (k + 3) * 2 ^ 48
      let mhz := (List.range 16).map (fun s => d.get (MGMT_SECTION.MHZ s))
      let d' := if 200 ≤ d.recordsIn (e.time / 1000000000) then d.bump MGMT_LEDGER_STATUS.DROPPED 1
        else d.ledger e 0x06 12 [w 1, w 5, d.mgmt.actLow + d.mgmt.actHigh * 2 ^ 16]
      d'.mg fun m => { m with acts := [], actLow := mhz.foldl min 800, actHigh := mhz.foldl max 200 }

/-- The words that a function's MGMT_LEDGER_DATA shows. -/
def Dev.ledgerShow (d : Dev) (f : Nat) (found : Bool) (bs : List Byte) : Dev :=
  let d := d.put (MGMT_LEDGER_IDX.FOUND.bank f) (b2n found)
  (List.range 8).foldl (fun d j => d.put ((MGMT_LEDGER_DATA.WORD j).bank f) (leOf ((bs.drop (8 * j)).take 8))) d

/-- A write of MGMT_LEDGER_IDX by a function: the record is shown in its own data words (R432, R482). -/
def Dev.wrLedgerIdx (d : Dev) (f v : Nat) : Dev :=
  let seq := bits v 0 32
  let d := d.put (MGMT_LEDGER_IDX.SEQ.bank f) seq
  match d.ledgerFind seq with
  | some r =>
    if d.ledgerBad r then (d.bump MGMT_LEDGER_STATUS.BAD 1).ledgerShow f false [] else d.ledgerShow f true r.bytes
  | none => d.ledgerShow f false []

/-- LEDGER_INDEX_WRITE. -/
def execLedgerIndexWrite (f : Nat) (value : DWord) (s : State) : Host.Outcome State Fault Refusal :=
  s.onDev fun _ d => if f < 32 then d.wrLedgerIdx f value.toNat else d

/-! MCTP and PLDM (R483, R484; log entry 61). -/

/-- An answer over MCTP, once the firmware runs. -/
def Dev.answer (d : Dev) (bs : List Byte) : Dev := if d.mgmt.power ∧ 3 ≤ d.mgmt.bootStep then d.emit (.mctp bs) else d

/-- A short answer: type, item, completion code. -/
def pldmHead (type id code : Nat) : List Byte := [BitVec.ofNat 8 type, BitVec.ofNat 8 id, BitVec.ofNat 8 code]

/-- SET_ENDPOINT_ID. -/
def execSetEndpointId (eid : Nat) (s : State) : Host.Outcome State Fault Refusal :=
  s.onDev fun _ d =>
    if !d.mgmt.power ∨ d.mgmt.bootStep < 3 then d else (d.mg fun m => { m with eid := eid % 256 }).answer (pldmHead 0x7E 1 0 ++ leBytes 1 eid)

/-- The reading of a PLDM sensor (R483). -/
def Dev.sensor (d : Dev) (id : Nat) : Option Nat :=
  if id = 1 then some (d.get MGMT_POWER_STATUS.PACKAGE_W)
  else if id = 2 then some (d.get MGMT_POWER.EFFECTIVE)
  else if 3 ≤ id ∧ id ≤ 18 then some (d.get (MGMT_SECTION.TEMP (id - 3)))
  else if 19 ≤ id ∧ id ≤ 26 then some (d.get (HBM_CH_STATUS.TEMP (16 * (id - 19))))
  else if 27 ≤ id ∧ id ≤ 42 then some (d.get (MGMT_SECTION.MHZ (id - 27)))
  else if id = 43 then some (d.get HBM_CAPACITY.CAPACITY_MIB)
  else if id = 44 then some (d.get ARRAY_INFO.ENABLED_COUNT)
  else if id = 45 then some ((List.range 192).filter (fun l => d.linkUp l)).length
  else none

/-- PLDM_REQUEST: Types 0 and 2 are answered, others with an error (R483). -/
def execPldmRequest (type id : Nat) (data : List Byte) (s : State) : Host.Outcome State Fault Refusal :=
  s.onDev fun _ d =>
    if type = 0 then d.answer (pldmHead 0 id 0 ++ data)
    else if type = 2 then
      match d.sensor id with
      | some v => d.answer (pldmHead 2 id 0 ++ leBytes 8 v)
      | none => d.answer (pldmHead 2 id 1)
    else d.answer (pldmHead type id 5)

/-- SET_BMC_CAP: effecter 1; it acts from the next fast check (R469). -/
def execSetBmcCap (watts : Nat) (s : State) : Host.Outcome State Fault Refusal :=
  s.onDev fun _ d =>
    if !d.mgmt.power ∨ d.mgmt.bootStep < 3 then d else (d.put MGMT_POWER.BMC_CAP watts).answer (pldmHead 2 1 0)

/-- READ_LEDGER (R482, R484). -/
def execReadLedger (seq : Nat) (s : State) : Host.Outcome State Fault Refusal :=
  s.onDev fun _ d =>
    match d.ledgerFind seq with
    | some r => if d.ledgerBad r then (d.bump MGMT_LEDGER_STATUS.BAD 1).answer (pldmHead 63 1 1) else d.answer (pldmHead 63 1 0 ++ r.bytes)
    | none => d.answer (pldmHead 63 1 1)

/-- A command of the management bus that burns fuses: its answer, and the fuses it leaves (R484). -/
def State.burn (s : State) (item : Nat) (ok : Bool) (k : Chip → Chip) : Host.Outcome State Fault Refusal :=
  let run := s.dev.mgmt.power && decide (3 ≤ s.dev.mgmt.bootStep)
  .next { s with
    chip := if run && ok then k s.chip else s.chip,
    dev := s.dev.answer (pldmHead 63 item (b2n (!ok))) }

/-- PROVISION_KEY: burns the digest of a slot once, on the management bus alone (R484). -/
def execProvisionKey (onBus : Bool) (slot digest : Nat) (s : State) : Host.Outcome State Fault Refusal :=
  let free := onBus && decide (slot < 4) && !s.chip.keyProg.getD slot false && !s.chip.keyRevoked.getD slot false
  s.burn 2 free fun c => { c with keyDigest := setAt c.keyDigest slot digest, keyProg := setAt c.keyProg slot true }

/-- REVOKE_KEY (R484). -/
def execRevokeKey (onBus : Bool) (slot : Nat) (s : State) : Host.Outcome State Fault Refusal :=
  let free := onBus && decide (slot < 4) && !s.chip.keyRevoked.getD slot false
  s.burn 3 free fun c => { c with keyRevoked := setAt c.keyRevoked slot true }

/-! SPDM (R485). -/

/-- An SPDM answer: version, code, body. -/
def spdmMsg (code : Nat) (body : List Byte) : List Byte := [0x12, BitVec.ofNat 8 code] ++ body

/-- An SPDM error: 1 invalid, 3 busy, 4 unexpected request. -/
def spdmError (code : Nat) : List Byte := spdmMsg 0x7F [BitVec.ofNat 8 code]

/-- A request is answered once step 2 has ended and the requests before it in the exchange have been; else with an error (R485). -/
def Dev.spdmServe (d : Dev) (level : Nat) (k : Dev → Dev) : Dev :=
  if !d.mgmt.power then d
  else if d.mgmt.bootStep < 3 then d.emit (.mctp (spdmError 3))
  else if d.mgmt.spdm < level then d.emit (.mctp (spdmError 4))
  else k d

/-- GET_VERSION. -/
def execGetVersion (s : State) : Host.Outcome State Fault Refusal :=
  s.onDev fun _ d => d.spdmServe 0 fun d => (d.mg fun m => { m with spdm := 1 }).emit (.mctp [0x10, 0x04, 0, 0, 0, 1, 0, 0x12])

/-- GET_CAPABILITIES: certificates, challenges, signed measurements; no session. -/
def execGetCapabilities (s : State) : Host.Outcome State Fault Refusal :=
  s.onDev fun _ d => d.spdmServe 1 fun d => (d.mg fun m => { m with spdm := max 2 m.spdm }).emit (.mctp (spdmMsg 0x61 (leBytes 4 0x16)))

/-- NEGOTIATE_ALGORITHMS: SM2 and SM3, and no other. -/
def execNegotiateAlgorithms (sm2 sm3 : Bool) (s : State) : Host.Outcome State Fault Refusal :=
  s.onDev fun _ d =>
    d.spdmServe 2 fun d =>
      if sm2 && sm3 then (d.mg fun m => { m with spdm := 3 }).emit (.mctp (spdmMsg 0x63 [1, 1])) else d.emit (.mctp (spdmError 1))

/-- A 32-byte digest. -/
def digest32 (n : Nat) : List Byte := (leBytes 32 n).reverse

/-- GET_DIGESTS: of slot 0. -/
def execGetDigests (s : State) : Host.Outcome State Fault Refusal :=
  s.onDev fun e d => d.spdmServe 3 fun d => d.emit (.mctp (spdmMsg 0x01 (1 :: digest32 (Config.sm3 e.chip.chain))))

/-- GET_CERTIFICATE: a portion of the slot 0 chain. -/
def execGetCertificate (slot off len : Nat) (s : State) : Host.Outcome State Fault Refusal :=
  s.onDev fun e d =>
    d.spdmServe 3 fun d =>
      if slot ≠ 0 ∨ e.chip.chain.length < off then d.emit (.mctp (spdmError 1))
      else
        let part := (e.chip.chain.drop off).take len
        d.emit (.mctp (spdmMsg 0x02 (leBytes 2 part.length ++ leBytes 2 (e.chip.chain.length - off - part.length) ++ part)))

/-- A signature of the device key over a message (R461, R485; log entry 14). -/
def devSign (msg : List Byte) : List Byte := Config.sm2Sign 0 (Config.sm3 msg)

/-- CHALLENGE: the responder's nonce is open. -/
def execChallenge (slot nonce : Nat) (s : State) : Host.Outcome State Fault Refusal :=
  s.onDev fun e d =>
    d.spdmServe 3 fun d =>
      if slot ≠ 0 then d.emit (.mctp (spdmError 1))
      else
        let r := d.fresh
        let body := digest32 (Config.sm3 e.chip.chain) ++ leBytes 32 r.1
        r.2.emit (.mctp (spdmMsg 0x03 (body ++ devSign (leBytes 32 nonce ++ body))))

/-- The fuses as bytes. -/
def Chip.bytes (c : Chip) : List Byte :=
  leBytes 16 c.arrays ++ leBytes 1 c.grade ++ leBytes 8 c.serial ++ leBytes 32 c.fwKey ++ leBytes 32 c.cfgKey ++
  c.keyDigest.flatMap (fun x => leBytes 32 x) ++ c.keyProg.map (fun b => BitVec.ofNat 8 (b2n b)) ++ c.keyRevoked.map (fun b => BitVec.ofNat 8 (b2n b))

/-- A measurement of the running boot (R485). -/
def measurement (c : Chip) (d : Dev) (a : AcornSys) (i : Nat) : List Byte :=
  match i with
  | 1 => leBytes 4 Config.romVersion ++ digest32 (Config.sm3 c.bytes)
  | 2 => digest32 (d.mgmt.digests.look 0)
  | 3 => leBytes 4 d.mgmt.fwVersion
  | 4 => digest32 (d.mgmt.digests.look 1)
  | 5 => leBytes 1 (d.get GLOBAL_STATUS.OVERLAY) ++ digest32 (d.mgmt.digests.look 3)
  | 6 => leBytes 1 (d.get GLOBAL_STATUS.MODE + d.get GLOBAL_STATUS.BUDDY_EN * 8 + d.get GLOBAL_STATUS.CFG_DEFAULTED * 16)
  | 7 => (List.range 4).map (fun k => BitVec.ofNat 8 (b2n (c.keyProg.getD k false) + 2 * b2n (c.keyRevoked.getD k false)))
  | 8 => leBytes 4 a.fwVersion ++ leBytes 4 a.fwSum
  | 9 => digest32 (Config.sm3 (leBytes 16 c.arrays ++ d.mem.chanMap.map (fun g => BitVec.ofNat 8 g)))
  | _ => []

/-- GET_MEASUREMENTS: index 0 asks for their number, 255 for all. -/
def execGetMeasurements (index nonce : Nat) (signed : Bool) (s : State) : Host.Outcome State Fault Refusal :=
  s.onDev fun e d =>
    d.spdmServe 3 fun d =>
      let is := if index = 255 then (List.range 9).map (fun i => i + 1) else if 1 ≤ index ∧ index ≤ 9 then [index] else []
      if 9 < index ∧ index ≠ 255 then d.emit (.mctp (spdmError 1))
      else
        let body := leBytes 1 (if index = 0 then 9 else is.length) ++ is.flatMap (fun i =>
          let m := measurement e.chip d s.acorn i
          leBytes 1 i ++ leBytes 2 m.length ++ m)
        let r := d.fresh
        let body := body ++ leBytes 32 r.1
        r.2.emit (.mctp (spdmMsg 0x60 (if signed then body ++ devSign (leBytes 32 nonce ++ body) else body)))

end Sys2Proof.Machine
end

