-- ==== Sys2Proof/Machine/Boot.lean ====
section
/-! DEFINITION. Power, device reset and the boot of Bassoon (R241, R282, R439, R456-R459, R530, R542), configuration images
(R461-R464), recovery and staging (R465-R467), the HBM maintenance state (R479), fatal errors (R452, R468). -/

namespace Sys2Proof.Machine

/-! Device reset. -/

/-- Every dirty sector is written back and the L2 is left empty (R241). -/
def Dev.writeBack (d : Dev) : Dev :=
  let d := (d.mem.l2.filter (fun x => x.2.held && x.2.dirty)).foldl (fun d x => d.l2Evict x.1) d
  { d with mem := { d.mem with l2 := [] } }

/-- The counts of every mapped channel, as the ledger keeps them (R256; log entry 64). -/
def Dev.keepChannels (d : Dev) : Dev :=
  (List.range 128).foldl (fun d g =>
    if bit (d.get (HBM_MAP.MAPPED (g / 64))) (g % 64) then
      (List.range 15).foldl (fun d w => d.mg fun m => { m with
        chanRegs := m.chanRegs.put (16 * g + w + 1) (BitVec.ofNat 64 (d.reg (HBM_CH_STATUS.off g + 8 * (w + 1)))) }) d
    else d) d

/-- An image that was being programmed when its commit was cut short fails its checks (R467); why is open. -/
def Dev.damage (d : Dev) (target index : Nat) : Dev :=
  let r := d.fresh
  let bad := fun (i : CfgImage) => { i with fail := 1 + r.1 % 3 }
  r.2.mg fun m =>
    match target with
    | 0 => { m with flashFw := { m.flashFw with ok := false } }
    | 1 => { m with flashBase := bad m.flashBase }
    | _ => { m with flashOverlay := m.flashOverlay.put index (bad (m.flashOverlay.get (fun _ => CfgImage.empty) index)) }

/-- A commit in progress is cut short. -/
def Dev.cutCommit (d : Dev) : Dev :=
  match d.mgmt.programming with
  | some (t, i, _) => d.damage t i
  | none => d

/-- What Bassoon keeps over a device reset: pins, fuses' images, the ledger and what it records (log entry 64). -/
def MgmtSys.kept (m : MgmtSys) : MgmtSys :=
  { MgmtSys.reset with
    power := m.power, mode := m.mode, buddyEn := m.buddyEn, flashFw := m.flashFw, flashBase := m.flashBase,
    flashOverlay := m.flashOverlay, ledger := m.ledger, wait := m.wait, nextSeq := m.nextSeq, checks := m.checks,
    retireMap := m.retireMap, chanRegs := m.chanRegs, incarnation := m.incarnation, onAt := m.onAt, onNs := m.onNs,
    tripCount := m.tripCount, fatalCount := m.fatalCount, mapMade := m.mapMade, thermtrip := m.thermtrip, clocksOff := m.clocksOff }

/-- An error that lies in the flash. -/
def upsetInFlash (u : Upset) : Bool :=
  match u.site with
  | .ledger _ => true
  | _ => false

/-- An error that lies in HBM or in the flash. -/
def upsetLasts (u : Upset) : Bool :=
  match u.site with
  | .hbm _ | .hbmHard _ => true
  | _ => upsetInFlash u

/-- Device reset: stores that the L2 holds and everything in HBM survive, with what the board holds; all else is as after reset, and
the boot begins (R241, R280, R282, R439, R457, R459). MGMT_BOOT and FAB_BUDDY.RECOVERY stand (R421, R457). -/
def Dev.deviceReset (e : Env) (d : Dev) (cause : Nat) : Dev :=
  let d := (d.writeBack.keepChannels).cutCommit
  let boot := d.reg MGMT_BOOT.off
  let recovery := d.get FAB_BUDDY.RECOVERY
  let m : MemSys :=
    { MemSys.reset with
      cells := d.mem.cells.filter (fun c => decide (c.1 < hbmEnd)), poison := Sparse.clearIf d.mem.poison (fun w => decide (hbmEnd ≤ w * 8)),
      host := d.mem.host, ueTimes := d.mem.ueTimes, below := d.mem.below, upsets := d.mem.upsets.filter upsetLasts, failed := d.mem.failed, chanMap := d.mem.chanMap, touched := d.mem.touched }
  let r : Dev :=
    { Dev.reset with
      mem := m, core := { CoreSys.reset with repair := d.core.repair }, free := d.free, out := d.out, toAcorn := d.toAcorn,
      host := { HostSys.reset with perst := d.host.perst },
      mgmt := { d.mgmt.kept with bootStep := 1, bootAt := e.time, stepAt := e.time, cause := cause } }
  ((r.setReg MGMT_BOOT.off boot).put FAB_BUDDY.RECOVERY recovery).setBuddy
    { r.fab.buddy with start := true, ledgerAcked := d.fab.buddy.ledgerAcked }

/-- A repair without a row, bank or failure that an SP_REPAIR record carries (R219, R480). -/
def Repair.without (r : Repair) (w : Nat) : Repair :=
  match bits w 24 8 with
  | 3 => { r with failed := false }
  | 2 => { r with bank := none }
  | _ => { r with rows := r.rows.filter (fun x => x != (bits w 8 8, bits w 16 8)) }

/-- What Bassoon reads back from the flash ledger: repairs and retirements whose records were not written are lost with them (R226,
R480, R481). -/
def Dev.forgetUnwritten (d : Dev) : Dev :=
  d.mgmt.wait.foldl (fun d r =>
    let w := (r.payload.getD 0 0).toNat
    let c := bits w 0 8
    if r.type = 3 then { d with core := { d.core with repair := d.core.repair.put c ((d.core.repair.look c).without w) } }
    else if r.type = 4 then d.mg fun m => { m with retireMap := m.retireMap.filter (fun g => g != c) }
    else d) d

/-- POWER_OFF: PWRGD falls; HBM, L2 and every record not yet written are lost; the counts of the ledger window stand in the ledger
(R241, R253, R480, R530, R533; log entries 62 and 64). -/
def execPowerOff (s : State) : Host.Outcome State Fault Refusal :=
  s.onDev fun e d =>
    if !d.mgmt.power then d
    else
      let d := d.keepChannels.cutCommit.forgetUnwritten
      let k := d.mgmt.kept
      let r : Dev :=
        { Dev.reset with
          mem := { MemSys.reset with host := d.mem.host, ueTimes := d.mem.ueTimes, below := d.mem.below, upsets := d.mem.upsets.filter upsetInFlash },
          core := { CoreSys.reset with repair := d.core.repair }, free := d.free,
          out := d.out, toAcorn := d.toAcorn, host := { HostSys.reset with perst := d.host.perst },
          mgmt := { k with power := false, wait := [], mapMade := false, thermtrip := false, clocksOff := false,
                           onNs := k.onNs + (e.time - k.onAt), cause := if k.thermtrip then 4 else 0 } }
      r.setBuddy { r.fab.buddy with ledgerAcked := (k.ledger.map (fun x => x.seq)).foldl max 0 }

/-- POWER_ON: PWRGD rises with the straps as the board holds them (R456, R457, R535). -/
def execPowerOn (mode : BitVec 3) (buddyEn : Bool) (s : State) : Host.Outcome State Fault Refusal :=
  s.onDev fun e d =>
    if d.mgmt.power then d
    else
      let d := d.mg fun m => { m with
        power := true, mode := mode, buddyEn := buddyEn, bootStep := 1, bootAt := e.time, stepAt := e.time, onAt := e.time }
      d.setBuddy { d.fab.buddy with start := true }

/-- A write of GLOBAL_RESET (R437, R439). -/
def Dev.wrReset (e : Env) (d : Dev) (src : Src) (v : Nat) : Dev :=
  d.guardOwn e src GLOBAL_RESET.off true fun d => if bit v 0 then d.deviceReset e 1 else d.note GLOBAL_RESET.off v

/-- WARM_RESET. -/
def execWarmReset (src : Src) (value : DWord) (s : State) : Host.Outcome State Fault Refusal :=
  s.onDev fun e d => if d.mgmt.power then d.wrReset e src value.toNat else d

/-! Configuration (R461-R464). -/

/-- The key of an image is one that its slot admits (R462). -/
def Chip.keyOk (c : Chip) (i : CfgImage) : Bool :=
  if i.keySlot = 15 then i.keyDigest == c.cfgKey
  else decide (i.keySlot < 4) && c.keyProg.getD i.keySlot false && !c.keyRevoked.getD i.keySlot false &&
    c.keyDigest.getD i.keySlot 0 == i.keyDigest

/-- Why an image fails on its own; 0 it passes (R462, R486). -/
def Chip.imageFail (c : Chip) (i : CfgImage) : Nat := if i.fail ≠ 0 then i.fail else if c.keyOk i then 0 else 4

/-- A register that the FABRIC section sets, with a value that its map admits (R463). -/
def fabricRegOk (p : Nat × Nat) : Bool :=
  match regAt p.1 with
  | some (r, _, _) =>
    (r == FAB_ID.row || r == FAB_PREFIX.row || r == FAB_CTL.row || r == PHY_CFG.row || r == LP_CFG.row || r == LP_MAC.row) &&
    (p.2 ||| r.rw) == r.rw
  | none => false

/-- The values of a section lie in their ranges (R463). -/
def CfgSection.inRange : CfgSection → Bool
  | .power cap => cap == 1600 || cap == 1200 || cap == 900
  | .autonomy a b c x y f => decide (f ≤ 1) && [a, b, c, x, y].all (fun n => decide (n < 2 ^ 32))
  | .fabric rs ptp => rs.all fabricRegOk && ptp.all (fun l => decide (l < 192))
  | .buddy id ports mask => decide (id < 0xFFFFF) && (id == 0 || ports.length == 2) && ports.all (fun l => decide (l < 192)) && decide (mask < 2 ^ 64)
  | .hbm floors _ _ w => floors.length == 8 && floors.all (fun x => decide (x < 256)) && decide (w < 16)
  | .bus _ a _ => decide (a < 128)
  | .other _ => false

/-- The IDs of a list of sections are known ones, none twice. -/
def idsOk (l : List CfgSection) : Bool :=
  let is := l.map (fun s => s.id)
  is.all (fun i => decide (1 ≤ i) && decide (i ≤ 6)) && is.eraseDups.length == is.length

/-- The merge of base and overlay: the sections, or the failing image and the reason (R463, R486; log entry 65). -/
def cfgMerge (c : Chip) (base upper : CfgImage) : Except (Nat × Nat) (List CfgSection) :=
  let rb := c.imageFail base
  let ro := c.imageFail upper
  if rb ≠ 0 ∨ ro ≠ 0 then .error (b2n (rb != 0) + 2 * b2n (ro != 0), if rb ≠ 0 then rb else ro)
  else if !idsOk base.sections then .error (1, 5)
  else if !idsOk upper.sections then .error (2, 5)
  else
    let has := fun (i : Nat) => upper.sections.any (fun s => s.id == i)
    let merged := upper.sections ++ base.sections.filter (fun s => !has s.id)
    if merged.length ≠ 6 then .error (1, 5)
    else
      match merged.find? (fun s => !s.inRange) with
      | some s => .error (if has s.id then 2 else 1, 6)
      | none => .ok merged

/-- A section is applied. -/
def Dev.applySection (d : Dev) : CfgSection → Dev
  | .power cap => (d.mg fun m => { m with cfg := { m.cfg with cap := cap } })
  | .autonomy a b c x y f => d.mg fun m => { m with
      cfg := { m.cfg with gateIdleMs := a, scanIntervalH := b, maxRetire := c, cePerS := x, retrainPerH := y, fatalAction := f } }
  | .fabric rs ptp => (rs.foldl (fun d r => d.setReg r.1 r.2) d).mg fun m => { m with cfg := { m.cfg with ptpPorts := ptp } }
  | .buddy id ports mask => (d.mg fun m => { m with
      cfg := { m.cfg with buddyId := id, buddyPorts := ports, buddyMask := mask, buddyPresent := id != 0 } })
  | .hbm floors n h w => (d.put HBM_QOS.BULK_WEIGHT w).mg fun m => { m with
      cfg := { m.cfg with floors := floors, retireCount := n, retireHours := h, bulkWeight := w } }
  | .bus i3c a vdm => d.mg fun m => { m with cfg := { m.cfg with busI3c := i3c, busAddr := a, mctpVdm := vdm } }
  | .other _ => d

/-- The overlay in use (R457). -/
def Dev.overlayNo (d : Dev) : Nat := if d.get MGMT_BOOT.OVERRIDE = 1 then d.get MGMT_BOOT.OVERLAY else d.mgmt.mode.toNat

/-- An overlay image in flash. -/
def Dev.overlayImage (d : Dev) (i : Nat) : CfgImage := d.mgmt.flashOverlay.get (fun _ => CfgImage.empty) i

/-- The configuration is checked and applied, or the factory defaults are (R463, R464). -/
def Dev.configure (e : Env) (d : Dev) : Dev :=
  let o := d.overlayNo
  let base := d.mgmt.flashBase
  let upper := d.overlayImage o
  let d := d.put GLOBAL_STATUS.OVERLAY o
  let d := match cfgMerge e.chip base upper with
    | .ok l => l.foldl (fun (d : Dev) s => d.applySection s) d
    | .error (image, reason) =>
      let d := d.mg fun m => { m with cfg := Config.defaults }
      ((d.put GLOBAL_STATUS.CFG_DEFAULTED 1).put GLOBAL_STATUS.CFG_FAIL_IMAGE image).put GLOBAL_STATUS.CFG_FAIL_REASON reason
  let both := Config.sm3 (base.bytes ++ upper.bytes)
  let d := d.mg fun m => { m with digests := [(0, Config.sm3 m.flashFw.bytes), (1, Config.sm3 base.bytes), (2, both), (3, Config.sm3 upper.bytes)] }
  let d := (d.put MGMT_POWER.OVERLAY_CAP d.mgmt.cfg.cap).put MGMT_POWER.EFFECTIVE d.mgmt.cfg.cap
  d.report e (.boot o (d.get GLOBAL_STATUS.CFG_DEFAULTED == 1) (both / 2 ^ 128))

/-! The boot steps (R456). -/

/-- Ports that have left PERST# answer configuration requests (R441). -/
def Dev.portsReady (d : Dev) : Dev :=
  { d with host := { d.host with crs := [(0, d.host.perst.look 0), (1, d.host.perst.look 1)] } }

/-- A boot step begins. -/
def Dev.bootTo (e : Env) (d : Dev) (step : Nat) : Dev := d.mg fun m => { m with bootStep := step, stepAt := e.time }

/-- Step 1: fuses and straps (R138, R457). -/
def Dev.boot1 (e : Env) (d : Dev) : Dev :=
  let n := ((List.range 128).filter (fun c => bit e.chip.arrays c)).length
  let d := ((d.setReg (ARRAY_MASK.off 0) (e.chip.arrays % 2 ^ 64)).setReg (ARRAY_MASK.off 1) (e.chip.arrays / 2 ^ 64))
  let d := (((d.put ARRAY_INFO.ENABLED_COUNT n).put ARRAY_INFO.GRADE e.chip.grade).put ARRAY_INFO.PER_SECTION (n / 16))
  ((d.put GLOBAL_STATUS.MODE d.mgmt.mode.toNat).put GLOBAL_STATUS.BUDDY_EN (b2n d.mgmt.buddyEn)).bootTo e 2

/-- Step 2: the incarnation rises; a firmware image that fails leaves the ROM recovery loader running, else the configuration is
applied (R456, R464, R465, R542). -/
def Dev.boot2 (e : Env) (d : Dev) : Dev :=
  let d := d.mg fun m => { m with incarnation := (m.incarnation + 1) % 2 ^ 32 }
  let d := d.put GLOBAL_STATUS.INCARNATION d.mgmt.incarnation
  let d := d.ledger e 0x02 12 [d.mgmt.cause]
  if !d.mgmt.flashFw.ok then
    ((d.put GLOBAL_STATUS.RECOVERY 1).mg fun m => { m with bootStep := 0, alert := true }).portsReady
  else
    let d := d.mg fun m => { m with fwVersion := m.flashFw.version }
    (d.configure e).bootTo e 3

/-- Step 3: the repair map is applied and the boot march runs; every bank ends zeroed and owned by UNOWNED (R219, R222). -/
def Dev.boot3 (e : Env) (d : Dev) (find : BootFind) : Dev :=
  let d := d.core.repair.foldl (fun d x =>
    let c := x.1
    let d := (d.put (SP_STATUS.FAILED c) (b2n x.2.failed)).put (SP_STATUS.SPARE_ROWS_USED c) x.2.rows.length
    match x.2.bank with
    | some b => (d.put (SP_STATUS.SPARE_BANK_USED c) 1).put (SP_STATUS.SPARE_FOR c) b
    | none => d) d
  let d := (List.range 128).foldl (fun d c =>
    let bad := (find.marchFails.filter (fun f => f.1 == c && decide (f.2.1 < 256) && decide (f.2.2 < 192))).map (fun f => f.2)
    let run : MarchRun := { core := c, alg := 3, preserve := false, fix := true, sets := 65535, boot := true, ctx := none, entry := none }
    let r := d.fixRows e c bad
    let w := marchResult run bad r.2
    let d := (r.1.setReg (SP_MARCH_RESULT.off c) w).postT e 0x42 31 31 [w + c * 2 ^ 57]
    (List.range 4).foldl (fun d j => d.setReg (SP_OWN.off c j) 0x03FF03FF03FF03FF) d) d
  let m : MemSys :=
    { d.mem with cells := d.mem.cells.filter (fun c => decide (c.1 < hbmEnd)), poison := Sparse.clearIf d.mem.poison (fun w => decide (hbmEnd ≤ w * 8)) }
  let d := (List.range 128).foldl (fun d g => d.put (HBM_CH_STATUS.STATE g) 1) { d with mem := m }
  d.bootTo e 4

/-- The channels in the order of MAP, without those left out (R242). -/
def mapOrder (out : List Nat) : List Nat :=
  ((List.range 128).map (fun p => p % 8 * 16 + p / 8)).filter (fun g => !out.contains g)

/-- MAP stands in the registers, with the usable capacity and the states of the channels (R242, R253, R256). -/
def Dev.setMap (d : Dev) : Dev :=
  let l := d.mem.chanMap
  let n := l.length
  let d := (d.put HBM_CAPACITY.CHANNELS n).put HBM_CAPACITY.CAPACITY_MIB (n * 5120)
  let d := (d.setReg (HBM_MAP.off 0) (maskOf (l.filter (fun g => decide (g < 64))))).setReg (HBM_MAP.off 1)
    (maskOf ((l.filter (fun g => decide (64 ≤ g))).map (fun g => g - 64)))
  (List.range 128).foldl (fun d g =>
    if l.contains g then d.put (HBM_CH_STATUS.STATE g) 0
    else
      let d := (List.range 15).foldl (fun d w => d.setReg (HBM_CH_STATUS.off g + 8 * (w + 1)) (d.mgmt.chanRegs.look (16 * g + w + 1)).toNat) d
      d.put (HBM_CH_STATUS.STATE g) 2) d

/-- A channel that the ledger records as retire-pending shows it (R256). -/
def Dev.showPending (d : Dev) (g : Nat) : Dev :=
  let r := HBM_RETIRE.PENDING (g / 64)
  ((d.put (HBM_CH_STATUS.RETIRE_PENDING g) 1).put HBM_CAPACITY.PENDING (d.get HBM_CAPACITY.PENDING + 1)).put r (setBits (d.get r) (g % 64) 1 1)

/-- Step 4: training results, repairs and margins; MAP is built at power-on, without the channels the ledger marks and those that fail
training, and kept at a warm reset; a channel that its margins mark now stays in service until the next power-on (R242, R252, R253,
R459). -/
def Dev.boot4 (e : Env) (d : Dev) (find : BootFind) : Dev :=
  let d := (d.mgmt.retireMap.eraseDups).foldl (fun d g => d.showPending g) d
  let d := find.repaired.foldl (fun d r => d.ledger e 0x05 (4 + r.1 / 16 % 8) [r.1, r.2.1, r.2.2]) d
  let scans := fun (d : Dev) => find.scans.foldl (fun d x => if x.1 < 128 then d.marginReport e x.1 2 x.2 else d) d
  let bad := find.failedChannels.filter (fun g => decide (g < 128))
  if d.mgmt.mapMade then
    scans ((bad.filter (fun g => d.mem.chanMap.contains g)).foldl (fun d g => d.channelDown e g 0) d.setMap)
  else
    let d := bad.foldl (fun d g => d.retireChannel e g 0) d
    let d := { d with mem := { d.mem with chanMap := mapOrder d.mgmt.retireMap } }
    scans (d.mg fun m => { m with mapMade := true }).setMap

/-- Step 6: the units start, READY is set and BOOT_DONE posted; the BOOT record is written (R456, R464, R480, R542). -/
def Dev.service (e : Env) (d : Dev) : Dev :=
  let d := (d.bootTo e 6).put GLOBAL_STATUS.READY 1
  let d := d.mg fun m => { m with idleSince := (List.range 16).map (fun s => (s, e.stamp)) }
  let st := d.reg GLOBAL_STATUS.off
  let d := d.ledger e 0x01 12 [bits st 1 16 + d.cu * 2 ^ 16, d.mgmt.fwVersion]
  let d := (d.setBuddy { d.fab.buddy with start := false }).buddyRefresh e
  d.postD e 0x84 31 31 [st, (e.time - d.mgmt.bootAt) / 1000 % 2 ^ 32]

/-- The end of step 4: ports answer; the resume begins where a buddy is configured (R424, R441, R464). -/
def Dev.afterHbm (e : Env) (d : Dev) : Dev :=
  let d := d.portsReady
  if !d.mgmt.buddyEn then d.service e
  else if !d.mgmt.cfg.buddyPresent then (d.resumeCold e 2).service e
  else (d.bootTo e 5).resumeAsk e e.chip.serial

/-- BOOT_STEP_COMPLETE. `find`: what the march and the training found. -/
def execBootStepComplete (find : BootFind) (s : State) : Host.Outcome State Fault Refusal :=
  s.onDev fun e d =>
    if !d.mgmt.power ∨ d.mgmt.clocksOff then d
    else
      match d.mgmt.bootStep with
      | 1 => d.boot1 e
      | 2 => d.boot2 e
      | 3 => d.boot3 e find
      | 4 => (d.boot4 e find).afterHbm e
      | 5 => if 3 ≤ d.fab.buddy.resume then d.service e else d
      | _ => d

/-- BUDDY_RESUME_TIMEOUT: 300 ms into step 5 without a resume the device boots cold (R424, R427). -/
def execBuddyResumeTimeout (s : State) : Host.Outcome State Fault Refusal :=
  s.onDev fun e d =>
    if d.mgmt.bootStep ≠ 5 ∨ 3 ≤ d.fab.buddy.resume ∨ e.time < d.mgmt.stepAt + 300000000 then d
    else
      let up := d.mgmt.cfg.buddyPorts.any (fun l => d.linkUp l)
      d.resumeCold e (if !up then 4 else if d.peerDead d.buddyId then 5 else 2)

/-! Staging (R465-R467). -/

/-- The sections of an image: ID, payload, CRC holds; none where they do not fill the image up to the signature block (R461). -/
def walkSections : Nat → List Byte → Option (List (Nat × List Byte × Bool))
  | 0, bs => if bs.length = 128 then some [] else none
  | n + 1, bs =>
    let h := leOf (bs.take 8)
    let len := bits h 32 32
    if bs.length < 16 + len ∨ len % 8 ≠ 0 ∨ bits h 16 16 ≠ 0 then none
    else
      let crc := leOf ((bs.drop 8).take 8)
      let body := (bs.drop 16).take len
      (walkSections n (bs.drop (16 + len))).map (fun t => (bits h 0 16, body, crc == crc32c body) :: t)

/-- A section by its ID. -/
def sectionOf (id : Nat) (body : List Byte) : CfgSection :=
  let s := cfgSection id body
  if s.id = id ∧ 1 ≤ id ∧ id ≤ 6 then s else .other id

/-- A configuration image read from its bytes (R461, R462). `kind`: 0 base, 1 overlay. -/
def parseImage (kind index : Nat) (bs : List Byte) : CfgImage :=
  let w0 := leOf (bs.take 8)
  let w1 := leOf ((bs.drop 8).take 8)
  let size := if kind = 0 then 0x100000 else 0x10000
  let slot := bits w0 48 4
  let head := bits w0 0 32 == 0x4643445A && bits w0 32 8 == 1 && bits w0 40 1 == kind && bits w0 41 3 == 0 &&
    bits w0 44 4 == index && (decide (slot < 4) || slot == 15) && bits w0 52 12 == 0 && bits w1 0 32 == bs.length &&
    decide (192 ≤ bs.length) && decide (bs.length ≤ size) && bits w1 48 16 == 0 && ((bs.drop 16).take 48).all (fun b => b == 0)
  let body := bs.take (bs.length - 128)
  let key := (bs.drop (bs.length - 128)).take 64
  let base : CfgImage := { fail := 1, keySlot := slot, keyDigest := Config.sm3 key, bytes := bs, sections := [] }
  match (if head then walkSections (bits w1 32 16) (bs.drop 64) else none) with
  | none => base
  | some l =>
    let secs := l.map (fun x => sectionOf x.1 x.2.1)
    { base with
      sections := secs,
      fail := if l.any (fun x => !x.2.2) then 2
              else if Config.sm2Verify key (Config.sm3 body) (bs.drop (bs.length - 64)) then 0 else 3 }

/-- A byte of the staged image: through the window it lies in the scratchpads of section 0, in service in HBM (R466). -/
def Dev.stagedByte (d : Dev) (i : Nat) : Byte :=
  if d.get GLOBAL_STATUS.RECOVERY = 1 then readByte d.mem.cells (spAddr (i / spSize) (i % spSize))
  else
    let v := d.homeSector ((d.get MGMT_STAGE_ADDR.ADDR + i) / 32)
    BitVec.ofNat 8 (bits v.1.toNat (8 * ((d.get MGMT_STAGE_ADDR.ADDR + i) % 32)) 8)

/-- The staged bytes. -/
def Dev.staged (d : Dev) (n : Nat) : List Byte := (List.range n).map (fun i => d.stagedByte i)

/-- Bassoon reads n staged bytes: the checks of each memory (R218, R245). -/
def Dev.stageTake (e : Env) (d : Dev) (n : Nat) : Dev :=
  if d.get GLOBAL_STATUS.RECOVERY = 1 then (List.range 8).foldl (fun d c => d.spCheck c 0 (min spSize (n - c * spSize))) d
  else (sectorSpan (d.get MGMT_STAGE_ADDR.ADDR) n).foldl (fun d s => d.l2Read e s 31 1) d

/-- The staging place of n bytes is one that R466 admits; the maintenance state shuts out every HBM access but Bassoon's (R479). -/
def Dev.stageOk (d : Dev) (n : Nat) : Bool :=
  let a := d.get MGMT_STAGE_ADDR.ADDR
  d.get GLOBAL_STATUS.RECOVERY == 1 ||
  (decide (a + n ≤ d.capacity) &&
    (List.range (shareOf (a + n - 1) - shareOf a + 1)).all (fun k => d.get (SHARE_OWN.OWNER (shareOf a + k)) == 31))

/-- A staging operation ends. -/
def Dev.stageEnd (d : Dev) (result : Nat) : Dev :=
  ((d.mg fun m => { m with stage := none }).put MGMT_STAGE_STATUS.STATE 0).put MGMT_STAGE_STATUS.RESULT result

/-- A passing image is being programmed (R466, R467). -/
def Dev.program (d : Dev) (st : Stage) (bs : List Byte) : Dev :=
  let d := (d.put MGMT_STAGE_STATUS.BYTES bs.length).put MGMT_STAGE_STATUS.STATE 3
  d.mg fun m => { m with programming := some (st.target, st.index, bs), committing := true }

/-- COMMIT: the staged image is checked; one that passes is programmed (R462, R463, R466). -/
def Dev.commitStage (e : Env) (d : Dev) (st : Stage) : Dev :=
  if !d.stageOk 64 then d.stageEnd 5
  else
    let d := d.stageTake e 64
    let head := d.staged 64
    let limit := if st.target = 0 then 0x3000000 else if st.target = 1 then 0x100000 else 0x10000
    let len := if st.target = 0 then Config.firmwareLength head else bits (leOf ((head.drop 8).take 8)) 0 32
    if len = 0 ∨ limit < len then d.stageEnd 2
    else if !d.stageOk len then d.stageEnd 5
    else
      let d := d.stageTake e len
      let bs := d.staged len
      if st.target = 0 then (if Config.firmwareOk bs then d.program st bs else d.stageEnd 1)
      else
        let i := parseImage (st.target - 1) (if st.target = 1 then 0 else st.index) bs
        let r := e.chip.imageFail i
        if r = 3 ∨ r = 4 then d.stageEnd 1
        else if r ≠ 0 then d.stageEnd 2
        else
          match (if st.target = 1 then cfgMerge e.chip i (d.overlayImage d.overlayNo) else cfgMerge e.chip d.mgmt.flashBase i) with
          | .ok _ => d.program st bs
          | .error _ => d.stageEnd 2

/-- A write of MGMT_STAGE_CTL (R466; log entry 66). -/
def Dev.wrStageCtl (e : Env) (d : Dev) (src : Src) (v : Nat) : Dev :=
  d.guardOwn e src MGMT_STAGE_CTL.off true fun d =>
    let d := d.note MGMT_STAGE_CTL.off v
    let busy := d.mgmt.programming.isSome
    let d := match d.mgmt.stage with
      | some st => d.mg fun m => { m with stage := some { st with page := bits v 8 6 } }
      | none => d
    match bits v 0 2 with
    | 1 =>
      if busy then d.put MGMT_STAGE_STATUS.RESULT 3
      else if bits v 2 2 = 3 then d.put MGMT_STAGE_STATUS.RESULT 2
      else (d.mg fun m => { m with stage := some { target := bits v 2 2, index := bits v 4 4, page := bits v 8 6 } }).put MGMT_STAGE_STATUS.STATE 1
    | 2 =>
      if busy then d.put MGMT_STAGE_STATUS.RESULT 3
      else
        match d.mgmt.stage with
        | some st => d.commitStage e st
        | none => d
    | 3 => if busy then d.put MGMT_STAGE_STATUS.RESULT 3 else (d.mg fun m => { m with stage := none }).put MGMT_STAGE_STATUS.STATE 0
    | _ => d

/-- STAGE_BEGIN. -/
def execStageBegin (src : Src) (value : DWord) (s : State) : Host.Outcome State Fault Refusal :=
  s.onDev fun e d => if bits value.toNat 0 2 = 1 then d.wrStageCtl e src value.toNat else d

/-- STAGE_COMMIT. -/
def execStageCommit (src : Src) (value : DWord) (s : State) : Host.Outcome State Fault Refusal :=
  s.onDev fun e d => if bits value.toNat 0 2 = 2 then d.wrStageCtl e src value.toNat else d

/-- STAGE_ABORT. -/
def execStageAbort (src : Src) (value : DWord) (s : State) : Host.Outcome State Fault Refusal :=
  s.onDev fun e d => if bits value.toNat 0 2 = 3 then d.wrStageCtl e src value.toNat else d

/-- The staging window in BAR0 (R466). -/
def stageWindow : Nat := 0x01900000

/-- A write through the staging window by function f: of the control owner, during recovery, onto the selected page; another
function's is refused (R437, R466). -/
def Dev.wrWindow (e : Env) (d : Dev) (f off : Nat) (bs : List Byte) : Dev :=
  if !d.isOwner f then d.refuse e f (stageWindow + off)
  else
    match d.mgmt.stage with
    | some st =>
      if d.get GLOBAL_STATUS.RECOVERY = 1 then
        (bs.zipIdx).foldl (fun d b =>
          let i := st.page * 0x100000 + off + b.2
          if i < 0x3000000 then { d with mem := { d.mem with cells := writeByte d.mem.cells (spAddr (i / spSize) (i % spSize)) b.1 } } else d) d
      else d
    | none => d

/-- STAGE_WINDOW_WRITE. -/
def execStageWindowWrite (f off : Nat) (data : List Byte) (s : State) : Host.Outcome State Fault Refusal :=
  s.onDev fun e d => if 0x100000 < off + data.length then d else d.wrWindow e f off data

/-- The image programmed. -/
def Dev.flashed (d : Dev) (target index : Nat) (bs : List Byte) : Dev :=
  d.mg fun m =>
    match target with
    | 0 => { m with flashFw := { ok := true, version := Config.firmwareVersion bs, bytes := bs } }
    | 1 => { m with flashBase := parseImage 0 0 bs }
    | _ => { m with flashOverlay := m.flashOverlay.put index (parseImage 1 index bs) }

/-- STAGE_COMMIT_DONE: programming and the comparison of the digest read back end; the UPDATE record is written, and the recovery
loader performs the warm reset (R466, R467, R480). -/
def execStageCommitDone (readBackOk : Bool) (s : State) : Host.Outcome State Fault Refusal :=
  s.onDev fun e d =>
    match d.mgmt.programming with
    | none => d
    | some (target, index, bs) =>
      let result := if readBackOk then 0 else 4
      let d := d.mg fun m => { m with programming := none, committing := false }
      let d := if readBackOk then d.flashed target index bs else d.damage target index
      let d := (d.stageEnd result).ledger e 0x0A 12 [target + index * 2 ^ 8 + result * 2 ^ 16, Config.sm3 bs / 2 ^ 192]
      if d.get GLOBAL_STATUS.RECOVERY = 1 ∧ readBackOk then d.deviceReset e 1 else d

/-! The HBM maintenance state (R250, R479). -/

/-- A write of MGMT_MAINT. -/
def Dev.wrMaint (e : Env) (d : Dev) (src : Src) (v : Nat) : Dev :=
  d.guardOwn e src MGMT_MAINT.off true fun d =>
    let d := d.note MGMT_MAINT.off v
    let held := (List.range 128).any (fun i => let o := d.get (SHARE_OWN.OWNER i); decide (o < 16) || o == 18)
    let d :=
      if bit v 0 ∧ d.get MGMT_MAINT.ACTIVE = 0 then
        if held then d.put MGMT_MAINT.RESULT 1
        else
          let d := ((d.put MGMT_MAINT.ACTIVE 1).put MGMT_MAINT.RESULT 0).put GLOBAL_STATUS.MAINT 1
          let d := (List.range 128).foldl (fun d g => if d.get (HBM_CH_STATUS.STATE g) = 0 then d.put (HBM_CH_STATUS.STATE g) 1 else d) d
          d.buddyRefresh e
      else d
    if bit v 1 ∧ d.get MGMT_MAINT.ACTIVE = 1 then (d.put MGMT_MAINT.RESULT 2).maintLeave e else d

/-- MAINT_ENTER. -/
def execMaintEnter (src : Src) (value : DWord) (s : State) : Host.Outcome State Fault Refusal :=
  s.onDev fun e d => if bit value.toNat 0 then d.wrMaint e src value.toNat else d

/-- MAINT_LEAVE. -/
def execMaintLeave (src : Src) (value : DWord) (s : State) : Host.Outcome State Fault Refusal :=
  s.onDev fun e d => if bit value.toNat 1 then d.wrMaint e src value.toNat else d

/-! Fatal errors (R452, R468). -/

/-- Every kernel is aborted (R100, R468; log entry 67). -/
def Dev.abortKernels (e : Env) (d : Dev) : Dev :=
  (d.core.launches.filter (fun l => l.live && !l.ending)).foldl (fun d l =>
    (d.setLaunch { d.launchOf l.id with aborted := true }).launchStop e l.id) d

/-- FATAL_ERROR: logged, RECOVERY set, then the device is held or reset as FATAL_ACTION says (R421, R452, R468, R480, R488). -/
def execFatalError (source addr : Nat) (s : State) : Host.Outcome State Fault Refusal :=
  s.onDev fun e d =>
    if !d.mgmt.power ∨ d.mgmt.bootStep < 3 then d
    else
      let action := d.mgmt.cfg.fatalAction
      let w := source % 256 + action % 2 * 256
      let d := (d.ledger e 0x08 12 [source, addr]).mg fun m => { m with fatalCount := m.fatalCount + 1 }
      let d := (d.put FAB_BUDDY.RECOVERY 1).buddyRefresh e
      let d := ((d.postDA e 0x85 [w]).platformEvent 0x85 w).autoAct e 8 source 0 action 0
      if action = 0 then (d.put GLOBAL_STATUS.FATAL_HELD 1).abortKernels e else d.deviceReset e 2

end Sys2Proof.Machine
end

