-- ==== Sys2Proof/Machine/Evq.lean ====
section
/-! DEFINITION. Reading and controlling the event FIFOs (R373, R377-R384, R541). -/

namespace Sys2Proof.Machine

/-- Function f is the reader of FIFO i (R373). -/
def Dev.isReader (d : Dev) (f i : Nat) : Bool := decide (i < evqCount) && d.evqReader i == some f

/-- A FIFO after a pop: the oldest word leaves; of an empty FIFO the last word stays and UNDERRUN is set (R379, R381,
R382). -/
def Evq.pop (q : Evq) (cap : Nat) : Evq :=
  match q.words with
  | [] => { q with underrun := true }
  | w :: t =>
    { q with words := t, rp := (q.rp + 1) % (2 * cap), last := w.data, lastEnd := w.fin, wordErr := q.wordErr || w.bad }

/-- The next word of a FIFO fails its check (R379). -/
def Evq.nextBad (q : Evq) : Bool :=
  match q.words with
  | w :: _ => w.bad
  | [] => false

/-- A pop by a function: the word it reads and what it leaves; another function than the reader reads 0 and moves nothing (R373). A
word that fails its check sets WORD_ERR, and its data as read are a free value; its end mark is taken as stored (R379). -/
def Dev.evqPop (d : Dev) (f i : Nat) : Nat × Dev :=
  if d.isReader f i then
    let q := (d.fifo i).pop (evqCapacity i)
    if (d.fifo i).nextBad then
      let v := d.fresh
      let q := { q with last := BitVec.ofNat 64 v.1 }
      (q.last.toNat, v.2.setFifo i q)
    else (q.last.toNat, d.setFifo i q)
  else (0, d)

/-- A FIFO after a forced reset (R379). -/
def Evq.forced (q : Evq) : Evq :=
  { q with words := [], rp := 0, wp := 0, lost := satAdd 32 q.lost q.pkts, resets := satAdd 16 q.resets 1 }

/-- A FIFO after a FLUSH: every record discarded and counted (R384). -/
def Evq.flush (q : Evq) : Evq :=
  { q with words := [], rp := q.wp, lost := satAdd 32 q.lost q.pkts }

/-- The pointer copies of FIFO i differ: forced reset and EVQ_PTR_FAULT (R379). -/
def Dev.evqPtrFault (e : Env) (d : Dev) (i : Nat) : Dev :=
  let n := (d.fifo i).pkts
  (d.setFifo i (d.fifo i).forced).postD e 0x50 31 31 [i, n]

/-- A write of EVQ_CTL by function f: the fields of the reader, then FLUSH, then REARM or the arming of an enable
(R383, R384; log entry 47: the order of a write that does several). Another function's write is discarded (R373). -/
def Dev.wrEvqCtl (d : Dev) (f i v : Nat) : Dev :=
  if d.isReader f i then
    let was := d.get (EVQ_CTL.IRQ_EN i)
    let d := d.note (EVQ_CTL.off i) v
    let d := d.put (EVQ_CTL.VECTOR i) (bits v 0 11)
    let d := d.put (EVQ_CTL.IRQ_EN i) (bits v 11 1)
    let d := d.put (EVQ_CTL.THRESH i) (bits v 14 17)
    let d := if bit v 13 then d.setFifo i (d.fifo i).flush else d
    if bit v 12 || (was == 0 && bit v 11) then (d.setFifo i { d.fifo i with armed := true }).evqInterrupt i else d
  else d

/-- A write of EVQ_STATUS by function f: UNDERRUN and WORD_ERR are cleared by 1 (R384). -/
def Dev.wrEvqStatus (d : Dev) (f i v : Nat) : Dev :=
  if d.isReader f i then
    let q := d.fifo i
    d.setFifo i { q with underrun := q.underrun && !(bit v 35), wordErr := q.wordErr && !(bit v 36) }
  else d

/-- A write of EVQ_CFG of a function FIFO: the control owner's (R373, R384). -/
def Dev.wrEvqCfg (e : Env) (d : Dev) (src : Src) (i v : Nat) : Dev :=
  if i < 32 then
    d.guardOwn e src (EVQ_CFG.off i) (d.get (EVQ_CFG.PART_MASK i) != bits v 0 16)
      (fun d => d.put (EVQ_CFG.PART_MASK i) (bits v 0 16))
  else d

/-- What EVQ_STATUS of FIFO i reads (R384). -/
def Dev.evqStatus (d : Dev) (i : Nat) : Nat :=
  let q := d.fifo i
  q.words.length + q.pkts * 2 ^ 17 + b2n q.lastEnd * 2 ^ 34 + b2n q.underrun * 2 ^ 35 + b2n q.wordErr * 2 ^ 36

/-- What EVQ_INFO of FIFO i reads (R384). -/
def Dev.evqInfo (d : Dev) (i : Nat) : Nat :=
  evqCapacity i + (if i < 32 then 0 else 2 ^ 17) + (d.fifo i).resets * 2 ^ 32

/-- A function-level reset returns its FIFO to its reset state; EVQ_CFG keeps its value (R541). -/
def Dev.evqReset (d : Dev) (f : Nat) : Dev := (d.setFifo f Evq.empty).setReg (EVQ_CTL.off f) 0

/-- EVQ_POP: an 8-byte read of EVQ_DATA (R373, R381, R382, R384). -/
def execEvqPop (f i : Nat) (s : State) : Host.Outcome State Fault Refusal :=
  s.onDev fun _ d => if i < evqCount then ((d.evqPop f i).2).emit (.value f (BitVec.ofNat 64 (d.evqPop f i).1)) else d

/-- EVQ_PTR_FAULT (R379). -/
def execEvqPtrFault (i : Nat) (s : State) : Host.Outcome State Fault Refusal :=
  s.onDev fun e d => if i < evqCount then d.evqPtrFault e i else d

/-- REARM: a write of EVQ_CTL with REARM set (R383). -/
def execRearm (f i : Nat) (value : DWord) (s : State) : Host.Outcome State Fault Refusal :=
  s.onDev fun _ d => if bit value.toNat 12 then d.wrEvqCtl f i value.toNat else d

/-- FLUSH: a write of EVQ_CTL with FLUSH set (R384). -/
def execFlush (f i : Nat) (value : DWord) (s : State) : Host.Outcome State Fault Refusal :=
  s.onDev fun _ d => if bit value.toNat 13 then d.wrEvqCtl f i value.toNat else d

/-- EVQ_IRQ_ENABLE: a write of EVQ_CTL with IRQ_EN set (R383). -/
def execEvqIrqEnable (f i : Nat) (value : DWord) (s : State) : Host.Outcome State Fault Refusal :=
  s.onDev fun _ d => if bit value.toNat 11 then d.wrEvqCtl f i value.toNat else d

end Sys2Proof.Machine
end

