-- ==== Sys2Proof/Machine/Recorder.lean ====
section
/-! DEFINITION. Recorder (R515-R526): samples, the drain engines, the counters and their controls. -/

namespace Sys2Proof.Machine

/-- The group a sample takes: the first resident one of the quarter in slot order after the one sampled last (R516). -/
def Dev.sampleSlot (d : Dev) (core q last : Nat) : Option Nat :=
  ((List.range 16).map (fun i => (last + i) % 16)).find? (fun k => (d.grp { core := core, quarter := q, slot := k }).live)

/-- PC_SAMPLE: an interval of ACLK cycles has passed on a core; the next quarter in rotation is sampled (R515, R516). -/
def execPcSample (core : Nat) (s : State) : Host.Outcome State Fault Refusal :=
  s.onDev fun e d =>
    if 128 ≤ core ∨ d.get REC_CTL.ENABLE = 0 ∨ d.get REC_CTL.PC_INTERVAL = 0 then d
    else
      let b := d.core.trace.look core
      let now := d.cycles (sectOf core)
      if now < b.sampled + 4 * d.get REC_CTL.PC_INTERVAL then d
      else
        let q := b.quarter % 4
        let slot := d.sampleSlot core q (b.slots.getD q 0)
        let slots := (List.range 4).map (fun k => if k = q then slot.elim (b.slots.getD k 0) (fun x => x + 1) else b.slots.getD k 0)
        let d := { d with core := { d.core with trace := d.core.trace.put core { b with quarter := (q + 1) % 4, slots := slots, sampled := now } } }
        match slot with
        | none => d
        | some k =>
          let g : Gid := { core := core, quarter := q, slot := k }
          let x := d.grp g
          let pc := match x.settled with
            | .run pc _ _ => pc
            | _ => x.pc
          d.trace e 8 g (d.launchOf x.launch).part (bits pc.toNat 3 32)

/-! The drain engines (R519-R521). -/

/-- Packets of a ring: 2^SIZE, SIZE held to 10-26 (R526; log entry 70). -/
def Dev.recSize (d : Dev) (h : Nat) : Nat := max 10 (min 26 (d.get (REC_RING_SIZE.SIZE h)))

/-- The address of a ring. -/
def Dev.recBase (d : Dev) (h : Nat) : Nat := d.get (REC_RING_BASE.BASE h) * 4096

/-- A core has a burst to move: 32 packets, or an oldest one of 1 us (R519). -/
def Dev.burstReady (e : Env) (d : Dev) (c : Nat) : Bool :=
  match (d.core.trace.look c).packets with
  | [] => false
  | p :: t => decide (31 ≤ t.length) || decide (p.w1.toNat + 1000 ≤ e.time)

/-- The core that the engine of a half serves next. -/
def Dev.nextDrain (e : Env) (d : Dev) (h : Nat) : Option Nat :=
  let last := d.core.drainLast.getD h 63 % 64
  ((List.range 64).map (fun i => 64 * h + (last + 1 + i) % 64)).find? (fun c => d.burstReady e c)

/-- TRACE_DRAIN_BURST: up to 32 packets of the core served next go to the ring of its half, within the budget of the window of
1,024 NCLK cycles (640 ns), in the bulk class; a pending LOST then enters the buffer (R247, R518-R521). -/
def execTraceDrainBurst (half core : Nat) (s : State) : Host.Outcome State Fault Refusal :=
  s.onDev fun e d =>
    let prod := d.get (REC_RING_PROD.PROD half)
    let held := (prod + 2 ^ 32 - d.get (REC_RING_CONS.CONS half)) % 2 ^ 32
    let size := 2 ^ d.recSize half
    if 2 ≤ half ∨ d.get REC_CTL.ENABLE = 0 ∨ d.nextDrain e half ≠ some core ∨ size ≤ held then d
    else
      let b := d.core.trace.look core
      let n := min (min 32 b.packets.length) (size - held)
      let win := e.time / 640
      let used := if d.core.drainWin.getD half 0 = win then d.core.drainUsed.getD half 0 else 0
      let mark := fun (d : Dev) (u : Nat) =>
        { d with core := { d.core with drainUsed := setAt d.core.drainUsed half u, drainWin := setAt d.core.drainWin half win } }
      if 307200 < used + 16 * n then
        if 307200 < used then d else (mark d (307201 + used)).bump REC_STATUS.THROTTLED ((640 - e.time % 640) * 8 / 5)
      else
        let d := mark d (used + 16 * n)
        let out := b.packets.take n
        let d := (out.zipIdx).foldl (fun d p =>
          d.writeHome (d.recBase half + (prod + p.2) % size * 16) 31 (leBytes 8 p.1.w0.toNat ++ leBytes 8 p.1.w1.toNat) false 2) d
        let rest := b.packets.drop n
        let lost : List Trace :=
          if b.lost = 0 then [] else [(⟨traceW0 0 { core := core, quarter := 0, slot := 0 } b.lost, BitVec.ofNat 64 e.time, 31⟩ : Trace)]
        let d := { d with core := { d.core with
          trace := d.core.trace.put core { b with packets := rest ++ lost, lost := 0 }, drainLast := setAt d.core.drainLast half core } }
        (d.put (REC_RING_PROD.PROD half) (prod + n)).moved 31 (16 * n)

/-! Controls (R520, R525). -/

/-- A ring lies in HBM shares owned by UNOWNED (R520). -/
def Dev.recRingOk (d : Dev) (h : Nat) : Bool :=
  let a := d.recBase h
  let n := 2 ^ d.recSize h * 16
  decide (a + n ≤ d.capacity) && d.get MGMT_MAINT.ACTIVE == 0 &&
  (List.range (shareOf (a + n - 1) - shareOf a + 1)).all (fun k => d.get (SHARE_OWN.OWNER (shareOf a + k)) == 31)

/-- Every counter of a core is zeroed (R525). -/
def Dev.clearCore (d : Dev) (c : Nat) : Dev :=
  let d := (List.range 14).foldl (fun d k => d.put (CNT_CLASS.COUNT c k) 0) d
  let d := (List.range 9).foldl (fun d w => d.put (CNT_MX.COUNT c w) 0) d
  let d := (List.range 8).foldl (fun d i => d.put (PMC.COUNT c i) 0) d
  d.put (CNT_DUMMY.COUNT c) 0

/-- A write of REC_CTL: ENABLE from 0 to 1 is refused over a ring out of place, the other fields stand; CLEAR zeroes counters (R520,
R525; log entry 70). -/
def Dev.wrRecCtl (e : Env) (d : Dev) (src : Src) (v : Nat) : Dev :=
  let was := d.get REC_CTL.ENABLE
  d.guardOwn e src REC_CTL.off (d.reg REC_CTL.off != bits v 0 49 || bit v 49) fun d =>
    let d := (d.note REC_CTL.off v).setReg REC_CTL.off (bits v 0 49)
    let d := if bit v 0 ∧ was = 0 then
        if d.recRingOk 0 && d.recRingOk 1 then d.put REC_STATUS.ENABLE_RESULT 0
        else (d.put REC_CTL.ENABLE 0).put REC_STATUS.ENABLE_RESULT 1
      else d
    if bit v 49 then
      let cores := d.reg (REC_CLEAR_CORES.off 0) + d.reg (REC_CLEAR_CORES.off 1) * 2 ^ 64
      (maskList 128 cores).foldl (fun d c => d.clearCore c) d
    else d

/-- RECORDER_ENABLE. -/
def execRecorderEnable (src : Src) (value : DWord) (s : State) : Host.Outcome State Fault Refusal :=
  s.onDev fun e d => if bit value.toNat 0 then d.wrRecCtl e src value.toNat else d

/-- COUNTER_CLEAR. -/
def execCounterClear (src : Src) (value : DWord) (s : State) : Host.Outcome State Fault Refusal :=
  s.onDev fun e d => if bit value.toNat 49 then d.wrRecCtl e src value.toNat else d

/-- A write of PMC_SEL zeroes its counter (R525). -/
def Dev.wrPmcSel (e : Env) (d : Dev) (src : Src) (c i v : Nat) : Dev :=
  d.guardOwn e src (PMC_SEL.off c i) (d.reg (PMC_SEL.off c i) != bits v 0 29) fun d =>
    (d.setReg (PMC_SEL.off c i) (bits v 0 29)).put (PMC.COUNT c i) 0

/-- PMC_SELECT. -/
def execPmcSelect (src : Src) (core i : Nat) (value : DWord) (s : State) : Host.Outcome State Fault Refusal :=
  s.onDev fun e d => if core < 128 ∧ i < 8 then d.wrPmcSel e src core i value.toNat else d

end Sys2Proof.Machine
end

