-- ==== Sys2Proof/Machine/Host.lean ====
section
/-! DEFINITION. The host interface (R429-R441): ownership, bindings, resets, configuration requests, BAR4; and every read and
write of BAR0 (R28-R34), by a function or by a REG_WRITE (R352). -/

namespace Sys2Proof.Machine

/-! Ownership (R436). -/

/-- RESULT of a port's last request. -/
def ownResult (n : Nat) : Fld := if n = 0 then GLOBAL_OWNER.RESULT0 else GLOBAL_OWNER.RESULT1

/-- OWNER changes. -/
def Dev.setOwnerPort (d : Dev) (n : Nat) : Dev := (d.put GLOBAL_OWNER.OWNER n).incr GLOBAL_OWNER.SEQ

/-- A write of GLOBAL_OWNER by function f (R33, R368, R436). `same`: the other port's claim is decoded in the same cycle. -/
def Dev.wrOwner (e : Env) (d : Dev) (f v : Nat) (same : Bool) : Dev :=
  let n := portOf f
  let d := d.note GLOBAL_OWNER.off v
  let owner := d.get GLOBAL_OWNER.OWNER
  if !bit v 2 && !bit v 3 then d
  else if bit v 2 && bit v 3 then d.put (ownResult n) 6
  else if !isPF f then d.put (ownResult n) 3
  else if bit v 2 then
    if owner = n then d.put (ownResult n) 0
    else if owner = 3 then (d.setOwnerPort n).put (ownResult n) 0
    else if same && n == 1 then (d.put (ownResult n) 1).postF e 0x03 f 31 [n]
    else d.put (ownResult n) 2
  else if owner = n then (d.setOwnerPort 3).put (ownResult n) 4
  else d.put (ownResult n) 5

/-- CLAIM. -/
def execClaim (f : Nat) (value : DWord) (sameCycle : Bool) (s : State) : Host.Outcome State Fault Refusal :=
  s.onDev fun e d => if d.mgmt.power && bit value.toNat 2 && decide (f < 32) then d.wrOwner e f value.toNat sameCycle else d

/-- RELEASE. -/
def execRelease (f : Nat) (value : DWord) (s : State) : Host.Outcome State Fault Refusal :=
  s.onDev fun e d => if d.mgmt.power && bit value.toNat 3 && decide (f < 32) then d.wrOwner e f value.toNat false else d

/-- Ownership is lost (R436). -/
def Dev.loseOwner (d : Dev) (n : Nat) : Dev := if d.get GLOBAL_OWNER.OWNER = n then d.setOwnerPort 3 else d

/-! Bindings (R438). -/

/-- A second function would be bound to the partition. -/
def Dev.bindTaken (d : Dev) (f p : Nat) : Bool :=
  decide (p < 16) && (List.range 32).any (fun g => g != f && d.get (HOST_FUNC.PART g) == p)

/-- A write of HOST_FUNC[f]: the function's own fields, and PART by the control owner (R432, R437, R438). `g`: the function that
writes. -/
def Dev.wrHostFunc (e : Env) (d : Dev) (src : Src) (g f v : Nat) : Dev :=
  let d := if g = f || d.ownsWrite src then d.note (HOST_FUNC.off f) v else d
  let d := if g = f then
      let d := d.put (HOST_FUNC.BAR4_BASE f) (bits v 30 34)
      if bit v 5 then d.put (HOST_FUNC.BIND_REFUSED f) 0 else d
    else d
  let p := bits v 0 5
  d.guardOwn e src (HOST_FUNC.off f) (d.get (HOST_FUNC.PART f) != p) fun d =>
    if d.bindTaken f p then d.put (HOST_FUNC.BIND_REFUSED f) 1 else d.put (HOST_FUNC.PART f) p

/-- The function that a source's writes act as: the control owner's physical function for a REG_WRITE; 32 none. -/
def Dev.actsAs (d : Dev) : Src → Nat
  | .host f => f
  | .queue _ => d.ownerFunc.getD 32
  | .bassoon => 32

/-- HOST_FUNC_BIND. -/
def execHostFuncBind (src : Src) (f : Nat) (value : DWord) (s : State) : Host.Outcome State Fault Refusal :=
  s.onDev fun e d => if d.mgmt.power && decide (f < 32) then d.wrHostFunc e src (d.actsAs src) f value.toNat else d

/-! Resets (R439-R441). -/

/-- The queues whose commands a reset of function f stops: its own, and those of its partition. -/
def Dev.flrQueues (d : Dev) (f p : Nat) : List Nat :=
  (List.range 4096).filter (fun q =>
    (d.qFunc q == f || (decide (p < 16) && d.qPart q == p && !d.qKernel q)) &&
    (d.get (QUEUE_STATUS.STATE q) != 0 || !(d.fe.queues.look q).order.isEmpty))

/-- A queue's commands are stopped; a queue of another function stays enabled. -/
def Dev.flrQueue (e : Env) (d : Dev) (f q : Nat) : Dev × Nat :=
  if d.qFunc q = f then d.killQueue e q
  else
    let y := d.fe.queues.look q
    let d := y.order.foldl (fun (d : Dev) c => d.killCmd e c) d
    ({ d with fe := { d.fe with queues := d.fe.queues.put q { d.fe.queues.look q with order := [] } } }, y.order.length)

/-- The MSI-X state of a function is as at reset. -/
def Dev.msixReset (d : Dev) (f : Nat) : Dev :=
  { d with host := { d.host with
      msix := Sparse.clearRange d.host.msix (f * 0x1000) ((f + 1) * 0x1000), pba := Sparse.clearRange d.host.pba (f * 32) ((f + 1) * 32) } }

/-- A function-level reset of one function with its RESET_DONE record (R280, R281, R326, R370, R439, R440, R541). -/
def Dev.flrOne (e : Env) (d : Dev) (f : Nat) : Dev :=
  let p := d.get (HOST_FUNC.PART f)
  let qs := d.flrQueues f p
  let kernels := (d.core.launches.filter (fun l => l.live && qs.contains l.queue)).length
  let descs := (d.dma.engines.map (fun x => ((x.2.queue ++ x.2.ends.map (fun z => z.entry)).filter (fun (q : DmaEntry) => qs.contains (d.ctx q.ctx).queue)).length)).sum
  let r := qs.foldl (fun (r : Dev × Nat) q => let k := r.1.flrQueue e f q; (k.1, r.2 + k.2)) (d, 0)
  let st := if p < 16 then r.1.discardPart e p else (r.1, 0)
  let d := (st.1.evqReset f).msixReset f
  let w2 := f + p * 2 ^ 5 + (r.2 % 2 ^ 16) * 2 ^ 16 + (descs % 2 ^ 32) * 2 ^ 32
  (d.setReg (HOST_RESET_LAST.off f) w2).postD e 0x61 f p [w2, st.2, kernels % 2 ^ 16]

/-- A function-level reset: of a physical function also each of its virtual functions and its ownership (R436, R439). -/
def Dev.flr (e : Env) (d : Dev) (f : Nat) : Dev :=
  if isPF f then ((List.range 16).foldl (fun (d : Dev) i => d.flrOne e (f + i)) d).loseOwner (portOf f) else d.flrOne e f

/-- FLR. -/
def execFlr (f : Nat) (s : State) : Host.Outcome State Fault Refusal :=
  s.onDev fun e d => if d.mgmt.power && decide (f < 32) then d.flr e f else d

/-- HOST_LINK (R440). -/
def Dev.hostLink (e : Env) (d : Dev) (n : Nat) : Dev :=
  d.postD e 0x62 31 31
    [n + 2 * d.get (HOST_PORT.LINK_UP n) + 4 * d.get (HOST_PORT.RATE n) + 16 * d.get (HOST_PORT.WIDTH n)]

/-- The link of a port is down; what its window had under way is overtaken (R22). -/
def Dev.hostDown (e : Env) (d : Dev) (n : Nat) : Dev :=
  if d.get (HOST_PORT.LINK_UP n) = 1 then
    ((((d.windowLost n).put (HOST_PORT.LINK_UP n) 0).put (HOST_PORT.RATE n) 0).put (HOST_PORT.WIDTH n) 0).hostLink e n
  else d

/-- A port reset: its link and configuration space, every function of the port, ownership; the port answers CRS when it comes back
(R436, R439, R441). -/
def Dev.portReset (e : Env) (d : Dev) (n : Nat) : Dev :=
  let d := ((d.hostDown e n).flr e (16 * n)).loseOwner n
  { d with host := { d.host with
      cfg := Sparse.clearRange d.host.cfg (n * 16 * 1024) ((n + 1) * 16 * 1024), crs := d.host.crs.put n true, crsAt := d.host.crsAt.put n e.time } }

/-- PORT_RESET: PERST#[n] or Hot Reset. PERST# of a device without power is ignored, but for the pin (R531). -/
def execPortReset (n : Nat) (perst : Bool) (s : State) : Host.Outcome State Fault Refusal :=
  s.onDev fun e d =>
    if 2 ≤ n then d
    else
      let d := if perst then { d with host := { d.host with perst := d.host.perst.put n true } } else d
      if d.mgmt.power then d.portReset e n else d

/-- PCIE_LINK_DOWN: the link goes down, and the port is reset (R22, R436, R439). -/
def execPcieLinkDown (n : Nat) (s : State) : Host.Outcome State Fault Refusal :=
  s.onDev fun e d => if n < 2 ∧ d.mgmt.power ∧ d.get (HOST_PORT.LINK_UP n) = 1 then d.portReset e n else d

/-- PCIE_LINK_UP: the link has trained at a rate and a width; its CRS window begins (R429, R441). -/
def execPcieLinkUp (n rate width : Nat) (s : State) : Host.Outcome State Fault Refusal :=
  s.onDev fun e d =>
    if 2 ≤ n ∨ !d.mgmt.power ∨ d.host.perst.look n ∨ d.get (HOST_PORT.LINK_UP n) = 1 ∨ rate < 1 ∨ 3 < rate ∨ 2 < width then d
    else
      let d := (((d.put (HOST_PORT.LINK_UP n) 1).put (HOST_PORT.RATE n) rate).put (HOST_PORT.WIDTH n) width).hostLink e n
      { d with host := { d.host with crsAt := d.host.crsAt.put n e.time } }

/-- PERST_DEASSERTION: the port leaves reset (R441, R531). -/
def execPerstDeassertion (n : Nat) (s : State) : Host.Outcome State Fault Refusal :=
  s.onDev fun e d =>
    if 2 ≤ n ∨ !d.host.perst.look n then d
    else
      { d with host := { d.host with
          perst := d.host.perst.put n false, crs := d.host.crs.put n true, crsAt := d.host.crsAt.put n e.time } }

/-! Configuration requests (R430, R441; log entry 77). -/

/-- The Device ID of a function (R430). -/
def Dev.deviceId (d : Dev) (f : Nat) : Nat :=
  if isPF f then (if d.get GLOBAL_STATUS.RECOVERY = 1 then 0xD81F else 0xD810) else 0xD811

/-- What a configuration register reads: the Device ID and the Revision ID of R430; what was written to another one, and what that
leaves, is open. -/
def Dev.cfgRead (d : Dev) (f reg : Nat) : Nat × Dev :=
  if reg = 0 then ((Config.pciConfig f 0).toNat % 2 ^ 16 + d.deviceId f * 2 ^ 16, d)
  else if reg = 2 then ((Config.pciConfig f 2).toNat / 256 * 256 + 0x10, d)
  else if d.host.cfg.any (fun x => x.1 == f * 1024 + reg) then (d.fresh.1 % 2 ^ 32, d.fresh.2)
  else ((Config.pciConfig f reg).toNat, d)

/-- A port's CRS as a request finds it: the boot holds it; within 20 ms of its window it is the device's choice. -/
def Dev.crsNow (e : Env) (d : Dev) (n : Nat) : Bool × Dev :=
  if !d.host.crs.look n then (false, d)
  else if 1 ≤ d.mgmt.bootStep ∧ d.mgmt.bootStep ≤ 4 then (true, d)
  else if e.time < d.host.crsAt.look n + 20000000 then (d.fresh.1 % 2 == 1, d.fresh.2)
  else (false, d)

/-- CONFIG_REQUEST: a read, or a write of a value. -/
def execConfigRequest (f reg : Nat) (value : Option Word) (s : State) : Host.Outcome State Fault Refusal :=
  s.onDev fun e d =>
    let n := portOf f
    if 32 ≤ f ∨ 1024 ≤ reg ∨ !d.mgmt.power ∨ d.host.perst.look n then d
    else
      let r := d.crsNow e n
      let d := r.2
      if r.1 then d.emit (if reg = 0 ∧ value = none then .crsVendor f else .crs f)
      else
        let d := { d with host := { d.host with crs := d.host.crs.put n false } }
        if !isPF f && d.get GLOBAL_STATUS.RECOVERY == 1 then d.emit (.ur f)
        else
          match value with
          | none => let v := d.cfgRead f reg; v.2.emit (.value f (BitVec.ofNat 64 v.1))
          | some w => ({ d with host := { d.host with cfg := d.host.cfg.put (f * 1024 + reg) w } } : Dev).emit (.done f)

/-! BAR4 (R433). -/

/-- The address is inside the usable capacity, and inside the shares of the partition that the function is bound to. -/
def Dev.bar4Ok (d : Dev) (f a : Nat) : Bool :=
  let p := d.get (HOST_FUNC.PART f)
  d.placeLocal a == .hbm a && (!decide (p < 16) || d.get (SHARE_OWN.OWNER (shareOf a)) == p)

/-- The new value of a host AtomicOp: of a CAS, the value swapped in, where the compare value matches. -/
def hostAtomicNew (op : HostAtomic) (size old v compare : Nat) : Nat :=
  match op with
  | .fetchAdd => (old + v) % 2 ^ (8 * size)
  | .swap => v % 2 ^ (8 * size)
  | .cas => if old = compare % 2 ^ (8 * size) then v % 2 ^ (8 * size) else old

/-- BAR4_ACCESS: a read, a write, or an AtomicOp with a second operand (R429, R433). A read or an AtomicOp waits while a sector of it is
under repair (log entry 80). -/
def execBar4Access (f : Nat) (r : BarReq) (atomic : Option (HostAtomic × DWord)) (s : State) : Host.Outcome State Fault Refusal :=
  s.onDev fun e d =>
    let a := d.get (HOST_FUNC.BAR4_BASE f) * 2 ^ 30 + r.off
    if !d.mgmt.power then d
    else if d.hostHeld e f then d.emit (.ur f)
    else if r.size = 0 ∨ 8 < r.size ∨ !d.bar4Ok f a ∨ !d.bar4Ok f (a + r.size - 1) then d.emit (.ur f)
    else
      let p := d.get (HOST_FUNC.PART f)
      let taken := d.takeHome e a r.size p 1
      let data := (taken.homeBytes a r.size).getD ([], true)
      match atomic, r.value with
      | none, some v => ((d.writeHome a p (leBytes r.size v.toNat) false).moved p r.size).emit (.done f)
      | none, none =>
        if taken.repairing a r.size then taken
        else
          let d := taken.moved p r.size
          if data.2 then d.emit (.ep f) else d.emit (.value f (BitVec.ofNat 64 (leOf data.1)))
      | some op, v =>
        if !(r.size == 4 || r.size == 8) || a % r.size != 0 then d.emit (.ur f)
        else if taken.repairing a r.size then taken
        else
          let d := taken.moved p r.size
          if data.2 then d.emit (.ep f)
          else
            let old := leOf data.1
            let new := hostAtomicNew op.1 r.size old (v.getD 0).toNat op.2.toNat
            (d.writeHome a p (leBytes r.size new) false).emit (.value f (BitVec.ofNat 64 old))

/-! BAR0 (R28-R34). -/

/-- The MSI-X table word of an offset: function and word (R434). -/
def msixAt (off : Nat) : Option (Nat × Nat) :=
  if 0x01420000 ≤ off ∧ off < 0x01520000 then
    let f := (off - 0x01420000) / 0x8000
    let w := (off - 0x01420000) % 0x8000 / 8
    if w / 2 < vectors f then some (f, w) else none
  else none

/-- The pending-bit word of an offset. -/
def pbaAt (off : Nat) : Option (Nat × Nat) :=
  if 0x01600000 ≤ off ∧ off < 0x01602000 then
    let f := (off - 0x01600000) / 0x100
    let w := (off - 0x01600000) % 0x100 / 8
    if 64 * w < vectors f then some (f, w) else none
  else none

/-- The offset lies in the METER block. -/
def inMeter (off : Nat) : Bool := decide (0x01C00000 ≤ off) && decide (off < 0x02000000)

/-- The offset lies in the staging window. -/
def inWindow (off : Nat) : Bool := decide (stageWindow ≤ off) && decide (off < stageWindow + 0x100000)

/-- Registers of one function each, by its number. -/
def perFunc : List RegRow :=
  [EVQ_DATA.row, EVQ_STATUS.row, EVQ_LOST.row, EVQ_CTL.row, EVQ_CFG.row, EVQ_INFO.row, FE_FAULT_BASE.row, FE_FAULT_CTL.row,
   FE_FAULT_PROD.row, FE_FAULT_CONS.row, RT_RING_BASE.row, RT_RING_CTL.row, RT_RING_PROD.row, RT_RING_CONS.row, RT_REPLY_STATUS.row,
   RT_INVAL.row, RT_INVAL_STATUS.row, RT_REPLY.row, HOST_FUNC.row, HOST_RESET_LAST.row]

/-- Registers of one queue each. -/
def perQueue : List RegRow :=
  [QUEUE_CFG.row, QUEUE_RING.row, QUEUE_COMPL.row, QUEUE_CTL.row, QUEUE_STATUS.row, QUEUE_TAIL.row, QUEUE_ABORT.row, QUEUE_ABORT_STATUS.row]

/-- An offset that responds to function f: all to a physical function, the subset of R432 to a virtual one; of the recovery loader
GLOBAL, the staging registers and the window (R432, R465). Any other reads as reserved. -/
def Dev.visible (d : Dev) (f off : Nat) : Bool :=
  if d.get GLOBAL_STATUS.RECOVERY = 1 then
    decide (off < 0x100000) || inWindow off || off == MGMT_STAGE_CTL.off || off == MGMT_STAGE_ADDR.off || off == MGMT_STAGE_STATUS.off
  else if isPF f then true
  else if off < 0x1000 ∨ inMeter off then true
  else
    match msixAt off, pbaAt off, regAt off with
    | some (g, _), _, _ => g == f
    | _, some (g, _), _ => g == f
    | _, _, some (r, i, _) => r.who == .bank || (perFunc.contains r && i == f) || (perQueue.contains r && d.qFunc i == f)
    | _, _, none => false

/-- Where function f's value of a register lies: its own copy of a banked one (R432). -/
def regKey (r : RegRow) (f off : Nat) : Nat := if r.who = .bank then off + 0x10000000 * (f + 1) else off

/-- What a register of the maps reads; fields that show what a unit holds are computed from it. -/
def Dev.regValue (d : Dev) (r : RegRow) (i f off : Nat) : Nat :=
  let v := d.reg (regKey r f off)
  let with' := fun (x : Fld) (n : Nat) => setBits v x.lo x.w n
  if r = EVQ_STATUS.row then d.evqStatus i
  else if r = EVQ_INFO.row then d.evqInfo i
  else if r = EVQ_LOST.row then (d.fifo i).lost
  else if r = L2_STATUS.row then with' (L2_STATUS.DIRTY i) ((d.mem.l2.filter (fun x => x.2.held && x.2.dirty && d.sliceOf x.1 == i)).length)
  else if r = SP_PORT.row then with' (SP_PORT.LZ_FREE i) (d.lzFree i)
  else if r = TRACE_STATUS.row then with' (TRACE_STATUS.HELD i) (d.core.trace.look i).packets.length
  else if r = SP_STATUS.row then with' (SP_STATUS.SB_USED i) (d.mem.sb.filter (fun b => b.core == i)).length
  else if r = ARRAY_STATUS.row then d.arrayStatus i
  else if r = QUEUE_STATUS.row then
    with' (QUEUE_STATUS.ACTIVE i) ((d.fe.queues.look i).order.filter (fun c => (d.ctx c).active)).length
  else if r = FE_STATUS.row then
    setBits (with' FE_STATUS.CONTEXTS ((List.range 512).filter (fun c => (d.ctx c).live)).length)
      FE_STATUS.GRAPH_LAUNCHES.lo FE_STATUS.GRAPH_LAUNCHES.w (d.fe.runs.filter (fun x => x.live)).length
  else if r = GRAPH_INFO.row then with' (GRAPH_INFO.PINNED i) (d.fe.runs.filter (fun x => x.live && x.graph == i)).length
  else v

/-- The value of the eight bytes at an offset of BAR0 to function f. -/
def Dev.bar0Value (d : Dev) (a : AcornSys) (f off : Nat) : Nat :=
  if !d.visible f off then 0
  else if inMeter off then a.meter off
  else if inWindow off then
    match d.mgmt.stage with
    | some st =>
      let o := fun (i : Nat) => st.page * 0x100000 + (off - stageWindow) + i
      leOf ((List.range 8).map (fun i => readByte d.mem.cells (spAddr (o i / spSize) (o i % spSize))))
    | none => 0
  else
    match msixAt off, pbaAt off, regAt off with
    | some (g, w), _, _ => (d.msixWord g w).toNat
    | _, some (g, w), _ => (d.host.pba.look (g * 32 + w)).toNat
    | _, _, some (r, i, _) => d.regValue r i f off
    | _, _, none => 0

/-- The read-clear fields of a register are cleared, those of a mask (R8, R30). A device-wide one only for the control owner, one of a
FIFO for its reader (R384, R435). -/
def Dev.rcClear (d : Dev) (f off mask : Nat) : Dev :=
  match regAt off with
  | some (r, i, _) =>
    let m := r.rc &&& mask
    if m = 0 ∨ !d.visible f off then d
    else if r = EVQ_LOST.row then (if d.isReader f i then d.setFifo i { d.fifo i with lost := 0 } else d)
    else if r = EVQ_INFO.row then (if d.isReader f i then d.setFifo i { d.fifo i with resets := 0 } else d)
    else if d.isOwner f then d.setReg off (d.reg off - (d.reg off &&& m))
    else d
  | none => d

/-- The low and the high half of a word, as masks. -/
def lowHalf : Nat := 2 ^ 32 - 1
def highHalf : Nat := (2 ^ 32 - 1) * 2 ^ 32

/-- A read of 4 or 8 bytes (R29, R30): the value and what it leaves. -/
def Dev.bar0Read (d : Dev) (a : AcornSys) (f off size : Nat) : Nat × Dev :=
  let w := off / 8 * 8
  let key := f * 2 ^ 32 + w
  match regAt w with
  | some (r, i, _) =>
    if r = EVQ_DATA.row then (if d.visible f w then d.evqPop f i else (0, d))
    else
      let v := d.bar0Value a f w
      if size = 8 then (v, d.rcClear f w (lowHalf + highHalf))
      else if off = w then
        (v % 2 ^ 32, { d.rcClear f w (lowHalf + highHalf) with latch := d.latch.put key (some (BitVec.ofNat 64 (v / 2 ^ 32))) })
      else
        match d.latch.look key with
        | some x => (x.toNat, { d with latch := d.latch.put key none })
        | none => (v / 2 ^ 32, d.rcClear f w highHalf)
  | none =>
    let v := d.bar0Value a f w
    if size = 8 then (v, d)
    else if off = w then (v % 2 ^ 32, { d with latch := d.latch.put key (some (BitVec.ofNat 64 (v / 2 ^ 32))) })
    else
      match d.latch.look key with
      | some x => (x.toNat, { d with latch := d.latch.put key none })
      | none => (v / 2 ^ 32, d)

/-- An access that completes as Unsupported Request (R29). -/
def bar0Bad (off size : Nat) : Bool :=
  !(size == 4 || size == 8) || off % size != 0 || decide (0x4000000 ≤ off) ||
  (size == 4 && (match regAt (off / 8 * 8) with | some (r, _, _) => r == EVQ_DATA.row | none => false))

/-- RC_READ: a read of BAR0 by a function. -/
def execRcRead (f off size : Nat) (s : State) : Host.Outcome State Fault Refusal :=
  s.onDev fun e d =>
    if !d.mgmt.power then d
    else if d.hostHeld e f || bar0Bad off size then d.emit (.ur f)
    else
      let r := d.bar0Read s.acorn f off size
      r.2.emit (.value f (BitVec.ofNat 64 r.1))

/-- A register that a function writes for itself stores its writable bits. -/
def Dev.storeOwn (d : Dev) (r : RegRow) (key v : Nat) : Dev := d.setReg key (d.reg key - (d.reg key &&& r.rw) + (v &&& r.rw))

/-- A word of RT_REPLY; the fourth commits (R333). -/
def Dev.wrReply (d : Dev) (f j v : Nat) (commit : Bool) : Dev :=
  let d := { d with rt := { d.rt with reply := d.rt.reply.put (f * 4 + j) (BitVec.ofNat 64 v) } }
  if j = 3 && commit then d.replyCommit f else d

/-- A device-wide register with no effect beyond its value. -/
def Dev.storeWide (e : Env) (d : Dev) (src : Src) (r : RegRow) (off v : Nat) : Dev :=
  if r.rw = 0 then d
  else d.guardOwn e src off ((d.reg off &&& r.rw) != (v &&& r.rw)) fun d => d.storeOwn r off v

/-- A write of HOST_WIN: clearing ENABLE overtakes what the window had under way (R22). -/
def Dev.wrHostWin (e : Env) (d : Dev) (src : Src) (n v : Nat) : Dev :=
  d.guardOwn e src (HOST_WIN.off n) ((d.reg (HOST_WIN.off n) &&& HOST_WIN.row.rw) != (v &&& HOST_WIN.row.rw)) fun d =>
    (if bit v 0 then d else d.windowLost n).storeOwn HOST_WIN.row (HOST_WIN.off n) v

/-- A write of the whole of a register of HOST, FRONTEND, MOVE or EVENTS that function g may write for itself; none for another. -/
def Dev.writeOwn (e : Env) (d : Dev) (src : Src) (g : Nat) (r : RegRow) (i j off v : Nat) (commit : Bool) : Option Dev :=
  if r = EVQ_CTL.row then some (d.wrEvqCtl g i v)
  else if r = EVQ_STATUS.row then some (d.wrEvqStatus g i v)
  else if r = HOST_FUNC.row then some (d.wrHostFunc e src g i v)
  else if r = QUEUE_CTL.row then some (d.wrQueueCtl g i v)
  else if r = QUEUE_ABORT.row then some (d.wrQueueAbort e src i v)
  else if r = QUEUE_RING.row ∨ r = QUEUE_COMPL.row then some (d.wrQueueOwn g i off r.rw v)
  else if r = RT_INVAL.row then some (d.wrRtInval src i v)
  else if r = RT_REPLY.row then some (if g = i then d.wrReply i j v commit else d)
  else if r = RT_RING_BASE.row then some (if g = i then d.setReg off (v / 4096 * 4096) else d)
  else if r = MGMT_LEDGER_IDX.row then some (if g < 32 then d.wrLedgerIdx g v else d)
  else if r = METER_REQ.row then some (if g < 32 then d.wrMeterReq e g v else d)
  else if r.who = .own then some (if g = i then d.storeOwn r off v else d)
  else if r.who = .bank then some (if g < 32 then d.storeOwn r (regKey r g off) v else d)
  else none

/-- A write of the whole of a device-wide register. -/
def Dev.writeWide (e : Env) (d : Dev) (src : Src) (r : RegRow) (i j off v : Nat) : Dev :=
  if r = SP_HANDOVER.row then d.wrSpHandover e src v
  else if r = SYNC_HANDOVER.row then d.wrSyncHandover e src v
  else if r = SHARE_HANDOVER.row then d.wrShareHandover e src v
  else if r = PART_CTL.row then d.wrPartCtl e src v
  else if r = CR_CFG.row then d.wrCrCfg e src i v
  else if r = CR_MIRROR.row then
    d.guardOwn e src off (d.reg off != v) fun d => if d.get (CR_CFG.VALID i) = 1 then d else d.setReg off v
  else if r = RT_ASID.row then d.wrRtAsid e src i v
  else if r = QUEUE_CFG.row then d.wrQueueCfg e src i v
  else if r = FE_POOL_BASE.row ∨ r = FE_POOL_SIZE.row then d.wrPool e src off r.rw v
  else if r = EVQ_CFG.row then d.wrEvqCfg e src i v
  else if r = PHY_CFG.row then d.wrPhyCfg e src i v
  else if r = LP_CFG.row then d.wrLpCfg e src i v
  else if r = FAB_ID.row then d.wrFabId e src v
  else if r = FAB_CTL.row then d.wrFabCtl e src v
  else if r = FAB_RT_CMD.row then d.wrRtCmd e src v
  else if r = FAB_BUDDY.row then d.wrBuddy e src v
  else if r = FAB_COLL_ARM.row then d.wrCollArm e src v
  else if r = FAB_PREFIX.row then d.storeWide e src r off (if j = 1 then v / 2 ^ 20 * 2 ^ 20 else v)
  else if r = GLOBAL_OWNER.row then (if d.actsAs src < 32 then d.wrOwner e (d.actsAs src) v false else d)
  else if r = GLOBAL_RESET.row then d.wrReset e src v
  else if r = MGMT_MAINT.row then d.wrMaint e src v
  else if r = MGMT_STAGE_CTL.row then d.wrStageCtl e src v
  else if r = REC_CTL.row then d.wrRecCtl e src v
  else if r = PMC_SEL.row then d.wrPmcSel e src i j v
  else if r = HOST_WIN.row then d.wrHostWin e src i v
  else d.storeWide e src r off v

/-- A register whose write acts on its value: through a WO field, by binding or by registering (R30). -/
def RegRow.acts (r : RegRow) : Bool := r.wo != 0 || r == HOST_FUNC.row || r == CR_CFG.row

/-- One half of a word from each of two values. -/
def halves (high : Bool) (old v : Nat) : Nat := if high then old % 2 ^ 32 + v % 2 ^ 32 * 2 ^ 32 else v % 2 ^ 32 + old / 2 ^ 32 * 2 ^ 32

/-- The whole value that a 4-byte write gives a register: the unwritten half as stored, without its bits cleared by 1; of a register
that acts on its value, as last written, where the writer may write it at all (R30, R437). -/
def Dev.wholeValue (d : Dev) (src : Src) (r : RegRow) (g i j w : Nat) (high : Bool) (v : Nat) : Nat :=
  let key := regKey r g w
  let old :=
    if r = RT_REPLY.row then (d.rt.reply.look (i * 4 + j)).toNat
    else if r.acts && (r.who != .dev || d.ownsWrite src) && (r != HOST_FUNC.row || d.ownsWrite src) then
      let x := (d.written.look key).toNat
      x - (x &&& r.w1c)
    else d.reg key - (d.reg key &&& r.w1c)
  halves high old v

/-- The stored fields of the half that a 4-byte write does not name keep their values (R30): those of the registers that both store and
act, but for the fields that the act itself sets. -/
def Dev.keepHalf (d d' : Dev) (r : RegRow) (off : Nat) (high : Bool) : Dev :=
  if r = EVQ_CTL.row ∨ r = REC_CTL.row ∨ r = HOST_FUNC.row then
    let m := halves high r.rw 0
    d'.setReg off (d'.reg off - (d'.reg off &&& m) + (d.reg off &&& m))
  else d'

/-- A vector that is no longer masked and is pending is raised. -/
def Dev.msixSettle (d : Dev) (f vector : Nat) : Dev :=
  let k := f * 32 + vector / 64
  if (d.host.pba.look k).getLsbD (vector % 64) && !d.msixMasked f vector then
    ({ d with host := { d.host with pba := d.host.pba.put k (d.host.pba.look k &&& ~~~(BitVec.ofNat 64 (2 ^ (vector % 64)))) } } : Dev).emit
      (.msix f vector)
  else d

/-- A write of an aligned 4 or 8 bytes of BAR0 outside the METER block (R29-R31, R33, R34). -/
def Dev.bar0Write (e : Env) (d : Dev) (src : Src) (off size v : Nat) : Dev :=
  let g := d.actsAs src
  let w := off / 8 * 8
  let high := size == 4 && off != w
  if !d.visible g w then d
  else if inWindow off then d.wrWindow e g (off - stageWindow) (leBytes size v)
  else
    match msixAt w, regAt w with
    | some (f, k), _ =>
      if f ≠ g then d
      else
        let old := (d.msixWord f k).toNat
        let x := if size = 8 then v else halves high old v
        ({ d with host := { d.host with msix := d.host.msix.put (f * 0x1000 + k) (BitVec.ofNat 64 x) } } : Dev).msixSettle f (k / 2)
    | none, some (r, i, j) =>
      let x := if size = 8 then v else d.wholeValue src r g i j w high v
      let d' := match d.writeOwn e src g r i j w x (size == 8 || high) with
        | some d => d
        | none => d.writeWide e src r i j w x
      if size = 8 then d' else d.keepHalf d' r w high
    | none, none => d

/-- A write of BAR0: one to the METER block is discarded, and Acorn records the attempt (R32). -/
def State.bar0Write (s : State) (src : Src) (off size v : Nat) : State :=
  let e : Env := { time := s.time.toNat, chip := s.chip }
  if inMeter off then
    if s.dev.visible (s.dev.actsAs src) off then { s with acorn := s.acorn.attempt (s.dev.actsAs src) off e.time } else s
  else { s with dev := s.dev.bar0Write e src off size v }

/-- REGISTER_WRITE. -/
def execRegisterWrite (src : Src) (off size : Nat) (value : DWord) (s : State) : Host.Outcome State Fault Refusal :=
  if !s.dev.mgmt.power then .next s
  else
    match src with
    | .host f =>
      if s.dev.hostHeld ⟨s.time.toNat, s.chip⟩ f || bar0Bad off size then .next { s with dev := s.dev.emit (.ur f) }
      else
        let s := s.bar0Write src off size value.toNat
        .next { s with dev := s.dev.emit (.done f) }
    | _ => if bar0Bad off size then .next s else .next (s.bar0Write src off size value.toNat)

/-! REG_WRITE (R352, R368, R369). -/

/-- The entries from the i-th on, each performed after the one before it; ownership is tested at each. A command that an entry ended
ends here, and one that an entry aborted ends with the entries performed (R366, R369). -/
def State.regEntries (s : State) (e : Env) (ctx q n : Nat) : Nat → State
  | 0 =>
    let x := s.dev.ctx ctx
    if !x.live || x.st != .started then s
    else { s with dev := s.dev.ctxFinish e ctx (if x.abortReq then .aborted else .done) n none }
  | k + 1 =>
    let i := n - (k + 1)
    let x := s.dev.ctx ctx
    if !x.live || x.st != .started then s
    else if x.abortReq then { s with dev := s.dev.ctxFinish e ctx .aborted i none }
    else if !s.dev.ownerQueue q then { s with dev := s.dev.ctxFinish e ctx .faulted i (some (FaultData.of 0 0x05)) }
    else
      let off := x.num (0x10 + 16 * i) 4
      let s' := if off < 0x4000000 then s.bar0Write (.queue q) off 8 (x.word (0x18 + 16 * i)) else s
      State.regEntries s' e ctx q n k

/-- REG_WRITE. -/
def execRegWrite (ctx : Nat) (s : State) : Host.Outcome State Fault Refusal :=
  let e : Env := { time := s.time.toNat, chip := s.chip }
  if !s.dev.startable ctx opRegWrite then .next s
  else
    let x := s.dev.ctx ctx
    if !s.dev.ownerQueue x.queue then .next { s with dev := s.dev.ctxReject e ctx 0 0x05 0 0 }
    else
      let n := bits (x.word 0x08) 0 4
      .next (State.regEntries { s with dev := s.dev.ctxStart ctx } e ctx x.queue n n)

end Sys2Proof.Machine
end

