-- ==== Sys2Proof/Machine/Dispatch.lean ====
section
/-! DEFINITION. The dispatch: one arm per command of the table, each a direct call of its meaning. -/

namespace Sys2Proof.Machine

def exec (i : Instr) (s : State) : Host.Outcome State Fault Refusal :=
  match i with
  | .nop g w => Sys2Proof.Machine.execNop g w s
  | .bra g w => Sys2Proof.Machine.execBra g w s
  | .call g w => Sys2Proof.Machine.execCall g w s
  | .ret g w => Sys2Proof.Machine.execRet g w s
  | .jmpu g w => Sys2Proof.Machine.execJmpu g w s
  | .exit g w => Sys2Proof.Machine.execExit g w s
  | .bar g w => Sys2Proof.Machine.execBar g w s
  | .barClu g w => Sys2Proof.Machine.execBarClu g w s
  | .trap g w => Sys2Proof.Machine.execTrap g w s
  | .bkpt g w => Sys2Proof.Machine.execBkpt g w s
  | .fadd g w => Sys2Proof.Machine.execFadd g w s
  | .fsub g w => Sys2Proof.Machine.execFsub g w s
  | .ffma g w => Sys2Proof.Machine.execFfma g w s
  | .fmul g w => Sys2Proof.Machine.execFmul g w s
  | .fmin g w => Sys2Proof.Machine.execFmin g w s
  | .fmax g w => Sys2Proof.Machine.execFmax g w s
  | .fabs g w => Sys2Proof.Machine.execFabs g w s
  | .fneg g w => Sys2Proof.Machine.execFneg g w s
  | .iadd g w => Sys2Proof.Machine.execIadd g w s
  | .isub g w => Sys2Proof.Machine.execIsub g w s
  | .imul g w => Sys2Proof.Machine.execImul g w s
  | .imad g w => Sys2Proof.Machine.execImad g w s
  | .imin g w => Sys2Proof.Machine.execImin g w s
  | .imax g w => Sys2Proof.Machine.execImax g w s
  | .and g w => Sys2Proof.Machine.execAnd g w s
  | .or g w => Sys2Proof.Machine.execOr g w s
  | .xor g w => Sys2Proof.Machine.execXor g w s
  | .not g w => Sys2Proof.Machine.execNot g w s
  | .shl g w => Sys2Proof.Machine.execShl g w s
  | .shr g w => Sys2Proof.Machine.execShr g w s
  | .sar g w => Sys2Proof.Machine.execSar g w s
  | .popc g w => Sys2Proof.Machine.execPopc g w s
  | .clz g w => Sys2Proof.Machine.execClz g w s
  | .mov g w => Sys2Proof.Machine.execMov g w s
  | .sel g w => Sys2Proof.Machine.execSel g w s
  | .cvt g w => Sys2Proof.Machine.execCvt g w s
  | .shfl g w => Sys2Proof.Machine.execShfl g w s
  | .rdlane g w => Sys2Proof.Machine.execRdlane g w s
  | .vote g w => Sys2Proof.Machine.execVote g w s
  | .bcast g w => Sys2Proof.Machine.execBcast g w s
  | .fsetp g w => Sys2Proof.Machine.execFsetp g w s
  | .isetp g w => Sys2Proof.Machine.execIsetp g w s
  | .plop g w => Sys2Proof.Machine.execPlop g w s
  | .ftabEv g w => Sys2Proof.Machine.execFtabEv g w s
  | .ftabLd g w => Sys2Proof.Machine.execFtabLd g w s
  | .ftabLoadComplete core slot => Sys2Proof.Machine.execFtabLoadComplete core slot s
  | .rcp g w => Sys2Proof.Machine.execRcp g w s
  | .rsq g w => Sys2Proof.Machine.execRsq g w s
  | .exp2 g w => Sys2Proof.Machine.execExp2 g w s
  | .log2 g w => Sys2Proof.Machine.execLog2 g w s
  | .dadd g w => Sys2Proof.Machine.execDadd g w s
  | .dmul g w => Sys2Proof.Machine.execDmul g w s
  | .dfma g w => Sys2Proof.Machine.execDfma g w s
  | .dmin g w => Sys2Proof.Machine.execDmin g w s
  | .dmax g w => Sys2Proof.Machine.execDmax g w s
  | .ld g w => Sys2Proof.Machine.execLd g w s
  | .lds g w => Sys2Proof.Machine.execLds g w s
  | .st g w => Sys2Proof.Machine.execSt g w s
  | .pref g w => Sys2Proof.Machine.execPref g w s
  | .atom g w => Sys2Proof.Machine.execAtom g w s
  | .fenceLd g w => Sys2Proof.Machine.execFenceLd g w s
  | .fenceSt g w => Sys2Proof.Machine.execFenceSt g w s
  | .fenceAll g w => Sys2Proof.Machine.execFenceAll g w s
  | .mxMode g w => Sys2Proof.Machine.execMxMode g w s
  | .mxTile g w => Sys2Proof.Machine.execMxTile g w s
  | .mxDrain g w => Sys2Proof.Machine.execMxDrain g w s
  | .mxWait g w => Sys2Proof.Machine.execMxWait g w s
  | .mxTileComplete r => Sys2Proof.Machine.execMxTileComplete r s
  | .mxDrainComplete core => Sys2Proof.Machine.execMxDrainComplete core s
  | .arrayRampDown core => Sys2Proof.Machine.execArrayRampDown core s
  | .arrayOff core => Sys2Proof.Machine.execArrayOff core s
  | .arrayFreezeIdle core => Sys2Proof.Machine.execArrayFreezeIdle core s
  | .arrayPoisonReport core => Sys2Proof.Machine.execArrayPoisonReport core s
  | .dspSubmit g w => Sys2Proof.Machine.execDspSubmit g w s
  | .dspStatus g w => Sys2Proof.Machine.execDspStatus g w s
  | .semWait g w => Sys2Proof.Machine.execSemWait g w s
  | .semTake g w => Sys2Proof.Machine.execSemTake g w s
  | .semAdd g w => Sys2Proof.Machine.execSemAdd g w s
  | .semSub g w => Sys2Proof.Machine.execSemSub g w s
  | .semSet g w => Sys2Proof.Machine.execSemSet g w s
  | .semLock g w => Sys2Proof.Machine.execSemLock g w s
  | .semUnlock g w => Sys2Proof.Machine.execSemUnlock g w s
  | .semArrive g w => Sys2Proof.Machine.execSemArrive g w s
  | .semProd g w => Sys2Proof.Machine.execSemProd g w s
  | .semCons g w => Sys2Proof.Machine.execSemCons g w s
  | .sysId g w => Sys2Proof.Machine.execSysId g w s
  | .sysTime g w => Sys2Proof.Machine.execSysTime g w s
  | .sysCycle g w => Sys2Proof.Machine.execSysCycle g w s
  | .sysFlags g w => Sys2Proof.Machine.execSysFlags g w s
  | .sysMark g w => Sys2Proof.Machine.execSysMark g w s
  | .accessResponse g id => Sys2Proof.Machine.execAccessResponse g id s
  | .l1Fill core sector => Sys2Proof.Machine.execL1Fill core sector s
  | .l2Access slice pos victim find => Sys2Proof.Machine.execL2Access slice pos victim find s
  | .patrolScrub addr find => Sys2Proof.Machine.execPatrolScrub addr find s
  | .hbmChannelDown ch => Sys2Proof.Machine.execHbmChannelDown ch s
  | .hbmLiveScan ch => Sys2Proof.Machine.execHbmLiveScan ch s
  | .hbmScanComplete ch find => Sys2Proof.Machine.execHbmScanComplete ch find s
  | .blockBarrierRelease core block id => Sys2Proof.Machine.execBlockBarrierRelease core block id s
  | .clusterBarrierRelease launch cluster id => Sys2Proof.Machine.execClusterBarrierRelease launch cluster id s
  | .spHandover src value => Sys2Proof.Machine.execSpHandover src value s
  | .spHandoverDrained => Sys2Proof.Machine.execSpHandoverDrained s
  | .spHandoverComplete => Sys2Proof.Machine.execSpHandoverComplete s
  | .spHandoverTimeout => Sys2Proof.Machine.execSpHandoverTimeout s
  | .creditGrant receiver => Sys2Proof.Machine.execCreditGrant receiver s
  | .creditIdleReturn sender receiver => Sys2Proof.Machine.execCreditIdleReturn sender receiver s
  | .landingZoneWrite core pos => Sys2Proof.Machine.execLandingZoneWrite core pos s
  | .marchDone core find => Sys2Proof.Machine.execMarchDone core find s
  | .sesameOperation store arrive => Sys2Proof.Machine.execSesameOperation store arrive s
  | .groupWake store => Sys2Proof.Machine.execGroupWake store s
  | .semTimeout store x => Sys2Proof.Machine.execSemTimeout store x s
  | .semRetry store pos => Sys2Proof.Machine.execSemRetry store pos s
  | .syncHandover src value => Sys2Proof.Machine.execSyncHandover src value s
  | .dmaStart engine => Sys2Proof.Machine.execDmaStart engine s
  | .dmaComplete engine => Sys2Proof.Machine.execDmaComplete engine s
  | .intakeTokenGrant core => Sys2Proof.Machine.execIntakeTokenGrant core s
  | .rangeRequestRecord reqId => Sys2Proof.Machine.execRangeRequestRecord reqId s
  | .rtReplyCommit f word3 => Sys2Proof.Machine.execRtReplyCommit f word3 s
  | .rangeRequestTimeout reqId => Sys2Proof.Machine.execRangeRequestTimeout reqId s
  | .rtInval src f value => Sys2Proof.Machine.execRtInval src f value s
  | .rtInvalComplete => Sys2Proof.Machine.execRtInvalComplete s
  | .rtAsidWrite src a value => Sys2Proof.Machine.execRtAsidWrite src a value s
  | .doorbell f q off size value => Sys2Proof.Machine.execDoorbell f q off size value s
  | .queueVisit q => Sys2Proof.Machine.execQueueVisit q s
  | .nopCmd ctx => Sys2Proof.Machine.execNopCmd ctx s
  | .launch ctx => Sys2Proof.Machine.execLaunch ctx s
  | .dma ctx => Sys2Proof.Machine.execDma ctx s
  | .graphLaunch ctx => Sys2Proof.Machine.execGraphLaunch ctx s
  | .semWaitCmd ctx => Sys2Proof.Machine.execSemWaitCmd ctx s
  | .semAddCmd ctx => Sys2Proof.Machine.execSemAddCmd ctx s
  | .writeValue ctx => Sys2Proof.Machine.execWriteValue ctx s
  | .graphStore ctx => Sys2Proof.Machine.execGraphStore ctx s
  | .graphPatch ctx => Sys2Proof.Machine.execGraphPatch ctx s
  | .graphFree ctx => Sys2Proof.Machine.execGraphFree ctx s
  | .semSetCmd ctx => Sys2Proof.Machine.execSemSetCmd ctx s
  | .regWrite ctx => Sys2Proof.Machine.execRegWrite ctx s
  | .selftest ctx => Sys2Proof.Machine.execSelftest ctx s
  | .blockDispatch launch => Sys2Proof.Machine.execBlockDispatch launch s
  | .kernelAbort launch => Sys2Proof.Machine.execKernelAbort launch s
  | .graphNodeEnd ctx => Sys2Proof.Machine.execGraphNodeEnd ctx s
  | .commandComplete ctx => Sys2Proof.Machine.execCommandComplete ctx s
  | .queueEnable f q value => Sys2Proof.Machine.execQueueEnable f q value s
  | .queueDisable f q value => Sys2Proof.Machine.execQueueDisable f q value s
  | .queueResume f q value => Sys2Proof.Machine.execQueueResume f q value s
  | .queueAbort src q value => Sys2Proof.Machine.execQueueAbort src q value s
  | .evqPop f k => Sys2Proof.Machine.execEvqPop f k s
  | .evqPtrFault k => Sys2Proof.Machine.execEvqPtrFault k s
  | .rearm f k value => Sys2Proof.Machine.execRearm f k value s
  | .flush f k value => Sys2Proof.Machine.execFlush f k value s
  | .evqIrqEnable f k value => Sys2Proof.Machine.execEvqIrqEnable f k value s
  | .route u => Sys2Proof.Machine.execRoute u s
  | .scores u => Sys2Proof.Machine.execScores u s
  | .return u => Sys2Proof.Machine.execReturn u s
  | .abort u => Sys2Proof.Machine.execAbort u s
  | .scoreIntake u => Sys2Proof.Machine.execScoreIntake u s
  | .expertClose c e => Sys2Proof.Machine.execExpertClose c e s
  | .returnedRow u => Sys2Proof.Machine.execReturnedRow u s
  | .contextComplete c => Sys2Proof.Machine.execContextComplete c s
  | .write l p => Sys2Proof.Machine.execWrite l p s
  | .read l p => Sys2Proof.Machine.execRead l p s
  | .readResp l p => Sys2Proof.Machine.execReadResp l p s
  | .atomic l p => Sys2Proof.Machine.execAtomic l p s
  | .atomicResp l p => Sys2Proof.Machine.execAtomicResp l p s
  | .sem l p => Sys2Proof.Machine.execSem l p s
  | .semResp l p => Sys2Proof.Machine.execSemResp l p s
  | .semWithdraw l p => Sys2Proof.Machine.execSemWithdraw l p s
  | .dspWrite l p => Sys2Proof.Machine.execDspWrite l p s
  | .dspReturn l p => Sys2Proof.Machine.execDspReturn l p s
  | .coll l p => Sys2Proof.Machine.execColl l p s
  | .ack l p => Sys2Proof.Machine.execAck l p s
  | .nak l p => Sys2Proof.Machine.execNak l p s
  | .probe l p => Sys2Proof.Machine.execProbe l p s
  | .probeAck l p => Sys2Proof.Machine.execProbeAck l p s
  | .flowReset l p => Sys2Proof.Machine.execFlowReset l p s
  | .hello l m => Sys2Proof.Machine.execHello l m s
  | .mirror l p => Sys2Proof.Machine.execMirror l p s
  | .resumeReq l p => Sys2Proof.Machine.execResumeReq l p s
  | .resumeResp l p => Sys2Proof.Machine.execResumeResp l p s
  | .resendReq l p => Sys2Proof.Machine.execResendReq l p s
  | .lldpReceive l m => Sys2Proof.Machine.execLldpReceive l m s
  | .lldpTransmit l => Sys2Proof.Machine.execLldpTransmit l s
  | .helloTransmit l => Sys2Proof.Machine.execHelloTransmit l s
  | .ackTimer peer => Sys2Proof.Machine.execAckTimer peer s
  | .retransmitTimeout peer psn => Sys2Proof.Machine.execRetransmitTimeout peer psn s
  | .probeTimer peer => Sys2Proof.Machine.execProbeTimer peer s
  | .peerDead peer => Sys2Proof.Machine.execPeerDead peer s
  | .linkDown l => Sys2Proof.Machine.execLinkDown l s
  | .linkUp l => Sys2Proof.Machine.execLinkUp l s
  | .pfcFrame l prios pause => Sys2Proof.Machine.execPfcFrame l prios pause s
  | .collRoundSend c => Sys2Proof.Machine.execCollRoundSend c s
  | .collArm src value => Sys2Proof.Machine.execCollArm src value s
  | .collDisarm src value => Sys2Proof.Machine.execCollDisarm src value s
  | .routeEntryRead src value => Sys2Proof.Machine.execRouteEntryRead src value s
  | .routeEntryWrite src value => Sys2Proof.Machine.execRouteEntryWrite src value s
  | .breakoutChange src p value => Sys2Proof.Machine.execBreakoutChange src p value s
  | .buddyRecovery src value => Sys2Proof.Machine.execBuddyRecovery src value s
  | .mirrorBatch => Sys2Proof.Machine.execMirrorBatch s
  | .ptpMessage l offset => Sys2Proof.Machine.execPtpMessage l offset s
  | .ptpStateTimer => Sys2Proof.Machine.execPtpStateTimer s
  | .claim f value sameCycle => Sys2Proof.Machine.execClaim f value sameCycle s
  | .release f value => Sys2Proof.Machine.execRelease f value s
  | .warmReset src value => Sys2Proof.Machine.execWarmReset src value s
  | .hostFuncBind src f value => Sys2Proof.Machine.execHostFuncBind src f value s
  | .flr f => Sys2Proof.Machine.execFlr f s
  | .portReset n perst => Sys2Proof.Machine.execPortReset n perst s
  | .pcieLinkDown n => Sys2Proof.Machine.execPcieLinkDown n s
  | .pcieLinkUp n rate width => Sys2Proof.Machine.execPcieLinkUp n rate width s
  | .configRequest f reg value => Sys2Proof.Machine.execConfigRequest f reg value s
  | .bar4Access f r atomic => Sys2Proof.Machine.execBar4Access f r atomic s
  | .registerWrite src off size value => Sys2Proof.Machine.execRegisterWrite src off size value s
  | .rcRead f off size => Sys2Proof.Machine.execRcRead f off size s
  | .assign src value => Sys2Proof.Machine.execAssign src value s
  | .teardown src value => Sys2Proof.Machine.execTeardown src value s
  | .teardownStepComplete => Sys2Proof.Machine.execTeardownStepComplete s
  | .teardownTimeout => Sys2Proof.Machine.execTeardownTimeout s
  | .shareHandover src value => Sys2Proof.Machine.execShareHandover src value s
  | .shareHandoverComplete => Sys2Proof.Machine.execShareHandoverComplete s
  | .crRegister src r value => Sys2Proof.Machine.execCrRegister src r value s
  | .crWithdraw src r value => Sys2Proof.Machine.execCrWithdraw src r value s
  | .powerOn mode buddyEn => Sys2Proof.Machine.execPowerOn mode buddyEn s
  | .powerOff => Sys2Proof.Machine.execPowerOff s
  | .bootStepComplete find => Sys2Proof.Machine.execBootStepComplete find s
  | .buddyResumeTimeout => Sys2Proof.Machine.execBuddyResumeTimeout s
  | .maintEnter src value => Sys2Proof.Machine.execMaintEnter src value s
  | .maintLeave src value => Sys2Proof.Machine.execMaintLeave src value s
  | .stageBegin src value => Sys2Proof.Machine.execStageBegin src value s
  | .stageWindowWrite f off data => Sys2Proof.Machine.execStageWindowWrite f off data s
  | .stageCommit src value => Sys2Proof.Machine.execStageCommit src value s
  | .stageAbort src value => Sys2Proof.Machine.execStageAbort src value s
  | .stageCommitDone readBackOk => Sys2Proof.Machine.execStageCommitDone readBackOk s
  | .powerFastCheck watts => Sys2Proof.Machine.execPowerFastCheck watts s
  | .powerSlowStep watts => Sys2Proof.Machine.execPowerSlowStep watts s
  | .powerCalibrate inputWatts => Sys2Proof.Machine.execPowerCalibrate inputWatts s
  | .powerWindow watts => Sys2Proof.Machine.execPowerWindow watts s
  | .thermalSample sect temp => Sys2Proof.Machine.execThermalSample sect temp s
  | .hbmThermalSample stack temp => Sys2Proof.Machine.execHbmThermalSample stack temp s
  | .thermtrip sect temp => Sys2Proof.Machine.execThermtrip sect temp s
  | .clockSwitchRequest sect mhz => Sys2Proof.Machine.execClockSwitchRequest sect mhz s
  | .clockSwitchBegin sect => Sys2Proof.Machine.execClockSwitchBegin sect s
  | .clockSwitchEnd sect => Sys2Proof.Machine.execClockSwitchEnd sect s
  | .sectionGate sect => Sys2Proof.Machine.execSectionGate sect s
  | .sectionUngate sect => Sys2Proof.Machine.execSectionUngate sect s
  | .watchdog pc => Sys2Proof.Machine.execWatchdog pc s
  | .laneRetune r => Sys2Proof.Machine.execLaneRetune r s
  | .portRetrain l => Sys2Proof.Machine.execPortRetrain l s
  | .fatalError source addr => Sys2Proof.Machine.execFatalError source addr s
  | .vrTimeout half => Sys2Proof.Machine.execVrTimeout half s
  | .railFault rail => Sys2Proof.Machine.execRailFault rail s
  | .selftestStart pos => Sys2Proof.Machine.execSelftestStart pos s
  | .selftestTimeout pos => Sys2Proof.Machine.execSelftestTimeout pos s
  | .autoSummary => Sys2Proof.Machine.execAutoSummary s
  | .ledgerWrite => Sys2Proof.Machine.execLedgerWrite s
  | .ledgerCheckpoint => Sys2Proof.Machine.execLedgerCheckpoint s
  | .ledgerIndexWrite f value => Sys2Proof.Machine.execLedgerIndexWrite f value s
  | .setEndpointId eid => Sys2Proof.Machine.execSetEndpointId eid s
  | .pldmRequest type id data => Sys2Proof.Machine.execPldmRequest type id data s
  | .setBmcCap watts => Sys2Proof.Machine.execSetBmcCap watts s
  | .readLedger seq => Sys2Proof.Machine.execReadLedger seq s
  | .provisionKey onBus slot digest => Sys2Proof.Machine.execProvisionKey onBus slot digest s
  | .revokeKey onBus slot => Sys2Proof.Machine.execRevokeKey onBus slot s
  | .getVersion => Sys2Proof.Machine.execGetVersion s
  | .getCapabilities => Sys2Proof.Machine.execGetCapabilities s
  | .negotiateAlgorithms sm2 sm3 => Sys2Proof.Machine.execNegotiateAlgorithms sm2 sm3 s
  | .getDigests => Sys2Proof.Machine.execGetDigests s
  | .getCertificate slot off len => Sys2Proof.Machine.execGetCertificate slot off len s
  | .challenge slot nonce => Sys2Proof.Machine.execChallenge slot nonce s
  | .getMeasurements index nonce signed => Sys2Proof.Machine.execGetMeasurements index nonce signed s
  | .countCollectorTick => Sys2Proof.Machine.execCountCollectorTick s
  | .activity h rows => Sys2Proof.Machine.execActivity h rows s
  | .acornReport h m => Sys2Proof.Machine.execAcornReport h m s
  | .acornInterval energy => Sys2Proof.Machine.execAcornInterval energy s
  | .meterRequest f value => Sys2Proof.Machine.execMeterRequest f value s
  | .request h f account nonce => Sys2Proof.Machine.execRequest h f account nonce s
  | .requestedReading => Sys2Proof.Machine.execRequestedReading s
  | .acornNvWrite => Sys2Proof.Machine.execAcornNvWrite s
  | .acornSupplyLoss us energy written => Sys2Proof.Machine.execAcornSupplyLoss us energy written s
  | .acornPowerUp => Sys2Proof.Machine.execAcornPowerUp s
  | .refLost => Sys2Proof.Machine.execRefLost s
  | .refRestored => Sys2Proof.Machine.execRefRestored s
  | .pcSample core => Sys2Proof.Machine.execPcSample core s
  | .traceDrainBurst half core => Sys2Proof.Machine.execTraceDrainBurst half core s
  | .recorderEnable src value => Sys2Proof.Machine.execRecorderEnable src value s
  | .counterClear src value => Sys2Proof.Machine.execCounterClear src value s
  | .pmcSelect src core k value => Sys2Proof.Machine.execPmcSelect src core k value s
  | .malformedPacket l cause => Sys2Proof.Machine.execMalformedPacket l cause s
  | .gatingDrainLimit sect => Sys2Proof.Machine.execGatingDrainLimit sect s
  | .perstDeassertion n => Sys2Proof.Machine.execPerstDeassertion n s

end Sys2Proof.Machine
end

