-- ==== Sys2Proof/Machine/Tick.lean ====
section
/-! DEFINITION. What an RCLK cycle brings whatever is commanded: the timestamp advances (R17, R426), the sections' clocks run, and
the counters that count cycles count (R211, R213, R524); the ports accept the writes that wait for them (R22; log entry 105). It is what a step does on an empty queue (log entry 8). -/

namespace Sys2Proof.Machine

/-- The clock of a section runs (R19, R474, R532). -/
def Dev.clockRuns (d : Dev) (s : Nat) : Bool := d.mgmt.power && !d.issueStopped s && d.get (MGMT_SECTION.GATED s) == 0

/-- A group is parked: at a barrier, at Sesame or on a range request (R58, R94, R335); one whose store has not answered, or refused it an
entry, is not (R298). -/
def GState.parked : GState → Bool
  | .barrier _ _ => true
  | .sesame => true
  | .translate => true
  | .run => false
  | .asked => false
  | .acquire _ => false
  | .halted => false
  | .stopped => false

/-- Some group is resident on a quarter, and every one is parked. -/
def Dev.allParked (d : Dev) (core q : Nat) : Bool :=
  let here := d.core.groups.filter (fun x => x.2.live && (gidOf x.1).core == core && (gidOf x.1).quarter == q)
  !here.isEmpty && here.all (fun x => x.2.st.parked)

/-- The groups resident on a core. -/
def Dev.resident (d : Dev) (core : Nat) : List (Gid × Group) :=
  (d.core.groups.filter (fun x => x.2.live && (gidOf x.1).core == core)).map (fun x => (gidOf x.1, x.2))

/-- n cycles of a core: the counters of cycles, of quarters with no ready group and of parked ones, of accesses that wait on the
scoreboard, of groups that wait in a release or acquire and of writes that wait for credit (R524; log entry 70). -/
def Dev.countCycles (d : Dev) (core n : Nat) : Dev :=
  let part := d.sectOwner (sectOf core)
  let d := d.pmc core none part 1 n
  let here := d.resident core
  let d := (List.range 4).foldl (fun (d : Dev) q =>
    if here.any (fun x => x.1.quarter == q && x.2.st == .run && x.2.stall == 0) then d else d.pmc core (some q) part 3 n) d
  let d := if here.any (fun x => x.2.st == .run && x.2.stall == 9) then d.pmc core none part 9 n else d
  let d := (List.range 4).foldl (fun (d : Dev) q =>
    match here.find? (fun x => x.1.quarter == q && x.2.st == .run && x.2.stall == 12) with
    | some x => d.pmc core (some q) (d.launchOf x.2.launch).part 12 n
    | none => d) d
  let d := (List.range 4).foldl (fun (d : Dev) q => if d.allParked core q then d.pmc core (some q) part 4 n else d) d
  if d.mem.port.any (fun z => z.sender == core) then (d.bump (SP_PORT.CREDIT_STALLS core) n).pmc core none part 10 n else d

/-- 10 ns of a section: MHz / 25 quarters of an ACLK cycle. -/
def Dev.tickSect (d : Dev) (s : Nat) : Dev :=
  if d.clockRuns s then
    let old := d.cycles s
    let new := old + d.get (MGMT_SECTION.MHZ s) / 25
    let d := { d with cyc := d.cyc.put s new }
    (List.range 8).foldl (fun (d : Dev) i => d.countCycles (8 * s + i) (new / 4 - old / 4)) d
  else d

/-- One RCLK cycle. -/
def tick (s : State) : State :=
  let e : Env := { time := s.time.toNat, chip := s.chip }
  let r := s.dev.slewTick e
  { s with dev := (List.range 16).foldl (fun (d : Dev) k => d.tickSect k) ((r.1.hostAccept 0).hostAccept 1), time := s.time + BitVec.ofNat 64 r.2 }

end Sys2Proof.Machine
end

