-- ==== Sys2Proof/Safety.lean ====
section
/-! DEFINITION. What the statements are about: a group that may issue an instruction, and what a command leaves unchanged. -/

namespace Sys2Proof.Machine

/-- Keys strictly rising. -/
def Sparse.sorted {α : Type} : Sparse α → Bool
  | [] => true
  | (k, _) :: t => Sparse.above k t && Sparse.sorted t

/-! A group at its next instruction. -/

/-- The group as it stands at its next instruction, where it may issue: resident and running, its section's clocks on, the
reconvergence stack settled (R39, R48, R473). -/
def Dev.atIssue (d : Dev) (g : Gid) : Option Group :=
  let x := d.grp g
  if x.live && x.st == .run && !d.issueStopped (sectOf g.core) then
    match x.settled with
    | .run pc mask stack => some { x with pc := pc, mask := mask, stack := stack }
    | _ => none
  else none

/-- The word asked for is the one that the core's instruction cache holds. -/
def Fetched.isWord : Fetched → Bool
  | .word _ => true
  | _ => false

/-- The words of an instruction are the ones at the group's pc (R66). -/
def Dev.fetches (d : Dev) (g : Gid) (w : AWord) (k : Code) (x : Group) : Bool :=
  (d.fetchWord g (d.launchOf x.launch) x.pc.toNat (wordLo w k.cls k.op)).isWord &&
  (!w.x || (d.fetchWord g (d.launchOf x.launch) (x.pc.toNat + 8) (wordHi w)).isWord)

/-- The group that its quarter selects stands at an instruction of row k that is legal, with operands that are well formed, free and
of good parity (R39, R66-R74, R98). -/
abbrev Dev.Ready (d : Dev) (g : Gid) (w : AWord) (k : Code) (legal : Bool) (ops : List Opnd) (x : Group) : Prop :=
  d.atIssue g = some x ∧ d.fetches g w k x = true ∧ k.legal w = true ∧ legal = true ∧ operandsOk x w k ops = true ∧
    x.regsFree ops = true ∧ d.picks g w.busy = true ∧ (d.issueOf g w x).parityLanes ops = 0

/-! What a command leaves unchanged. -/

/-- Registers that an issue counts in: the issues of its class and the programmable counters of its core (R523, R524). -/
def issueCounter (core cls off : Nat) : Prop := off = CNT_CLASS.off core cls ∨ ∃ i, i < 8 ∧ off = PMC.off core i

/-- Outside the device nothing changes. -/
abbrev SameOutside (s t : State) : Prop := t.acorn = s.acorn ∧ t.time = s.time ∧ t.chip = s.chip ∧ t.pending = s.pending

/-- A group instruction of a class that changes its own group alone, to y: no other group, no memory, no store of
semaphores, no unit changes; the issue is counted, and is the quarter's last. -/
structure OnlyGroup (s t : State) (g : Gid) (cls : Nat) (y : Group) : Prop where
  group : t.dev.grp g = y
  groups : ∀ h, gidKey h ≠ gidKey g → t.dev.grp h = s.dev.grp h
  core : t.dev.core = { s.dev.core with groups := t.dev.core.groups, turn := (s.dev.turned g).core.turn }
  dev : t.dev = { s.dev with regs := t.dev.regs, core := t.dev.core }
  regs : ∀ off, ¬ issueCounter g.core cls off → t.dev.reg off = s.dev.reg off
  counted : t.dev.get (CNT_CLASS.COUNT g.core cls) = satAdd 64 (s.dev.get (CNT_CLASS.COUNT g.core cls)) 1
  outside : SameOutside s t

/-- A launch of this identity is in progress. -/
def Dev.known (d : Dev) (id : Nat) : Prop := ∃ l ∈ d.core.launches, l.id = id

/-- A group that takes an exception: it halts at the instruction, which performs nothing; its launch takes the capture; no
other group, launch or memory changes (R97, R102). -/
structure Raised (s t : State) (g : Gid) (x : Group) (ex : Exc) : Prop where
  group : t.dev.grp g = { x with st := .halted }
  groups : ∀ h, gidKey h ≠ gidKey g → t.dev.grp h = s.dev.grp h
  launch : s.dev.known x.launch →
    t.dev.launchOf x.launch = (s.dev.launchOf x.launch).take (s.dev.capture ex g x s.time.toNat)
  others : s.dev.known x.launch → ∀ i, i ≠ x.launch → t.dev.launchOf i = s.dev.launchOf i
  units : t.dev = { s.dev with regs := t.dev.regs, core := t.dev.core }
  outside : SameOutside s t

/-- The address after an instruction's words (R67, R68). -/
def nextPc (x : Group) (w : AWord) : DWord := x.pc + (if w.x then 16 else 8)

/-- A group instruction answers a next state in which its own group alone has changed, to y past the instruction's words. -/
def Does (i : Instr) (s : State) (g : Gid) (cls : Nat) (y : Group) : Prop :=
  ∃ t, exec i s = .next t ∧ OnlyGroup s t g cls { y with denied := none, stall := 0 }

/-- A group instruction answers a next state in which its group has taken an exception and nothing else was performed. -/
def Traps (i : Instr) (s : State) (g : Gid) (x : Group) (ex : Exc) : Prop := ∃ t, exec i s = .next t ∧ Raised s t g x ex

/-- A command answers a next state whose device satisfies p; outside the device nothing changes. -/
def Answers (i : Instr) (s : State) (p : Dev → Prop) : Prop := ∃ t, exec i s = .next t ∧ SameOutside s t ∧ p t.dev

/-- A command answers a next state whose meter satisfies p; outside the meter nothing changes. -/
def Seals (i : Instr) (s : State) (p : AcornSys → Prop) : Prop :=
  ∃ t, exec i s = .next t ∧ t.dev = s.dev ∧ t.time = s.time ∧ t.chip = s.chip ∧ t.pending = s.pending ∧ p t.acorn

/-- The rows that are Acorn's own: what enters its port and what its clock, its supply and its reference do (R490, R492, R502-R506). -/
inductive MeterRow : Instr → Prop where
  | activity (h : FrameHead) (rows : List ActivityRow) : MeterRow (.activity h rows)
  | acornReport (h : FrameHead) (m : AcornMsg) : MeterRow (.acornReport h m)
  | request (h : FrameHead) (f n nonce : Nat) : MeterRow (.request h f n nonce)
  | acornInterval (nj : List Nat) : MeterRow (.acornInterval nj)
  | requestedReading : MeterRow .requestedReading
  | acornNvWrite : MeterRow .acornNvWrite
  | acornSupplyLoss (us : Nat) (nj : List Nat) (written : Bool) : MeterRow (.acornSupplyLoss us nj written)
  | acornPowerUp : MeterRow .acornPowerUp
  | refLost : MeterRow .refLost
  | refRestored : MeterRow .refRestored

/-- The rows that burn fuses (R484). -/
inductive FuseRow : Instr → Prop where
  | provisionKey (bus : Bool) (slot digest : Nat) : FuseRow (.provisionKey bus slot digest)
  | revokeKey (bus : Bool) (slot : Nat) : FuseRow (.revokeKey bus slot)

/-- The memories are in canonical form: the scratchpads and HBM, and the memory of the hosts. -/
def Canonical (s : State) : Prop := Memory.wf s.dev.mem.cells = true ∧ Memory.wf s.dev.mem.host = true

/-- The owner, prior owner and pending mark of a bank set are as before. -/
abbrev SameSet (d d' : Dev) (c k : Nat) : Prop :=
  d'.get (SP_OWN.OWNER c k) = d.get (SP_OWN.OWNER c k) ∧ d'.get (SP_OWN.PENDING c k) = d.get (SP_OWN.PENDING c k)

/-- The L2 takes a sector for a partition without a victim: it holds it or its line, or its slice has a way to spare. -/
def Dev.l2HasRoom (d : Dev) (s part : Nat) : Prop :=
  (d.mem.l2.look s).held = true ∨ (∃ x ∈ d.mem.l2lines, x.1 = s / 4) ∨
    (d.l2Lines (d.sliceOf (s / 4 * 4))).length < (d.l2Ways part).length

/-- A reliable packet of a type reaches this device in good order: KLP takes it on the port, its source is not dead, its flow accepts the
packet number and has not seen it; no acknowledgement is asked for at once (R391, R400-R402). -/
def Dev.Takes (d : Dev) (l : Nat) (p : Packet) (type : Nat) : Prop :=
  d.klpTakes l p type = true ∧ d.peerDead p.src = false ∧ p.ackNow = false ∧
    ∃ f, (d.rflow p.src).forEpoch p = some f ∧ psnAbove p.psn f.cum ≤ 1023 ∧ f.done.contains p.psn = false ∧ f.opened.contains p.psn = false

/-- No peer's packets wait for a flow to be free (R400). -/
def Dev.noneWait (d : Dev) : Bool := d.fab.send.all (fun x => x.2.live || x.2.pkts.isEmpty)

/-- Nothing but its send flow ties the device to a peer: no wait there, no dispatch context and no collective context in use. -/
def Dev.quietPeer (d : Dev) (id : Nat) : Prop :=
  (∀ x ∈ d.ses.remote, x.1 ≠ id) ∧ (∀ c, c < 64 → d.ectxState c = 0) ∧ ∀ c, c < 256 → (d.coll c).armed = false

/-- The head of an array's queue needs a further event: no mode waits to be set, no drain to swap the banks. -/
def Arr.steady (a : Arr) : Bool := !a.headFree

/-! The rows of the operation-code table that share a shape: constructor, OP, operation, number of sources (R71). -/

/-- A row of arithmetic of an operation type. -/
abbrev ArithRow (o : Type) := (Gid → AWord → Instr) × Nat × o × Nat

/-- FALU. -/
def faluRows : List (ArithRow FOp) :=
  [(.fadd, 0, .add, 2), (.fsub, 1, .sub, 2), (.ffma, 2, .fma, 3), (.fmul, 3, .mul, 2), (.fmin, 4, .min, 2), (.fmax, 5, .max, 2),
   (.fabs, 6, .abs, 1), (.fneg, 7, .neg, 1)]

/-- IALU. -/
def ialuRows : List (ArithRow IOp) :=
  [(.iadd, 0, .add, 2), (.isub, 1, .sub, 2), (.imul, 2, .mul, 2), (.imad, 3, .mad, 3), (.imin, 4, .min, 2), (.imax, 5, .max, 2),
   (.and, 6, .and, 2), (.or, 7, .or, 2), (.xor, 8, .xor, 2), (.not, 9, .not, 1), (.shl, 10, .shl, 2), (.shr, 11, .shr, 2),
   (.sar, 12, .sar, 2), (.popc, 13, .popc, 1), (.clz, 14, .clz, 1)]

/-- F64. -/
def f64Rows : List (ArithRow FOp) :=
  [(.dadd, 0, .add, 2), (.dmul, 1, .mul, 2), (.dfma, 2, .fma, 3), (.dmin, 3, .min, 2), (.dmax, 4, .max, 2)]

/-- The built-in tables of the function-table unit: constructor, OP, table. -/
def tableRows : List ((Gid → AWord → Instr) × Nat × Nat) := [(.rcp, 2, 0), (.rsq, 3, 1), (.exp2, 4, 2), (.log2, 5, 3)]

/-- The SEM instructions on one word: constructor, OP, whether EXT is a timeout, whether B holds N. -/
def semRows : List ((Gid → AWord → Instr) × Nat × Bool × Bool) :=
  [(.semWait, 0, true, true), (.semTake, 1, true, true), (.semAdd, 2, false, true), (.semSub, 3, false, true),
   (.semSet, 4, false, true), (.semArrive, 7, true, false), (.semProd, 8, false, true), (.semCons, 9, false, true)]

/-- The operands of a row with n registers each, the second source with nb. -/
def arithOps (w : AWord) (regs nb n : Nat) : List Opnd := dst w.d regs :: [src w.a regs, src w.b nb, src w.c regs].take n

/-- Everything but named parts of the device is as before: a command that changes registers alone. -/
abbrev OnlyRegs (s t : State) : Prop := t.dev = { s.dev with regs := t.dev.regs } ∧ SameOutside s t

end Sys2Proof.Machine
end

