-- ==== Sys2Proof/Certificates/Slice0/Obligations.lean ====
section
/-! DEFINITION. The statements for the provers. -/

open Sys2Proof Sys2Proof.Machine

/-! The queue. -/

/-- A step performs the command at the front of the queue on the state with the queue's rest. -/
def Obligations.StepRunsFrontCommand : Prop :=
  ∀ (c : Instr) (s : State), step { s with pending := c :: s.pending } = exec c s

/-! Arithmetic of the quarters. -/

/-- Every FALU instruction writes, in each executing lane or once where it is uniform, the result of its operation on each field
of its type, and changes nothing else of the machine (R69-R71, R74, R148-R150). -/
def Claims.FaluResults : Prop :=
  ∀ r ∈ faluRows, ∀ (g : Gid) (w : AWord) (s : State) (x : Group) (f : Fmt) (k : Nat),
    faluType (AWord.type w) = some (f, k) →
    s.dev.Ready g w { cls := 1, op := r.2.1 } ((faluType (AWord.type w)).isSome && !AWord.top w) (arithOps w 1 1 r.2.2.2) x →
    Does (r.1 g w) s g 1
      { x.mapLanes (x.execMask w.guard) (arithOps w 1 1 r.2.2.2) 1 w.d.toNat (fun l =>
          eachField f.width k (f.op r.2.2.1 (AWord.rnd w) (AWord.sat w)) (x.rd w.imm w.a.toNat l) (x.rd w.imm w.b.toNat l)
            (x.rd w.imm w.c.toNat l)) with pc := nextPc x w }

/-- Every IALU instruction, likewise: pairs for 64-bit types, the shift count one register (R73, R151). -/
def Claims.IaluResults : Prop :=
  ∀ r ∈ ialuRows, ∀ (g : Gid) (w : AWord) (s : State) (x : Group) (n fw k : Nat) (sg : Bool),
    ialuType (AWord.type w) = some (n, fw, k, sg) →
    s.dev.Ready g w { cls := 2, op := r.2.1 } ((ialuType (AWord.type w)).isSome && !AWord.top w)
      (arithOps w n (if r.2.2.1.isShift then 1 else n) r.2.2.2) x →
    Does (r.1 g w) s g 2
      { x.mapLanes (x.execMask w.guard) (arithOps w n (if r.2.2.1.isShift then 1 else n) r.2.2.2) n w.d.toNat (fun l =>
          eachField fw k (r.2.2.1.field fw sg (AWord.sat w)) (x.rdN w.imm n w.a.toNat l)
            (x.rdN w.imm (if r.2.2.1.isShift then 1 else n) w.b.toNat l) (x.rdN w.imm n w.c.toNat l)) with pc := nextPc x w }

/-- Every F64 instruction, on pairs (R73, R148-R150). -/
def Claims.F64Results : Prop :=
  ∀ r ∈ f64Rows, ∀ (g : Gid) (w : AWord) (s : State) (x : Group),
    s.dev.Ready g w { cls := 6, op := r.2.1 } (AWord.type w == 0 && !AWord.top w) (arithOps w 2 2 r.2.2.2) x →
    Does (r.1 g w) s g 6
      { x.mapLanes (x.execMask w.guard) (arithOps w 2 2 r.2.2.2) 2 w.d.toNat (fun l =>
          fp64.op r.2.2.1 (AWord.rnd w) (AWord.sat w) (x.rdN w.imm 2 w.a.toNat l) (x.rdN w.imm 2 w.b.toNat l)
            (x.rdN w.imm 2 w.c.toNat l)) with pc := nextPc x w }

/-- An IADD, ISUB, AND, OR or XOR of a 32-bit type without saturation into a v register: each executing lane holds the result
modulo 2^32, every other lane and register, the predicates and the flags are as before (R70, R151). -/
def Claims.WrappingLanes : Prop :=
  ∀ r ∈ ([(.iadd, 0, fun a b => (a + b) % 2 ^ 32), (.isub, 1, fun a b => (a + (2 ^ 32 - b)) % 2 ^ 32), (.and, 6, fun a b => a &&& b),
      (.or, 7, fun a b => a ||| b), (.xor, 8, fun a b => a ^^^ b)] : List ((Gid → AWord → Instr) × Nat × (Nat → Nat → Nat))),
  ∀ (g : Gid) (w : AWord) (s : State) (x : Group),
    AWord.type w < 2 → AWord.sat w = false → w.d.toNat < 0xFF →
    s.dev.Ready g w { cls := 2, op := r.2.1 } ((ialuType (AWord.type w)).isSome && !AWord.top w) (arithOps w 1 1 2) x →
    ∃ t, exec (r.1 g w) s = .next t ∧
      (∀ l, l < 32 → (t.dev.grp g).rv w.d.toNat l =
        if bit (x.execMask w.guard) l then r.2.2 (x.rd w.imm w.a.toNat l) (x.rd w.imm w.b.toNat l) else x.rv w.d.toNat l) ∧
      (∀ n l, l < 32 → n ≠ w.d.toNat → (t.dev.grp g).rv n l = x.rv n l) ∧
      (t.dev.grp g).u = x.u ∧ (t.dev.grp g).p = x.p ∧ (t.dev.grp g).flags = x.flags ∧ (t.dev.grp g).pc = nextPc x w

/-- The lane operations of CONV (R80, R152). -/
def Obligations.ConversionResults : Prop :=
  ∀ (g : Gid) (w : AWord) (s : State) (x : Group),
    (∀ n, n = (if AWord.type w = 1 then 2 else 1) →
      s.dev.Ready g w (conv 0) (decide (w.mod.toNat < 2)) [dst w.d n, src w.a n] x →
      Does (.mov g w) s g 3 { x.mapLanes (x.execMask w.guard) [dst w.d n, src w.a n] n w.d.toNat
        (fun l => (x.rdN w.imm n w.a.toNat l, 0)) with pc := nextPc x w }) ∧
    (s.dev.Ready g w (conv 1) (decide (w.mod.toNat < 2)) [dst w.d, src w.a, src w.b, psrc w.c] x →
      Does (.sel g w) s g 3 { x.mapLanes (x.execMask w.guard) [dst w.d, src w.a, src w.b, psrc w.c] 1 w.d.toNat
        (fun l => (x.rd w.imm (if bit (x.predMask w.c.toNat) l != w.mod.getLsbD 0 then w.a.toNat else w.b.toNat) l, 0))
        with pc := nextPc x w }) ∧
    (s.dev.Ready g w (conv 2) (w.b.toNat / 16 == 0 && !AWord.top w && cvtLegal (w.b.toNat % 16) (AWord.type w))
        [dst w.d, src w.a] x →
      Does (.cvt g w) s g 3 { x.mapLanes (x.execMask w.guard) [dst w.d, src w.a] 1 w.d.toNat
        (fun l => cvt (w.b.toNat % 16) (AWord.type w) (AWord.rnd w) (AWord.sat w) (x.rd w.imm w.a.toNat l))
        with pc := nextPc x w }) ∧
    (s.dev.Ready g w (conv 3) (decide (w.mod.toNat < 4)) [dst w.d, src w.a, src w.b] x →
      Does (.shfl g w) s g 3 { x.mapLanes (x.execMask w.guard) [dst w.d, src w.a, src w.b] 1 w.d.toNat
        (fun l => (x.rd w.imm w.a.toNat
          (match shflLane w.mod.toNat (x.rd w.imm w.b.toNat l) l with
            | some k => if bit (x.execMask w.guard) k then k else l
            | none => l), 0)) with pc := nextPc x w }) ∧
    (s.dev.Ready g w (conv 4) (w.mod == 0) [udst w.d, src w.a, usrc w.b] x →
      Does (.rdlane g w) s g 3 { x.wr w.d.toNat 0 (x.rd w.imm w.a.toNat (x.rd w.imm w.b.toNat 0 % 32)) with pc := nextPc x w }) ∧
    (s.dev.Ready g w (conv 5) (decide (w.mod.toNat < 3)) [udst w.d, psrc w.a] x →
      Does (.vote g w) s g 3 { x.wr w.d.toNat 0
        (if w.mod.toNat = 0 then x.predMask w.a.toNat &&& x.execMask w.guard
         else if w.mod.toNat = 1 then b2n (x.predMask w.a.toNat &&& x.execMask w.guard == x.execMask w.guard)
         else b2n (x.predMask w.a.toNat &&& x.execMask w.guard != 0)) with pc := nextPc x w }) ∧
    (s.dev.Ready g w (conv 6) (w.mod == 0) [dst w.d, src w.a] x →
      Does (.bcast g w) s g 3 { x.mapLanes (x.execMask w.guard) [dst w.d, src w.a] 1 w.d.toNat
        (fun _ => (x.rd w.imm w.a.toNat (lowLane (x.execMask w.guard)), 0)) with pc := nextPc x w })

/-- Compares write PD and flags alone (R75, R79). -/
def Claims.CompareResults : Prop :=
  ∀ (g : Gid) (w : AWord) (s : State) (x : Group),
    (∀ f n, fsetpType (AWord.type w) = some (f, n) →
      s.dev.Ready g w { cls := 4, op := 0 } ((fsetpType (AWord.type w)).isSome && !AWord.top w) [src w.a n, src w.b n, vzero w.c] x →
      Does (.fsetp g w) s g 4 { x.compareLanes (x.execMask w.guard) [src w.a n, src w.b n, vzero w.c] w.pd.toNat
        (fun l => f.compare (AWord.cmpop w) (x.rdN w.imm n w.a.toNat l) (x.rdN w.imm n w.b.toNat l)) with pc := nextPc x w }) ∧
    (∀ n, n = (if 2 ≤ AWord.type w then 2 else 1) →
      s.dev.Ready g w { cls := 4, op := 1 } (decide (AWord.type w < 4) && !AWord.top w && decide (AWord.cmpop w < 6))
        [src w.a n, src w.b n, vzero w.c] x →
      Does (.isetp g w) s g 4 { x.compareLanes (x.execMask w.guard) [src w.a n, src w.b n, vzero w.c] w.pd.toNat
        (fun l => (intCompare (AWord.cmpop w) (intValue (32 * n) (AWord.type w % 2 == 0) (x.rdN w.imm n w.a.toNat l))
          (intValue (32 * n) (AWord.type w % 2 == 0) (x.rdN w.imm n w.b.toNat l)), 0)) with pc := nextPc x w }) ∧
    (s.dev.Ready g w { cls := 4, op := 2 } true [psrc w.a, psrc w.b, psrc w.c] x →
      Does (.plop g w) s g 4 { x.setPred w.pd.toNat (x.execMask w.guard)
        (maskOf ((List.range 32).filter fun l => bit w.mod.toNat
          (4 * b2n (bit (x.predMask w.a.toNat) l) + 2 * b2n (bit (x.predMask w.b.toNat) l) + b2n (bit (x.predMask w.c.toNat) l))))
        with pc := nextPc x w })

/-- PLOP into PD: in each executing lane the bit of the truth table that the three predicates name, in every other lane the
bit before; every other predicate as before (R75, R79). -/
def Claims.PredicateLanes : Prop :=
  ∀ (g : Gid) (w : AWord) (s : State) (x : Group),
    s.dev.Ready g w { cls := 4, op := 2 } true [psrc w.a, psrc w.b, psrc w.c] x →
    ∃ t, exec (.plop g w) s = .next t ∧
      (∀ l, l < 32 → bit ((t.dev.grp g).predMask w.pd.toNat) l =
        if bit (x.execMask w.guard) l then
          bit w.mod.toNat (4 * b2n (bit (x.predMask w.a.toNat) l) + 2 * b2n (bit (x.predMask w.b.toNat) l) +
            b2n (bit (x.predMask w.c.toNat) l))
        else bit (x.predMask w.pd.toNat) l) ∧
      (∀ q, q ≠ w.pd.toNat → (t.dev.grp g).predMask q = x.predMask q) ∧
      (t.dev.grp g).v = x.v ∧ (t.dev.grp g).u = x.u ∧ (t.dev.grp g).flags = x.flags

/-- The built-in tables write the result, a free value within the bound of the rule, and its flags, in each executing lane (R70, R78).
What the manual leaves open here is as log entry 11 says. -/
def Claims.TableResults : Prop :=
  ∀ r ∈ tableRows, ∀ (g : Gid) (w : AWord) (s : State) (x : Group),
    s.dev.Ready g w { cls := 5, op := r.2.1, form := .short } true [dst w.d, src w.a] x →
    Does (r.1 g w) s g 5 { x.mapLanes (x.execMask w.guard) [dst w.d, src w.a] 1 w.d.toNat
      (fun l => (builtin32 r.2.2 (BitVec.ofNat 32 (x.rd w.imm w.a.toNat l)),
        Config.builtinFlags r.2.2 (BitVec.ofNat 32 (x.rd w.imm w.a.toNat l)) % 16)) with pc := nextPc x w }

/-- FTAB.EV evaluates a loaded slot of the launch's mask; FTAB.LD makes the slot busy with the table read from the scratchpad, and
at the end of the load the slot holds it (R78, R163). -/
def Claims.FunctionTables : Prop :=
  (∀ (g : Gid) (w : AWord) (s : State) (x : Group),
    s.dev.Ready g w { cls := 5, op := 0, form := .short } (!AWord.top w) [dst w.d, src w.a] x → x.execMask w.guard ≠ 0 →
    bit (s.dev.launchOf x.launch).tables (AWord.slot w) = true →
    (s.dev.ftabOf g.core (AWord.slot w)).busy = false → (s.dev.ftabOf g.core (AWord.slot w)).loaded = true →
    Does (.ftabEv g w) s g 5 { x.mapLanes (x.execMask w.guard) [dst w.d, src w.a] 1 w.d.toNat
      (fun l => ftabEval (fun k j => ((s.dev.ftabOf g.core (AWord.slot w)).coef.getD (4 * k + j) 0).toNat)
        (if AWord.sat w then x.rd w.imm w.a.toNat l % 65536 * 65536 else x.rd w.imm w.a.toNat l) (bits w.mod.toNat 2 4))
      with pc := nextPc x w }) ∧
  (∀ (g : Gid) (w : AWord) (s : State) (x : Group) (o : Nat),
    s.dev.Ready g w { cls := 5, op := 1, form := .short } true [usrc w.a] x → x.execMask w.guard ≠ 0 →
    bit (s.dev.launchOf x.launch).tables (AWord.slot w) = true →
    o = x.rd w.imm w.a.toNat 0 → o + 4096 ≤ spSize → s.dev.get (SP_STATUS.FAILED g.core) = 0 →
    s.dev.spAdmits { kernel := (s.dev.launchOf x.launch).kernel, part := (s.dev.launchOf x.launch).part, dma := false, march := false }
      g.core o 4096 = true →
    (s.dev.ftabOf g.core (AWord.slot w)).busy = false → s.dev.sbOverlaps g.core o 4096 false = false → s.dev.mem.upsets = [] →
    ∃ t, exec (.ftabLd g w) s = .next t ∧ (t.dev.ftabOf g.core (AWord.slot w)).busy = true ∧
      (t.dev.ftabOf g.core (AWord.slot w)).next = tableWords (s.dev.spRead g.core o 4096) ∧
      (t.dev.grp g).pc = nextPc x w ∧ (t.dev.grp g).v = x.v ∧ (t.dev.grp g).u = x.u ∧ t.dev.mem = s.dev.mem ∧ SameOutside s t) ∧
  (∀ (core slot : Nat) (s : State), (s.dev.ftabOf core slot).busy = true →
    ∃ t, exec (.ftabLoadComplete core slot) s = .next t ∧
      t.dev.ftabOf core slot = { loaded := true, busy := false, coef := (s.dev.ftabOf core slot).next, next := [] } ∧
      (∀ k, k ≠ core * 4 + slot → Sparse.look t.dev.core.ftab k = Sparse.look s.dev.core.ftab k) ∧
      t.dev.core.groups = s.dev.core.groups ∧ t.dev.mem = s.dev.mem ∧ SameOutside s t)

/-- The SYS instructions read what they name: an identity, the timestamp, the group's cycles, the flag word, which is cleared;
SYS.MARK hands a marker to the recorder (R38, R76, R96). -/
def Obligations.SystemReads : Prop :=
  ∀ (g : Gid) (w : AWord) (s : State) (x : Group),
    (∀ v : Nat → Nat, s.dev.Ready g w (sys 0) true [dst w.d (if w.mod = 0x20 then 2 else 1)] x →
      (∀ l, s.dev.identity g x (s.dev.launchOf x.launch) w.mod.toNat l = some (v l)) →
      ¬ (w.mod.toNat = 0 ∧ isU w.d.toNat = true) →
      Does (.sysId g w) s g 13
        { ((if isU w.d.toNat then (lanesOf (x.execMask w.guard)).take 1 else lanesOf (x.execMask w.guard)).foldl
            (fun y l => y.wrN (if w.mod = 0x20 then 2 else 1) w.d.toNat l (v l)) x) with pc := nextPc x w }) ∧
    (s.dev.Ready g w (sys 1) (w.mod == 0) [udst w.d 2] x → x.execMask w.guard ≠ 0 →
      Does (.sysTime g w) s g 13 { x.wrN 2 w.d.toNat 0 s.time.toNat with pc := nextPc x w }) ∧
    (s.dev.Ready g w (sys 2) (w.mod == 0) [udst w.d 2] x → x.execMask w.guard ≠ 0 →
      Does (.sysCycle g w) s g 13 { x.wrN 2 w.d.toNat 0 ((s.dev.cycles (sectOf g.core) - x.start) / 4) with pc := nextPc x w }) ∧
    (s.dev.Ready g w (sys 3) (w.mod == 0) [udst w.d] x → x.execMask w.guard ≠ 0 →
      Does (.sysFlags g w) s g 13 { x.wr w.d.toNat 0 x.flags.toNat with pc := nextPc x w, flags := 0 }) ∧
    (s.dev.Ready g w (sys 4) (w.mod == 0) [src w.a] x → x.execMask w.guard ≠ 0 →
      s.dev.get REC_CTL.ENABLE = 1 → bit (s.dev.get REC_CTL.KIND_MASK) 0 = true →
      bit (s.dev.get REC_CTL.PART_MASK) (if (s.dev.launchOf x.launch).part < 16 then (s.dev.launchOf x.launch).part else 16) = true →
      (s.dev.core.trace.look g.core).lost = 0 → (s.dev.core.trace.look g.core).packets.length < 1023 →
      ∃ t, exec (.sysMark g w) s = .next t ∧
        (t.dev.core.trace.look g.core).packets = (s.dev.core.trace.look g.core).packets ++
          [{ w0 := traceW0 1 g (x.rd w.imm w.a.toNat (lowLane (x.execMask w.guard))), w1 := BitVec.ofNat 64 s.time.toNat,
             part := (s.dev.launchOf x.launch).part }] ∧
        t.dev.grp g = { x with pc := nextPc x w, denied := none, stall := 0 } ∧ t.dev.mem = s.dev.mem ∧ SameOutside s t)

/-! Control. -/

/-- NOP, CALL, RET and JMPU (R70, R95): a jump moves the whole active mask; where no active lane passes the guard the group goes on at
the next instruction. -/
def Claims.JumpResults : Prop :=
  ∀ (g : Gid) (w : AWord) (s : State) (x : Group),
    (s.dev.Ready g w (ctrl 0) true [] x → Does (.nop g w) s g 0 { x with pc := nextPc x w }) ∧
    (s.dev.Ready g w (ctrl 2 .long) true [udst w.d 2] x →
      Does (.call g w) s g 0 (if x.execMask w.guard = 0 then { x with pc := nextPc x w }
        else { x.wrN 2 w.d.toNat 0 (nextPc x w).toNat with pc := branchTo x.pc w.imm })) ∧
    (s.dev.Ready g w (ctrl 3) true [usrc w.a 2] x →
      Does (.ret g w) s g 0 { x with pc := if x.execMask w.guard = 0 then nextPc x w else BitVec.ofNat 64 (x.rdN w.imm 2 w.a.toNat 0) }) ∧
    (s.dev.Ready g w (ctrl 4) true [usrc w.a 2] x →
      Does (.jmpu g w) s g 0 { x with pc := if x.execMask w.guard = 0 then nextPc x w else BitVec.ofNat 64 (x.rdN w.imm 2 w.a.toNat 0) })

/-- BRA (R48): no lane taken, every lane taken, or a divergent branch that pushes the taken path and goes on with the others. -/
def Claims.BranchResults : Prop :=
  ∀ (g : Gid) (w : AWord) (s : State) (x : Group) (taken other : BitVec 32),
    s.dev.Ready g w (ctrl 1 .long true) true [] x → taken = BitVec.ofNat 32 (x.execMask w.guard) → other = x.mask &&& ~~~taken →
    (taken = 0 → Does (.bra g w) s g 0 { x with pc := nextPc x w }) ∧
    (taken ≠ 0 → other = 0 → Does (.bra g w) s g 0 { x with pc := branchTo x.pc w.imm }) ∧
    (taken ≠ 0 → other ≠ 0 → x.stack.length < 32 →
      Does (.bra g w) s g 0 { x with
        pc := nextPc x w, mask := other,
        stack := { rpc := branchTo x.pc w.ext, pendPc := branchTo x.pc w.imm, pendMask := taken, waitMask := 0, bar := none } :: x.stack })

/-- A divergent branch issued while the stack holds 32 entries raises RECONV_OVERFLOW (R49). -/
def Obligations.BranchOverflow : Prop :=
  ∀ (g : Gid) (w : AWord) (s : State) (x : Group) (taken : BitVec 32),
    s.dev.Ready g w (ctrl 1 .long true) true [] x → taken = BitVec.ofNat 32 (x.execMask w.guard) → taken ≠ 0 →
    x.mask &&& ~~~taken ≠ 0 → x.stack.length = 32 →
    Traps (.bra g w) s g x { code := 0x10, lanes := x.mask.toNat }

/-- TRAP and BKPT take their exceptions (R95, R97). -/
def Claims.TrapResults : Prop :=
  ∀ (g : Gid) (w : AWord) (s : State) (x : Group), x.execMask w.guard ≠ 0 →
    (s.dev.Ready g w (ctrl 8) true [] x →
      Traps (.trap g w) s g x { code := 0x20, lanes := x.execMask w.guard, trap := w.mod.toNat }) ∧
    (s.dev.Ready g w (ctrl 9) true [] x → Traps (.bkpt g w) s g x { code := 0x21, lanes := x.execMask w.guard })

/-- EXIT (R50): the executing lanes leave the group for good; where other lanes of the path remain, the group goes on without them; where
no live lane remains on any path and no access is in flight, the group is no longer resident. -/
def Claims.ExitResults : Prop :=
  ∀ (g : Gid) (w : AWord) (s : State) (x : Group) (em : BitVec 32),
    s.dev.Ready g w (ctrl 5) true [] x → em = BitVec.ofNat 32 (x.execMask w.guard) →
    (x.mask &&& ~~~em ≠ 0 →
      Does (.exit g w) s g 0 { x with pc := nextPc x w, exited := x.exited ||| em, mask := x.mask &&& ~~~em }) ∧
    (x.mask &&& ~~~em = 0 → x.stack = [] → x.accs = [] →
      ∃ t, exec (.exit g w) s = .next t ∧ (t.dev.grp g).live = false ∧
        (∀ h, gidKey h ≠ gidKey g → t.dev.grp h = s.dev.grp h) ∧ t.dev.mem.cells = s.dev.mem.cells ∧ SameOutside s t)

/-- The rows of the two barriers: constructor, OP, whether the barrier is a cluster's. Every live lane at the barrier, none waiting
for it below: the group arrives and parks past it, once its accesses have returned and the release side has nothing to wait for. A
partial arrival whose stack entry holds the other path saves the arriving lanes and switches to that path (R58-R60). -/
def Claims.BarrierArrives : Prop :=
  ∀ r ∈ ([(.bar, 6, false), (.barClu, 7, true)] : List ((Gid → AWord → Instr) × Nat × Bool)),
  ∀ (g : Gid) (w : AWord) (s : State) (x : Group) (id : Nat),
    s.dev.Ready g w (ctrl r.2.1) (!w.guard.getLsbD 4 && (!r.2.2 || bits w.mod.toNat 2 2 == 0)) [] x →
    id = (if r.2.2 then bits w.mod.toNat 0 2 else bits w.mod.toNat 0 4) →
    (x.mask = ~~~x.exited → (∀ t, x.stack.head? = some t → t.bar = none) → x.accs = [] →
      s.dev.releaseReady g x (if r.2.2 then 3 else 2) = true →
      ∃ t, exec (r.1 g w) s = .next t ∧
        t.dev.grp g = { x with st := .barrier r.2.2 id, pc := nextPc x w, denied := none, stall := 0 } ∧
        (∀ h, gidKey h ≠ gidKey g → t.dev.grp h = s.dev.grp h) ∧ t.dev.mem = s.dev.mem ∧ t.dev.ses = s.dev.ses ∧ SameOutside s t) ∧
    (∀ e rest, x.stack = e :: rest → e.bar = none → x.mask ≠ ~~~x.exited → e.pendMask ≠ 0 →
      (∀ q ∈ rest, q.bar = none → q.pendMask &&& ~~~x.exited = 0) →
      Does (r.1 g w) s g 0 { x with
        pc := e.pendPc, mask := e.pendMask,
        stack := { e with pendPc := nextPc x w, pendMask := x.mask, bar := some (r.2.2, id) } :: rest })

/-- A barrier releases when every group of the block, or of every block of the cluster, has arrived or ended: every parked group runs
(R58). -/
def Claims.BarrierReleases : Prop :=
  (∀ (core block id : Nat) (b : Block) (s : State),
    s.dev.core.blocks.find? (fun c => c.id == block && c.core == core) = some b → s.dev.arrivedAll b false id = true →
    ∃ t, exec (.blockBarrierRelease core block id) s = .next t ∧
      (∀ h ∈ s.dev.parkedAt b false id, t.dev.grp h = { s.dev.grp h with st := .run }) ∧
      (∀ h, (∀ k ∈ s.dev.parkedAt b false id, gidKey h ≠ gidKey k) → t.dev.grp h = s.dev.grp h) ∧
      t.dev.mem = s.dev.mem ∧ SameOutside s t) ∧
  (∀ (launch cluster id : Nat) (s : State),
    (∀ b ∈ s.dev.core.blocks, b.launch = launch → b.cluster = cluster → s.dev.arrivedAll b true id = true) →
    ∃ t, exec (.clusterBarrierRelease launch cluster id) s = .next t ∧
      (∀ b ∈ s.dev.core.blocks, b.launch = launch → b.cluster = cluster → ∀ h ∈ s.dev.parkedAt b true id,
        (t.dev.grp h).st = .run ∧ (t.dev.grp h).pc = (s.dev.grp h).pc ∧ (t.dev.grp h).v = (s.dev.grp h).v ∧
          (t.dev.grp h).u = (s.dev.grp h).u) ∧
      t.dev.mem = s.dev.mem ∧ SameOutside s t)

/-- A word that is illegal for its row raises ILLEGAL_INSTRUCTION, and one whose operands are not well formed ILLEGAL_OPERAND; the
instruction performs nothing (R71-R73, R97). That a word with both faults raises the first is the model's reading (log entry 78).
Stated for the operations of one result, whose checks are the same. -/
def Obligations.IllegalWordsTrap : Prop :=
  (∀ r ∈ ialuRows, ∀ (g : Gid) (w : AWord) (s : State) (x : Group), s.dev.atIssue g = some x →
    s.dev.fetches g w { cls := 2, op := r.2.1 } x = true → s.dev.picks g w.busy = true →
    (w.rsv = true ∨ ialuType (AWord.type w) = none ∨ AWord.top w = true ∨ (w.x = true ∧ w.ext ≠ 0)) →
    Traps (r.1 g w) s g x { code := xIllegal, lanes := x.execMask w.guard }) ∧
  (∀ r ∈ ialuRows, ∀ (g : Gid) (w : AWord) (s : State) (x : Group) (n fw k : Nat) (sg : Bool), s.dev.atIssue g = some x →
    s.dev.fetches g w { cls := 2, op := r.2.1 } x = true → s.dev.picks g w.busy = true →
    w.rsv = false → ialuType (AWord.type w) = some (n, fw, k, sg) → AWord.top w = false → (w.x = true → w.ext = 0) →
    operandsOk x w { cls := 2, op := r.2.1 } (arithOps w n (if r.2.2.1.isShift then 1 else n) r.2.2.2) = false →
    Traps (r.1 g w) s g x { code := xOperand, lanes := x.execMask w.guard })

/-! Memory. -/

/-- LD and LDS whose pieces all pass join the group's accesses in flight and write nothing until they are answered (R82, R84, R90, R540):
one more access with the lanes' addresses, the group past the instruction, held where the load acquires; memory as before. -/
def Claims.LoadsJoin : Prop :=
  ∀ r ∈ ([(.ld, 0, .zeroExt), (.lds, 1, .signExt)] : List ((Gid → AWord → Instr) × Nat × AccKind)),
  ∀ (g : Gid) (w : AWord) (s : State) (x : Group) (ts : List Target),
    s.dev.Ready g w { cls := 7, op := r.2.1 } (AWord.memLegal w) [dst w.d (AWord.sizeRegs w), src w.a 2, src w.b] x →
    x.execMask w.guard ≠ 0 →
    s.dev.checkPieces (s.dev.issueOf g w x) (AWord.phys w) kRead
      (lanePieces (x.execMask w.guard) (AWord.size w) ((s.dev.issueOf g w x).laneAddr true)) (loadExtra (AWord.size w)) (fun _ => none)
      = ts.map (fun t => (t.1, .ok t.2.1 t.2.2)) →
    s.dev.boardHolds g.core false ts = false → (∀ t ∈ ts, s.dev.spanHeld g false t = false) → x.missing = false → s.dev.mem.upsets = [] →
    ∃ t a, exec (r.1 g w) s = .next t ∧ (t.dev.grp g).accs = x.accs ++ [a] ∧
      a.pc = x.pc ∧ a.kind = r.2.2 ∧ a.size = AWord.size w ∧ a.d = w.d.toNat ∧
      a.lanes = (lanesOf (x.execMask w.guard)).map (fun l => (l, (s.dev.issueOf g w x).laneAddr true l)) ∧
      a.acq = (if AWord.ord w then AWord.scope w else 0) ∧
      (t.dev.grp g).st = (if a.acq = 0 then .run else .acquire a.id) ∧ (t.dev.grp g).pc = nextPc x w ∧
      (t.dev.grp g).v = x.v ∧ (t.dev.grp g).u = x.u ∧ (t.dev.grp g).p = x.p ∧
      t.dev.mem.cells = s.dev.mem.cells ∧ (s.dev.mem.hostq = [] → t.dev.mem.host = s.dev.mem.host) ∧ t.dev.ses.words = s.dev.ses.words ∧
      SameOutside s t

/-- A load of scratchpad bytes binds each byte of each piece as the scratchpad holds it, and waits for nothing (R85, R196, R540). -/
def Claims.LoadScratchpadBytes : Prop :=
  ∀ r ∈ ([(.ld, 0, .zeroExt), (.lds, 1, .signExt)] : List ((Gid → AWord → Instr) × Nat × AccKind)),
  ∀ (g : Gid) (w : AWord) (s : State) (x : Group) (ts : List Target),
    s.dev.Ready g w { cls := 7, op := r.2.1 } (AWord.memLegal w) [dst w.d (AWord.sizeRegs w), src w.a 2, src w.b] x →
    x.execMask w.guard ≠ 0 →
    s.dev.checkPieces (s.dev.issueOf g w x) (AWord.phys w) kRead
      (lanePieces (x.execMask w.guard) (AWord.size w) ((s.dev.issueOf g w x).laneAddr true)) (loadExtra (AWord.size w)) (fun _ => none)
      = ts.map (fun t => (t.1, .ok t.2.1 t.2.2)) →
    (∀ t ∈ ts, ∃ c o, t.2.1 = .sp c o ∧ s.dev.issueStopped (sectOf c) = false) →
    s.dev.boardHolds g.core false ts = false → (∀ t ∈ ts, s.dev.spanHeld g false t = false) → s.dev.mem.upsets = [] →
    ∃ t a, exec (r.1 g w) s = .next t ∧ (t.dev.grp g).accs = x.accs ++ [a] ∧ a.waits = [] ∧
      ∀ q ∈ ts, ∀ c o, q.2.1 = .sp c o → ∀ k, k < q.1.n →
        Sparse.look a.bytes (16 * q.1.lane + q.1.at' + k) = readByte s.dev.mem.cells (spAddr c o + k)

/-- An access whose data is bound and free of poison is answered: its lanes' registers are written and it is in flight no more; an
acquiring access of cluster scope or wider also empties the core's L1 and Husk (R90, R91, R540). -/
def Claims.AccessAnswers : Prop :=
  ∀ (g : Gid) (id : Nat) (s : State) (a : Access),
    (s.dev.grp g).live = true → (s.dev.grp g).accs.find? (fun b => b.id == id) = some a → a.waits = [] → a.poison = 0 →
    (a.acq = 0 → ∃ t, exec (.accessResponse g id) s = .next t ∧
      t.dev = s.dev.setGrp g (a.writeBack { s.dev.grp g with accs := (s.dev.grp g).accs.filter (fun b => b.id != id) }) ∧ SameOutside s t) ∧
    (a.acq ≠ 0 → (s.dev.grp g).accs.head?.map (fun b => b.id) = some id → (s.dev.grp g).st = .acquire id →
      ∃ t, exec (.accessResponse g id) s = .next t ∧
        t.dev.grp g = { a.writeBack { s.dev.grp g with accs := (s.dev.grp g).accs.filter (fun b => b.id != id) } with st := .run } ∧
        (3 ≤ a.acq → t.dev.core.husk.look g.core = [] ∧ ∀ k, k < 2048 → t.dev.core.l1.look (g.core * 2048 + k) = default) ∧
        (a.acq < 3 → t.dev.core.l1 = s.dev.core.l1 ∧ t.dev.core.husk = s.dev.core.husk) ∧
        t.dev.mem = s.dev.mem ∧ SameOutside s t)

/-- An access whose data came back poisoned halts its group with POISON_CONSUMED for the poisoned lanes, and writes no register
(R540). -/
def Claims.PoisonedAccessTraps : Prop :=
  ∀ (g : Gid) (id : Nat) (s : State) (a : Access),
    (s.dev.grp g).live = true → (s.dev.grp g).accs.find? (fun b => b.id == id) = some a → a.waits = [] → a.acq = 0 →
    a.poison ≠ 0 → (s.dev.grp g).st ≠ .halted → (s.dev.grp g).st ≠ .stopped →
    ∃ t ex, exec (.accessResponse g id) s = .next t ∧ ex.code = xPoison ∧ ex.lanes = a.poison.toNat ∧
      Raised s t g { s.dev.grp g with accs := (s.dev.grp g).accs.filter (fun b => b.id != id) } ex

/-- ST to scratchpads of the core's own section: each stored byte holds the highest lane's value, every other byte of memory is as
before (R54, R82, R209); the premise on the form of memory is the invariant of MemoryStaysCanonical. -/
def Claims.StoreScratchpad : Prop :=
  ∀ (g : Gid) (w : AWord) (s : State) (x : Group) (ts : List Target),
    Memory.wf s.dev.mem.cells = true →
    s.dev.Ready g w { cls := 7, op := 2 } (AWord.memLegal w) [vzero w.d, src w.a 2, src w.b, src w.c (AWord.sizeRegs w)] x →
    x.execMask w.guard ≠ 0 → (AWord.ord w = true → s.dev.releaseReady g x (AWord.scope w) = true) →
    s.dev.checkPieces (s.dev.issueOf g w x) (AWord.phys w) kWrite
      (lanePieces (x.execMask w.guard) (AWord.size w) ((s.dev.issueOf g w x).laneAddr true))
      (fun _ pl => if pl.isSes then some xSem else none) (fun _ => none) = ts.map (fun t => (t.1, .ok t.2.1 t.2.2)) →
    (∀ t ∈ ts, ∃ c o, t.2.1 = .sp c o ∧ c < 128 ∧ o + t.1.n ≤ spSize ∧ sectOf c = sectOf g.core) →
    s.dev.boardHolds g.core true ts = false → (∀ t ∈ ts, s.dev.spanHeld g true t = false) → s.dev.mem.upsets = [] →
    ∃ t, exec (.st g w) s = .next t ∧
      (∀ a, readByte t.dev.mem.cells a =
        Sparse.get (readByte s.dev.mem.cells) (storeBytes ts (fun l => x.rdN w.imm (AWord.sizeRegs w) w.c.toNat l)) a) ∧
      t.dev.grp g = { x with pc := nextPc x w, denied := none, stall := 0 } ∧ t.dev.mem.host = s.dev.mem.host ∧
      t.dev.ses.words = s.dev.ses.words ∧ SameOutside s t

/-- ST to HBM: every stored byte is in a write request on its way to its sector's slice; the bytes of HBM stand until the slice performs
it (R231, R237, R261). -/
def Claims.StoreHbm : Prop :=
  ∀ (g : Gid) (w : AWord) (s : State) (x : Group) (ts : List Target),
    s.dev.Ready g w { cls := 7, op := 2 } (AWord.memLegal w) [vzero w.d, src w.a 2, src w.b, src w.c (AWord.sizeRegs w)] x →
    x.execMask w.guard ≠ 0 → (AWord.ord w = true → s.dev.releaseReady g x (AWord.scope w) = true) →
    s.dev.checkPieces (s.dev.issueOf g w x) (AWord.phys w) kWrite
      (lanePieces (x.execMask w.guard) (AWord.size w) ((s.dev.issueOf g w x).laneAddr true))
      (fun _ pl => if pl.isSes then some xSem else none) (fun _ => none) = ts.map (fun t => (t.1, .ok t.2.1 t.2.2)) →
    (∀ t ∈ ts, ∃ a, t.2.1 = .hbm a ∧ a + t.1.n ≤ hbmEnd) →
    s.dev.boardHolds g.core true ts = false → (∀ t ∈ ts, s.dev.spanHeld g true t = false) → s.dev.mem.upsets = [] →
    ∃ t, exec (.st g w) s = .next t ∧
      (∀ b ∈ storeBytes ts (fun l => x.rdN w.imm (AWord.sizeRegs w) w.c.toNat l),
        ∃ q bs, q ∈ t.dev.mem.l2q ∧ q.op = .write bs ∧ q.sector = b.1 / 32 ∧ (b.1 % 32, b.2) ∈ bs ∧ q.gid = some g) ∧
      (∀ q ∈ s.dev.mem.l2q, q ∈ t.dev.mem.l2q) ∧
      t.dev.grp g = { x with pc := nextPc x w, denied := none, stall := 0 } ∧ t.dev.mem.cells = s.dev.mem.cells ∧ t.dev.mem.l2 = s.dev.mem.l2 ∧
      SameOutside s t

/-- A request at its slice whose sector the L2 holds unpoisoned and found clean: a fill takes the sector, a write replaces its bytes, and
the request is gone (R237, R238, R240). -/
def Claims.L2Performs : Prop :=
  ∀ (slice pos : Nat) (victim : Option Nat) (s : State) (r : L2Req),
    (s.dev.mem.l2q.filter (fun q => s.dev.sliceOf q.sector == slice))[pos]? = some r →
    (∀ q ∈ (s.dev.mem.l2q.filter (fun q => s.dev.sliceOf q.sector == slice)).take pos, q.sector ≠ r.sector) →
    s.dev.mem.repairs.contains r.sector = false →
    (s.dev.mem.l2.look r.sector).held = true → s.dev.upset (.l2 r.sector) = .clean →
    ∃ t, exec (.l2Access slice pos victim .clean) s = .next t ∧
      t.dev.mem.l2q = s.dev.mem.l2q.filter (fun q => q.id != r.id) ∧
      (r.op = .fill → t.dev.core.fills = s.dev.core.fills.map (fun f =>
          if f.id = r.id then { f with data := some ((s.dev.mem.l2.look r.sector).data, (s.dev.mem.l2.look r.sector).poison) } else f) ∧
        t.dev.mem.cells = s.dev.mem.cells ∧ t.dev.mem.l2 = s.dev.mem.l2) ∧
      (∀ bs, r.op = .write bs →
        (t.dev.mem.l2.look r.sector).data = mergeSector (s.dev.mem.l2.look r.sector).data bs ∧
        (t.dev.mem.l2.look r.sector).held = true ∧ (t.dev.mem.l2.look r.sector).dirty = true ∧
        (∀ k, k ≠ r.sector → t.dev.mem.l2.look k = s.dev.mem.l2.look k) ∧ t.dev.mem.cells = s.dev.mem.cells) ∧
      SameOutside s t

/-- The data of a fill that may be installed: the line's sector is VALID with the data merged under the stores recorded meanwhile, and the
fill is outstanding no more (R229, R232). -/
def Claims.L1FillInstalls : Prop :=
  ∀ (core sector way : Nat) (s : State) (f : Fill) (v : Sector),
    s.dev.core.fills.find? (fun f => f.core == core && f.sector == sector && f.data.isSome) = some f →
    f.data = some (v, false) → f.install = true → s.dev.l1Find core (sector / 4) = some way →
    (s.dev.l1Way core (l1Set (sector / 4)) way).st.length = 4 → (s.dev.l1Way core (l1Set (sector / 4)) way).data.length = 4 →
    ∃ t, exec (.l1Fill core sector) s = .next t ∧
      (t.dev.l1Way core (l1Set (sector / 4)) way).state (sector % 4) = .valid ∧
      (t.dev.l1Way core (l1Set (sector / 4)) way).data.getD (sector % 4) 0 = mergeSector v (f.stores.map (fun p => p.2)) ∧
      (∀ k, k ≠ l1Key core (l1Set (sector / 4)) way → t.dev.core.l1.look k = s.dev.core.l1.look k) ∧
      t.dev.core.fills = s.dev.core.fills.filter (fun y => y.id != f.id) ∧ t.dev.mem = s.dev.mem ∧ SameOutside s t

/-- PREF whose lanes touch one sector of HBM that misses: a fill of it is outstanding, the group goes on, no register is written
(R82, R228, R230). -/
def Claims.PrefetchRequests : Prop :=
  ∀ (g : Gid) (w : AWord) (s : State) (x : Group) (ts : List Target) (k : Nat × Nat),
    s.dev.Ready g w { cls := 7, op := 3 } (AWord.memLegal w && !AWord.ord w) [vzero w.d, src w.a 2, src w.b] x →
    x.execMask w.guard ≠ 0 →
    s.dev.checkPieces (s.dev.issueOf g w x) (AWord.phys w) kRead
      (lanePieces (x.execMask w.guard) (AWord.size w) ((s.dev.issueOf g w x).laneAddr true))
      (fun _ pl => if pl.isSes then some xSem else none) (fun _ => none) = ts.map (fun t => (t.1, .ok t.2.1 t.2.2)) →
    sectorsOf ts = [k] → x.missing = false → s.dev.l1Misses g.core k.1 w.l1Bad = true → s.dev.mem.upsets = [] →
    ∃ t, exec (.pref g w) s = .next t ∧ (∃ f ∈ t.dev.core.fills, f.core = g.core ∧ f.sector = k.1) ∧
      t.dev.grp g = { x with pc := nextPc x w, denied := none, stall := 0 } ∧ t.dev.mem.cells = s.dev.mem.cells ∧ SameOutside s t

/-- A relaxed ATOM of one lane on a scratchpad of its own section (R87): the bytes hold the operation's result, every other byte is as
before; the old value is bound for D, or nothing is in flight where D is vZ. -/
def Obligations.AtomicScratchpad : Prop :=
  ∀ (g : Gid) (w : AWord) (s : State) (x : Group) (p : Piece) (c o cls : Nat),
    Memory.wf s.dev.mem.cells = true →
    s.dev.Ready g w { cls := 8, op := 0, form := .long, ext := true } (AWord.atomLegal w)
      ([dst w.d (AWord.sizeRegs w), src w.a 2, src w.b (AWord.sizeRegs w)] ++
        (if AWord.atomOp w = 7 then [src w.c (AWord.sizeRegs w)] else [])) x →
    x.execMask w.guard ≠ 0 → AWord.atomOrd w = 0 →
    s.dev.checkPieces (s.dev.issueOf g w x) (AWord.phys w) (kRead + kWrite)
      (lanePieces (x.execMask w.guard) (AWord.size w) ((s.dev.issueOf g w x).laneAddr false)) (fun _ pl => atomExtra (AWord.atomOp w) pl)
      (fun q => if (s.dev.issueOf g w x).laneAddr false q.lane % AWord.size w = 0 then none else some xMisaligned)
      = [(p, .ok (.sp c o) cls)] →
    c < 128 → o + AWord.size w ≤ spSize → sectOf c = sectOf g.core →
    s.dev.boardHolds g.core true [(p, .sp c o, cls)] = false → s.dev.spanHeld g true (p, .sp c o, cls) = false →
    s.dev.mem.upsets = [] →
    ∃ t new, exec (.atom g w) s = .next t ∧
      new = atomApply (AWord.atomOp w) (AWord.size w) (AWord.ord w) (leOf (s.dev.spRead c o (AWord.size w)))
        (x.rdN w.imm (AWord.sizeRegs w) w.b.toNat p.lane % 2 ^ (8 * AWord.size w))
        (x.rdN w.imm (AWord.sizeRegs w) w.c.toNat p.lane % 2 ^ (8 * AWord.size w)) ∧
      t.dev.spRead c o (AWord.size w) = leBytes (AWord.size w) new ∧
      (∀ a, a < spAddr c o ∨ spAddr c o + AWord.size w ≤ a → readByte t.dev.mem.cells a = readByte s.dev.mem.cells a) ∧
      (w.d.toNat = vZ → (t.dev.grp g).accs = x.accs) ∧
      (w.d.toNat ≠ vZ → ∃ a, (t.dev.grp g).accs = x.accs ++ [a] ∧ a.waits = [] ∧ a.d = w.d.toNat ∧
        ∀ k, k < AWord.size w → Sparse.look a.bytes (16 * p.lane + k) = readByte s.dev.mem.cells (spAddr c o + k)) ∧
      (t.dev.grp g).pc = nextPc x w ∧ (t.dev.grp g).v = x.v ∧ (t.dev.grp g).u = x.u ∧ SameOutside s t

/-- The fences (R89, R91, R287): once what they wait for has happened, the group goes on; an acquire of cluster scope or wider empties
the L1 and Husk of its core; at fabric scope D takes the fabric status word, which is cleared. -/
def Claims.FenceResults : Prop :=
  ∀ r ∈ ([(.fenceLd, 0, false, true), (.fenceSt, 1, true, false), (.fenceAll, 2, true, true)] : List ((Gid → AWord → Instr) × Nat × Bool × Bool)),
  ∀ (g : Gid) (w : AWord) (s : State) (x : Group),
    s.dev.Ready g w { cls := 9, op := r.2.1, form := .short }
      (bits w.mod.toNat 0 4 == 0 && !w.mod.getLsbD 7 && decide (1 ≤ AWord.scope w) && decide (AWord.scope w ≤ 5))
      ([vzero w.a, vzero w.b, vzero w.c] ++ (if AWord.scope w == 5 then [udst w.d] else [])) x →
    x.execMask w.guard ≠ 0 → (r.2.2.1 = true → s.dev.releaseReady g x (AWord.scope w) = true) → (r.2.2.2 = true → x.accs = []) →
    ∃ t, exec (r.1 g w) s = .next t ∧
      t.dev.grp g = (if AWord.scope w = 5 ∧ w.d.toNat ≠ vZ then
          { x.wr w.d.toNat 0 x.fabStat.toNat with fabStat := 0, pc := nextPc x w, denied := none, stall := 0 }
        else { x with pc := nextPc x w, denied := none, stall := 0 }) ∧
      (r.2.2.2 = true → 3 ≤ AWord.scope w →
        t.dev.core.husk.look g.core = [] ∧ ∀ k, k < 2048 → t.dev.core.l1.look (g.core * 2048 + k) = default) ∧
      (r.2.2.2 = false ∨ AWord.scope w < 3 → t.dev.core.l1 = s.dev.core.l1 ∧ t.dev.core.husk = s.dev.core.husk) ∧
      (∀ h, gidKey h ≠ gidKey g → t.dev.grp h = s.dev.grp h) ∧ t.dev.mem = s.dev.mem ∧ t.dev.ses = s.dev.ses ∧ SameOutside s t

/-- Landing zones and their credits (R210-R212): a grant of a batch of 64, an idle return, and an entry performed at its bank. -/
def Obligations.LandingZones : Prop :=
  (∀ (r snd : Nat) (s : State), s.dev.mem.askq.find? (fun x => x.2 == r) = some (snd, r) → 64 ≤ s.dev.lzFree r →
    s.dev.mem.port.find? (fun z => z.sender == snd && z.receiver == r) = none →
    ∃ t, exec (.creditGrant r) s = .next t ∧
      t.dev.creditOf snd r = { s.dev.creditOf snd r with held := (s.dev.creditOf snd r).held + 64, asked := (s.dev.creditOf snd r).asked - 64 } ∧
      t.dev.mem.askq = s.dev.mem.askq.erase (snd, r) ∧ t.dev.mem.cells = s.dev.mem.cells ∧ t.dev.core = s.dev.core ∧ SameOutside s t) ∧
  (∀ (snd r : Nat) (s : State), 0 < (s.dev.creditOf snd r).held →
    (∀ z ∈ s.dev.mem.port, ¬ (z.sender = snd ∧ z.receiver = r)) →
    4096 * 1000 ≤ (s.time.toNat - (s.dev.creditOf snd r).last) * s.dev.get (MGMT_SECTION.MHZ (sectOf snd)) →
    ∃ t, exec (.creditIdleReturn snd r) s = .next t ∧ t.dev.creditOf snd r = { s.dev.creditOf snd r with held := 0 } ∧
      (∀ k, k ≠ snd * 128 + r → t.dev.mem.credit.look k = s.dev.mem.credit.look k) ∧
      t.dev.mem.cells = s.dev.mem.cells ∧ t.dev.core = s.dev.core ∧ SameOutside s t) ∧
  (∀ (core pos span : Nat) (s : State) (z : LzEntry),
    Memory.wf s.dev.mem.cells = true → (s.dev.mem.lz.filter (fun z => z.receiver == core))[pos]? = some z →
    (∀ y ∈ (s.dev.mem.lz.filter (fun z => z.receiver == core)).take pos, y.sender ≠ z.sender) →
    z.atoms = [] → z.returns = false → spBase + core * spStride ≤ span * 64 → span * 64 < spBase + (core + 1) * spStride →
    (∀ b ∈ z.bytes, b.1 / 64 = span) → z.bytes.Pairwise (fun b c => b.1 < c.1) → s.dev.issueStopped (sectOf core) = false →
    ∃ t, exec (.landingZoneWrite core pos) s = .next t ∧
      (∀ a, readByte t.dev.mem.cells a = Sparse.get (readByte s.dev.mem.cells) z.bytes a) ∧
      t.dev.mem.lz = s.dev.mem.lz.filter (fun y => y.id != z.id) ∧ t.dev.core = s.dev.core ∧ SameOutside s t)

/-! Matrix arrays. -/

/-- The MX instructions on an array whose head needs no further event (R92, R120-R125, R216): MX.MODE sets the mode at once where the
queue is empty and no drain is at work, and waits its turn otherwise; MX.TILE queues a tile and D takes its tag; MX.DRAIN queues the
drain, or swaps the banks at once, to the scratchpad with a write entry of the scoreboard; MX.WAIT goes on once its tag has completed. -/
def Obligations.MatrixInstructions : Prop :=
  ∀ (g : Gid) (w : AWord) (s : State) (x : Group) (r : Arr), r = s.dev.arr g.core → x.execMask w.guard ≠ 0 →
    bit s.chip.arrays g.core = true → s.dev.get (SP_STATUS.FAILED g.core) = 0 →
    (s.dev.launchOf x.launch).array = true → r.queue.length < 32 → r.steady = true →
    (∀ m, s.dev.Ready g w { cls := 10, op := 0, form := .short } (AWord.mxLegal w false) [usrc w.a] x → m = x.rd w.imm w.a.toNat 0 →
      mwLegal m = true →
      ∃ t, exec (.mxMode g w) s = .next t ∧ (t.dev.arr g.core).modeIssue = some m ∧
        (r.queue = [] ∧ r.draining = none → (t.dev.arr g.core).modeNow = some m ∧ (t.dev.arr g.core).queue = []) ∧
        (¬ (r.queue = [] ∧ r.draining = none) → (t.dev.arr g.core).modeNow = r.modeNow ∧ (t.dev.arr g.core).queue = r.queue ++ [.mode m]) ∧
        t.dev.grp g = { x with pc := nextPc x w, denied := none, stall := 0 } ∧ t.dev.mem = s.dev.mem ∧ SameOutside s t) ∧
    (∀ m a b c, s.dev.Ready g w { cls := 10, op := 1, form := .short } (AWord.mxLegal w true) [usrc w.a, usrc w.b, usrc w.c, udst w.d] x →
      r.modeIssue = some m → a = x.rd w.imm w.a.toNat 0 → b = x.rd w.imm w.b.toNat 0 → c = x.rd w.imm w.c.toNat 0 →
      tileLegal m a b c = true →
      (s.dev.issueOf g w x).spanFault s.dev a (c * (shapeOf m).wRec) = none →
      (s.dev.issueOf g w x).spanFault s.dev b (c * (shapeOf m).aRec) = none →
      s.dev.sbOverlaps g.core a (c * (shapeOf m).wRec) false = false → s.dev.sbOverlaps g.core b (c * (shapeOf m).aRec) false = false →
      ∃ t, exec (.mxTile g w) s = .next t ∧
        (t.dev.arr g.core).queue = r.queue ++ [.tile g x.block x.pc (r.issued % 65536) a b c (w.mod.getLsbD 0)] ∧
        (t.dev.arr g.core).issued = r.issued + 1 ∧
        t.dev.grp g = { x.wr w.d.toNat 0 (r.issued % 65536) with pc := nextPc x w, denied := none, stall := 0 } ∧
        t.dev.mem = s.dev.mem ∧ SameOutside s t) ∧
    (∀ m a e, s.dev.Ready g w { cls := 10, op := 2, form := .short } (AWord.mxLegal w true) [usrc w.a, usrc w.b] x →
      r.modeIssue = some m → a = x.rd w.imm w.a.toNat 0 → e = x.rd w.imm w.b.toNat 0 → drainLegal m e = true →
      (w.mod.getLsbD 0 = true → bits e 0 4 = 0 → bits a 28 4 = 0 → ¬ (r.queue = [] ∧ r.draining = none) →
        ∃ t, exec (.mxDrain g w) s = .next t ∧ (t.dev.arr g.core).queue = r.queue ++ [.drain g a e true 0] ∧
          t.dev.grp g = { x with pc := nextPc x w, denied := none, stall := 0 } ∧ t.dev.mem = s.dev.mem ∧ SameOutside s t) ∧
      (w.mod.getLsbD 0 = false → a + drainBytes m e ≤ spSize →
        (s.dev.issueOf g w x).spanFault s.dev a (drainBytes m e) = none → s.dev.sbOverlaps g.core a (drainBytes m e) true = false →
        s.dev.sbFull g.core 1 { core := g.core, drain := some (g, x.pc), engine := 0 } = false →
        ∃ t id, exec (.mxDrain g w) s = .next t ∧
          (¬ (r.queue = [] ∧ r.draining = none) → (t.dev.arr g.core).queue = r.queue ++ [.drain g a e false id]) ∧
          (r.queue = [] ∧ r.draining = none → (t.dev.arr g.core).queue = [] ∧ (t.dev.arr g.core).bank = 1 - r.bank ∧
            (t.dev.arr g.core).draining =
              some { dest := a, desc := e, mode := r.modeNow.getD 0, toEdu := false, sb := id, tiles := r.executed }) ∧
          t.dev.mem.sb = s.dev.mem.sb ++
            [{ id := id, core := g.core, lo := a / 128 * 128, hi := roundUp (a + drainBytes m e) 128, write := true }] ∧
          t.dev.grp g = { x with pc := nextPc x w, denied := none, stall := 0 } ∧ t.dev.mem.cells = s.dev.mem.cells ∧ SameOutside s t)) ∧
    (s.dev.Ready g w { cls := 10, op := 3, form := .short } (AWord.mxLegal w false) [usrc w.a] x →
      (∀ p ∈ r.reports, ¬ (p.gid = g ∧ p.block = x.block)) → r.tagDone (x.rd w.imm w.a.toNat 0 % 65536) = true →
      Does (.mxWait g w) s g 10 { x with pc := nextPc x w })

/-- Every MX instruction on a core whose array is fused off, or that has failed, raises ARRAY_ABSENT; an MX.TILE whose offsets or shape
are outside the scratchpad or the limits of the current mode raises MX_OPERAND; nothing is queued (R93, R128, R219). -/
def Obligations.MatrixFaultsAtIssue : Prop :=
  ∀ (g : Gid) (w : AWord) (s : State) (x : Group), x.execMask w.guard ≠ 0 →
    (bit s.chip.arrays g.core = false ∨ s.dev.get (SP_STATUS.FAILED g.core) = 1 →
      (s.dev.Ready g w { cls := 10, op := 0, form := .short } (AWord.mxLegal w false) [usrc w.a] x →
        Traps (.mxMode g w) s g x { code := 0x18, lanes := x.execMask w.guard }) ∧
      (s.dev.Ready g w { cls := 10, op := 1, form := .short } (AWord.mxLegal w true) [usrc w.a, usrc w.b, usrc w.c, udst w.d] x →
        Traps (.mxTile g w) s g x { code := 0x18, lanes := x.execMask w.guard }) ∧
      (s.dev.Ready g w { cls := 10, op := 2, form := .short } (AWord.mxLegal w true) [usrc w.a, usrc w.b] x →
        Traps (.mxDrain g w) s g x { code := 0x18, lanes := x.execMask w.guard }) ∧
      (s.dev.Ready g w { cls := 10, op := 3, form := .short } (AWord.mxLegal w false) [usrc w.a] x →
        Traps (.mxWait g w) s g x { code := 0x18, lanes := x.execMask w.guard })) ∧
    (bit s.chip.arrays g.core = true → s.dev.get (SP_STATUS.FAILED g.core) = 0 → (s.dev.launchOf x.launch).array = true →
      s.dev.Ready g w { cls := 10, op := 1, form := .short } (AWord.mxLegal w true) [usrc w.a, usrc w.b, usrc w.c, udst w.d] x →
      (∀ m, (s.dev.arr g.core).modeIssue = some m →
        tileLegal m (x.rd w.imm w.a.toNat 0) (x.rd w.imm w.b.toNat 0) (x.rd w.imm w.c.toNat 0) = false) →
      Traps (.mxTile g w) s g x { code := 0x19, lanes := x.execMask w.guard })

/-- The tile at the head, unless it waits for a drain, is executed into the accumulating bank and leaves the queue. A drain at work ends:
its bank has been written to the scratchpad token by token and is zeroed; one to the Expert Dispatch Unit ends once its scores have been
accepted (R104, R122, R123, R155, R173). -/
def Claims.ArrayWork : Prop :=
  (∀ (core lost : Nat) (s : State) (a : Arr) (g : Gid) (block : Nat) (pc : DWord) (tag wOff aOff n m : Nat) (force : Bool) (rest : List ArrCmd),
    a = s.dev.arr core → a.queue = .tile g block pc tag wOff aOff n force :: rest → a.clockFreeze = false → a.blocked = false → a.bank < 2 →
    m = a.modeNow.getD 0 → { a with queue := rest }.steady = true →
    (s.dev.launchOf a.launch).live = true → (s.dev.launchOf a.launch).ending = false → s.dev.mem.upsets = [] →
    ∃ t, exec (.mxTileComplete ⟨core, lost⟩) s = .next t ∧ (t.dev.arr core).queue = rest ∧ (t.dev.arr core).executed = a.executed + 1 ∧
      (t.dev.arr core).acc.getD a.bank [] = tileBank m (shapeOf m)
        (recordsOf (shapeOf m) (s.dev.spRead core wOff (n * (shapeOf m).wRec)) (s.dev.activations core a m aOff n force).1 n)
        (a.acc.getD a.bank []) ∧
      (t.dev.arr core).bank = a.bank ∧ (∀ c, c ≠ core → t.dev.arr c = s.dev.arr c) ∧ t.dev.mem = s.dev.mem ∧ t.dev.core = s.dev.core ∧
      SameOutside s t) ∧
  (∀ (core : Nat) (s : State) (a : Arr) (x : ArrDrain),
    a = s.dev.arr core → a.draining = some x → a.bank < 2 → { a with draining := none }.steady = true →
    (s.dev.launchOf a.launch).live = true → (s.dev.launchOf a.launch).ending = false →
    (x.toEdu = false → Memory.wf s.dev.mem.cells = true → (shapeOf x.mode).rows * outBytes (bits x.desc 0 4) ≤ drainStride x.mode x.desc →
      ∃ t, exec (.mxDrainComplete core) s = .next t ∧ (t.dev.arr core).queue = a.queue ∧ (t.dev.arr core).bank = a.bank ∧
        (t.dev.arr core).draining = none ∧ (t.dev.arr core).acc.getD (1 - a.bank) [] = [] ∧
        t.dev.mem.sb = s.dev.mem.sb.filter (fun b => b.id != x.sb) ∧
        (∀ k, k < (shapeOf x.mode).toks →
          t.dev.spRead core (x.dest + k * drainStride x.mode x.desc) ((shapeOf x.mode).rows * outBytes (bits x.desc 0 4)) =
            drainRow (shapeOf x.mode) x.desc k (a.acc.getD (1 - a.bank) [])) ∧
        (∀ c, c ≠ core → t.dev.arr c = s.dev.arr c) ∧ t.dev.core = s.dev.core ∧ SameOutside s t) ∧
    (x.toEdu = true → (∀ y ∈ s.dev.edu.scores.look (halfOf core), y.core ≠ some core) →
      ∃ t, exec (.mxDrainComplete core) s = .next t ∧ (t.dev.arr core).queue = a.queue ∧ (t.dev.arr core).bank = a.bank ∧
        (t.dev.arr core).draining = none ∧ (t.dev.arr core).acc.getD (1 - a.bank) [] = [] ∧
        (∀ c, c ≠ core → t.dev.arr c = s.dev.arr c) ∧ t.dev.mem = s.dev.mem ∧ t.dev.core = s.dev.core ∧ SameOutside s t))

/-- The current states of an array (R133, R134): the gap ends in a ramp down whose 63 cycles ran at full level, the ramp ends off, a
freeze of 1,024 cycles becomes idle; each counts its dummy cycles. -/
def Claims.ArrayCurrent : Prop :=
  ∀ (core : Nat) (s : State) (a : Arr), a = s.dev.arr core → a.clockFreeze = false →
    (a.st = .idleGap → ∃ t, exec (.arrayRampDown core) s = .next t ∧
      t.dev.arr core = { a with st := .rampDown, level := 63, since := s.dev.cycles (sectOf core) } ∧
      t.dev.get (ARRAY_DUMMY.COUNT core) = satAdd (ARRAY_DUMMY.COUNT core).w (s.dev.get (ARRAY_DUMMY.COUNT core)) 63 ∧
      t.dev.mem = s.dev.mem ∧ t.dev.core = s.dev.core ∧ SameOutside s t) ∧
    (a.st = .rampDown → ∃ t, exec (.arrayOff core) s = .next t ∧
      t.dev.arr core = { a with st := .off, level := 0, since := s.dev.cycles (sectOf core) } ∧
      t.dev.get (ARRAY_DUMMY.COUNT core) = satAdd (ARRAY_DUMMY.COUNT core).w (s.dev.get (ARRAY_DUMMY.COUNT core)) a.level ∧
      t.dev.mem = s.dev.mem ∧ t.dev.core = s.dev.core ∧ SameOutside s t) ∧
    (a.hasTile = true → (a.st = .run ∨ a.st = .freeze) → ∃ t, exec (.arrayFreezeIdle core) s = .next t ∧
      t.dev.arr core = { a with st := .idleGap, since := s.dev.cycles (sectOf core) } ∧
      t.dev.get (ARRAY_FREEZE.COUNT core) = satAdd (ARRAY_FREEZE.COUNT core).w (s.dev.get (ARRAY_FREEZE.COUNT core)) 1024 ∧
      t.dev.mem = s.dev.mem ∧ t.dev.core = s.dev.core ∧ SameOutside s t)

/-- The oldest poison report of an array reaches its running group, which halts with POISON_CONSUMED and the tile's tag and address
(R99). -/
def Claims.ArrayPoisonTraps : Prop :=
  ∀ (core : Nat) (s : State) (r : ArrPoison) (rest : List ArrPoison),
    (s.dev.arr core).reports = r :: rest → (s.dev.grp r.gid).live = true → (s.dev.grp r.gid).block = r.block →
    (s.dev.grp r.gid).st = .run →
    ∃ t, exec (.arrayPoisonReport core) s = .next t ∧ (t.dev.arr core).reports = rest ∧
      Raised { s with dev := s.dev.setArr core { s.dev.arr core with reports := rest } } t r.gid (s.dev.grp r.gid)
        { code := xPoison, lanes := (s.dev.grp r.gid).mask.toNat, mxTag := r.tag, tilePc := r.pc.toNat }

/-! Sesame. -/

/-- A SEM instruction other than SEM.LOCK and SEM.UNLOCK on a word of the device joins the operations on their way to its store; the group
parks where the store answers it, and goes on past the instruction otherwise (R92, R94, R301). -/
def Claims.SemInstructionsIssue : Prop :=
  ∀ r ∈ semRows, ∀ (g : Gid) (w : AWord) (s : State) (x : Group) (a b n cls : Nat),
    s.dev.Ready g w { cls := 12, op := r.2.1, ext := r.2.2.1 } (AWord.semLegal w)
      ([usrc w.a 2] ++ (if r.2.2.2 then [usrc w.b (if w.b.toNat = immCode then 1 else 2)] else [])) x →
    x.execMask w.guard ≠ 0 → (semKind r.2.1 = .set → (s.dev.launchOf x.launch).kernel = true) →
    a = x.rdN w.imm 2 w.a.toNat 0 →
    n = (if r.2.2.2 then (if w.b.toNat = immCode then w.imm.toNat else x.rdN w.imm 2 w.b.toNat 0) else 0) →
    s.dev.checkPieces (s.dev.issueOf g w x) (AWord.phys w) (semKind r.2.1).access [⟨lowLane (x.execMask w.guard), a, 0, 8⟩]
      (fun _ pl => semExtra (semKind r.2.1) pl) (fun _ => none) = [(⟨lowLane (x.execMask w.guard), a, 0, 8⟩, .ok (.ses b) cls)] →
    s.dev.semOrder (s.dev.issueOf g w x) (semKind r.2.1) = true → s.dev.mem.upsets = [] →
    ∃ t o, exec (r.1 g w) s = .next t ∧ t.dev.ses.queue = s.dev.ses.queue ++ [o] ∧
      o.src = .group g x.launch 0 ∧ o.kind = semKind r.2.1 ∧ o.addr = b ∧ o.n = BitVec.ofNat 64 n ∧ o.scope = AWord.scope w ∧
      o.pd = w.pd.toNat ∧ o.mask = x.execMask w.guard ∧ o.timeout = (if r.2.2.1 && w.x then w.ext.toNat else 0) ∧ o.deadline = none ∧
      t.dev.grp g = (if (semKind r.2.1).holds then { x with st := .asked, denied := none, stall := 0 }
        else { x with pc := nextPc x w, denied := none, stall := 0 }) ∧
      ((semKind r.2.1).holds = true → o.pc = nextPc x w) ∧
      t.dev.ses.words = s.dev.ses.words ∧ t.dev.ses.parked = s.dev.ses.parked ∧ t.dev.mem.cells = s.dev.mem.cells ∧ SameOutside s t

/-- SEM.LOCK and SEM.UNLOCK on words of the device: the lanes with their owner tags form one operation; the locking group parks until the
store answers, the unlocking group goes on (R63, R92, R294, R295). -/
def Claims.LockInstructionsIssue : Prop :=
  ∀ r ∈ ([(.semLock, 5), (.semUnlock, 6)] : List ((Gid → AWord → Instr) × Nat)),
  ∀ (g : Gid) (w : AWord) (s : State) (x : Group) (ts : List Target),
    s.dev.Ready g w { cls := 12, op := r.2 } (AWord.semLegal w) [src w.a 2] x → x.execMask w.guard ≠ 0 →
    s.dev.checkPieces (s.dev.issueOf g w x) (AWord.phys w) (semKind r.2).access
      ((lanesOf (x.execMask w.guard)).map (fun l => ⟨l, x.rdN w.imm 2 w.a.toNat l, 0, 8⟩)) (fun _ pl => semExtra (semKind r.2) pl)
      (fun _ => none) = ts.map (fun t => (t.1, .ok t.2.1 t.2.2)) →
    (∀ t ∈ ts, ∃ b, t.2.1 = .ses b) → s.dev.semOrder (s.dev.issueOf g w x) (semKind r.2) = true →
    s.dev.mem.upsets = [] →
    ∃ t o, exec (r.1 g w) s = .next t ∧ t.dev.ses.queue = s.dev.ses.queue ++ [o] ∧ o.kind = semKind r.2 ∧
      o.src = .group g x.launch 0 ∧ o.lanes = localLocks s.dev.fabId g ts ∧
      (r.2 = 5 → t.dev.grp g = { x with st := .asked, denied := none, stall := 0 } ∧ o.pc = nextPc x w ∧ o.check = false ∧
        ∃ v ∈ t.dev.ses.locks, v.g = g ∧ v.left = [o.id] ∧ v.won = 0 ∧ v.far = [] ∧ v.phase = 2 ∧ v.mask = x.execMask w.guard ∧ v.pd = w.pd.toNat) ∧
      (r.2 = 6 → t.dev.grp g = { x with pc := nextPc x w, denied := none, stall := 0 }) ∧
      t.dev.ses.words = s.dev.ses.words ∧ t.dev.mem.cells = s.dev.mem.cells ∧ SameOutside s t

/-- The semaphore operations at their store, one arriving alone, on an unpoisoned word on which nobody waits (R292, R300): ADD and SUB
saturate; a met WAIT and TAKE let the group go on with PD true, the TAKE subtracts; one that is not met parks and changes no value. -/
def Claims.SemaphoreOperations : Prop :=
  ∀ (store pos : Nat) (s : State) (o : SesOp) (v : Nat) (g : Gid) (l acc : Nat),
    (s.dev.sesQueue store false)[pos]? = some o → s.dev.sesBehind o = false → o.lanes = [] → o.src = .group g l acc →
    (s.dev.launchOf l).ending = false → (sesWord o.addr).accepts o.kind = true → s.dev.mem.upsets = [] →
    s.dev.sesPoison o.addr = false → (∀ p ∈ s.dev.ses.parked, p.addr ≠ o.addr) → v = s.dev.sesVal o.addr →
    (o.kind = .add → ∃ t, exec (.sesameOperation store [pos]) s = .next t ∧ t.dev.sesVal o.addr = min (v + o.n.toNat) (2 ^ 64 - 1) ∧
      (∀ k, k ≠ (o.addr - sesBase) / 8 → t.dev.ses.words.look k = s.dev.ses.words.look k) ∧ t.dev.core = s.dev.core ∧ SameOutside s t) ∧
    (o.kind = .sub → ∃ t, exec (.sesameOperation store [pos]) s = .next t ∧ t.dev.sesVal o.addr = v - o.n.toNat ∧
      (∀ k, k ≠ (o.addr - sesBase) / 8 → t.dev.ses.words.look k = s.dev.ses.words.look k) ∧ t.dev.core = s.dev.core ∧ SameOutside s t) ∧
    (o.kind = .wait → o.n.toNat ≤ v → s.dev.sesWaits g l = true → o.scope = 0 →
      ∃ t, exec (.sesameOperation store [pos]) s = .next t ∧ t.dev.sesVal o.addr = v ∧
        t.dev.grp g = { (s.dev.grp g).setPred o.pd (2 ^ 32 - 1) (2 ^ 32 - 1) with pc := o.pc, st := .run } ∧ SameOutside s t) ∧
    (o.kind = .take → o.n.toNat ≤ v → s.dev.sesWaits g l = true → o.scope = 0 →
      ∃ t, exec (.sesameOperation store [pos]) s = .next t ∧ t.dev.sesVal o.addr = v - o.n.toNat ∧
        t.dev.grp g = { (s.dev.grp g).setPred o.pd (2 ^ 32 - 1) (2 ^ 32 - 1) with pc := o.pc, st := .run } ∧ SameOutside s t) ∧
    ((o.kind = .wait ∨ o.kind = .take) → v < o.n.toNat → s.dev.sesWaits g l = true →
      (s.dev.ses.parked.filter (fun p => sesStore p.addr == sesStore o.addr)).length < sesCapacity →
      ∃ t q, exec (.sesameOperation store [pos]) s = .next t ∧ t.dev.sesVal o.addr = v ∧ t.dev.ses.parked = s.dev.ses.parked ++ [q] ∧
        q.id = o.id ∧ q.src = o.src ∧ q.addr = o.addr ∧ q.n = o.n ∧ t.dev.grp g = { s.dev.grp g with st := .sesame } ∧ SameOutside s t)

/-- A lane that finds its lock free takes it: the value falls by 1, its tag is recorded, and the group goes on with PD true in that lane
(R63, R294). -/
def Claims.LockTaken : Prop :=
  ∀ (store pos : Nat) (s : State) (o : SesOp) (k : LockLane) (g : Gid) (l acc : Nat) (w : LockWait),
    (s.dev.sesQueue store false)[pos]? = some o → s.dev.sesBehind o = false → o.kind = .lock → o.check = false → o.lanes = [k] →
    o.src = .group g l acc → (s.dev.launchOf l).ending = false → s.dev.mem.upsets = [] →
    s.dev.sesPoison k.addr = false → s.dev.tagOn k.addr = none → 0 < s.dev.sesVal k.addr → (∀ p ∈ s.dev.ses.parked, p.addr ≠ k.addr) →
    (s.dev.ses.tags.filter (fun t => sesStore t.addr == sesStore k.addr)).length < 4096 →
    s.dev.ses.locks.find? (fun v => v.g == g && v.left.contains o.id) = some w → w.left = [o.id] → w.excs = [] → w.won = 0 →
    w.phase = 2 → w.scope = 0 → (s.dev.grp g).live = true → (s.dev.grp g).st = .asked →
    ∃ t, exec (.sesameOperation store [pos]) s = .next t ∧ t.dev.sesVal k.addr = s.dev.sesVal k.addr - 1 ∧
      t.dev.tagOn k.addr = some k.tag ∧
      t.dev.grp g = { (s.dev.grp g).setPred w.pd w.mask (2 ^ k.lane) with pc := w.next, st := .run } ∧
      (∀ i, i ≠ (k.addr - sesBase) / 8 → t.dev.ses.words.look i = s.dev.ses.words.look i) ∧ SameOutside s t

/-- The store's later answers (R298, R299, R302): the oldest wake reaches its group, which goes on with PD as the wait ended; a parked
entry past its deadline ends with a false wake and takes nothing; an operation refused an entry is performed again. -/
def Claims.WakesAndTimeouts : Prop :=
  (∀ (store : Nat) (s : State) (w : Wake) (g : Gid) (l acc : Nat), s.dev.ses.wakes.find? (fun w => w.store == store) = some w →
    w.op.src = .group g l acc → (w.op.kind = .wait ∨ w.op.kind = .take) → w.op.scope = 0 → s.dev.sesWaits g l = true →
    s.dev.issueStopped (sectOf g.core) = false →
    ∃ t, exec (.groupWake store) s = .next t ∧
      t.dev.ses.wakes = s.dev.ses.wakes.filter (fun v => v.op.id != w.op.id) ∧
      t.dev.grp g = { (s.dev.grp g).setPred w.op.pd (2 ^ 32 - 1) (if w.ok then 2 ^ 32 - 1 else 0) with pc := w.op.pc, st := .run } ∧
      t.dev.ses.words = s.dev.ses.words ∧ t.dev.mem = s.dev.mem ∧ SameOutside s t) ∧
  (∀ (store entry : Nat) (s : State) (o : SesOp) (d : Nat),
    (s.dev.ses.parked.filter (fun o => sesStore o.addr == store))[entry]? = some o → o.deadline = some d → d ≤ s.time.toNat →
    o.kind ≠ .arrive → (∀ p ∈ s.dev.ses.parked, p.id = o.id → p = o) →
    ∃ t, exec (.semTimeout store ⟨entry, []⟩) s = .next t ∧ t.dev.ses.parked = s.dev.ses.parked.filter (fun p => !(p.id == o.id)) ∧
      t.dev.ses.wakes = s.dev.ses.wakes ++ (s.dev.ses.parked.filter (fun p => p.id == o.id)).map (fun p => ⟨sesStore p.addr, p, false⟩) ∧
      t.dev.ses.words = s.dev.ses.words ∧
      t.dev.get (SYNC_MISC.TIMEOUTS store) = satAdd (SYNC_MISC.TIMEOUTS store).w (s.dev.get (SYNC_MISC.TIMEOUTS store)) 1 ∧
      t.dev.core = s.dev.core ∧ SameOutside s t) ∧
  (∀ (store pos : Nat) (s : State) (o : SesOp), (s.dev.sesQueue store true)[pos]? = some o → o.deadline = none →
    ∃ t, exec (.semRetry store pos) s = .next t ∧
      t.dev = (s.dev.sesTake o).sesPerform ⟨s.time.toNat, s.chip⟩ { o with again := false } ∧ SameOutside s t)

/-- SYNC_HANDOVER from a kernel queue to a legal owner that is not being torn down (R313): the block has its new owner, RESULT is 0; words
that leave a partition are cleared, and so is every lock tag of the block. -/
def Claims.SyncHandoverResult : Prop :=
  ∀ (q : Nat) (v : DWord) (s : State) (j n : Nat), s.dev.ses.words.sorted = true → j = bits v.toNat 0 6 → n = bits v.toNat 6 5 → syncOwnerCode n = true →
    (n < 16 → s.dev.get (PART_CFG.STATE n) ≠ 2) → s.dev.qKernel q = true →
    ∃ t, exec (.syncHandover (.queue q) v) s = .next t ∧ t.dev.get (SYNC_OWN.OWNER j) = n ∧
      t.dev.get SYNC_HANDOVER_STATUS.RESULT = 0 ∧
      (s.dev.get (SYNC_OWN.OWNER j) < 16 → s.dev.get (SYNC_OWN.OWNER j) ≠ n →
        (∀ a, syncBlock (sesBase + 8 * ((a - sesBase) / 8)) = j → t.dev.sesVal a = 0) ∧
        (∀ k ∈ t.dev.ses.tags, syncBlock k.addr ≠ j) ∧ t.dev.get SYNC_HANDOVER_STATUS.ZEROED = 1) ∧
      (∀ a, syncBlock (sesBase + 8 * ((a - sesBase) / 8)) ≠ j → t.dev.sesVal a = s.dev.sesVal a) ∧
      (∀ i, i < 64 → i ≠ j → t.dev.get (SYNC_OWN.OWNER i) = s.dev.get (SYNC_OWN.OWNER i)) ∧
      t.dev.core = s.dev.core ∧ t.dev.mem = { s.dev.mem with upsets := t.dev.mem.upsets } ∧ SameOutside s t

/-! Scratchpad handovers, tests and scans. -/

/-- A handover of bank sets (R204-R208). A legal write by a kernel queue starts it: the named sets are PENDING, no owner changes. Drained
sets that must be zeroed are zeroed next. At its end every named set has the new owner, the sets that R206 names read as zero, the others
keep owner and bytes. A drain past its limit gives it up: RESULT 1, every owner as before. -/
def Claims.BankSetHandover : Prop :=
  (∀ (q : Nat) (v : DWord) (s : State) (h : Handover),
    s.dev.get (QUEUE_CFG.KERNEL q) = 1 → s.dev.get SP_HANDOVER_STATUS.STATE = 0 → s.dev.mem.hand = none →
    s.dev.handOwnerOk (bits v.toNat 28 5) = true → bits v.toNat 4 8 ≠ 0 → bits v.toNat 12 16 ≠ 0 →
    h = { sect := bits v.toNat 0 4, cores := bits v.toNat 4 8, sets := bits v.toNat 12 16, owner := bits v.toNat 28 5,
          limit := if bits v.toNat 33 16 = 0 then 1000 else bits v.toNat 33 16, start := s.time.toNat, zeroing := false, by_ := 0 } →
    Answers (.spHandover (.queue q) v) s fun d =>
      d = { s.dev with regs := d.regs, mem := { s.dev.mem with hand := some h } } ∧ d.get SP_HANDOVER_STATUS.STATE = 1 ∧
      ∀ c k, c < 128 → k < 16 → d.get (SP_OWN.OWNER c k) = s.dev.get (SP_OWN.OWNER c k) ∧
        (c ∈ h.coreList → k ∈ h.setList → d.get (SP_OWN.PENDING c k) = 1) ∧
        (¬ (c ∈ h.coreList ∧ k ∈ h.setList) → d.get (SP_OWN.PENDING c k) = s.dev.get (SP_OWN.PENDING c k))) ∧
  (∀ (s : State) (h : Handover), s.dev.mem.hand = some h → h.zeroing = false → s.dev.handPaused h = false → h.by_ = 0 →
    (∀ c ∈ h.coreList, s.dev.setBusy c h.setList = false) → s.dev.handZeroes h ≠ [] →
    Answers .spHandoverDrained s fun d =>
      d = { s.dev with regs := d.regs, mem := { s.dev.mem with hand := some { h with zeroing := true } } } ∧
      d.get SP_HANDOVER_STATUS.STATE = 2 ∧ ∀ c k, c < 128 → k < 16 → SameSet s.dev d c k) ∧
  (∀ (s : State) (h : Handover), s.dev.mem.hand = some h → h.zeroing = true → s.dev.handPaused h = false → h.by_ = 0 →
    s.dev.part.assign = none → h.owner < 32 → h.sect < 16 → Memory.wf s.dev.mem.cells = true →
    Answers .spHandoverComplete s fun d =>
      d.mem.hand = none ∧ d.get SP_HANDOVER_STATUS.STATE = 0 ∧ d.get SP_HANDOVER_STATUS.RESULT = 0 ∧
      d.get SP_HANDOVER_STATUS.ZEROED = b2n (!(s.dev.handZeroes h).isEmpty) ∧
      (∀ c ∈ h.coreList, ∀ k ∈ h.setList, d.get (SP_OWN.OWNER c k) = h.owner ∧ d.get (SP_OWN.PENDING c k) = 0) ∧
      (∀ c k, c < 128 → k < 16 → ¬ (c ∈ h.coreList ∧ k ∈ h.setList) → SameSet s.dev d c k) ∧
      (∀ p ∈ s.dev.handZeroes h, ∀ o, o < spSize → bankSet o = p.2 → d.spRead p.1 o 1 = [0]) ∧
      (∀ c o, c < 128 → o < spSize → (c, bankSet o) ∉ s.dev.handZeroes h → d.spRead c o 1 = s.dev.spRead c o 1) ∧
      (∀ a, a < spBase → readByte d.mem.cells a = readByte s.dev.mem.cells a) ∧ d.core = s.dev.core ∧ d.ses = s.dev.ses) ∧
  (∀ (s : State) (h : Handover), s.dev.mem.hand = some h → h.zeroing = false → h.by_ = 0 → h.start + 1000 * h.limit ≤ s.time.toNat →
    s.dev.part.assign = none → h.sect < 16 →
    Answers .spHandoverTimeout s fun d =>
      d = { s.dev with regs := d.regs, mem := { s.dev.mem with hand := none } } ∧ d.get SP_HANDOVER_STATUS.STATE = 0 ∧
      d.get SP_HANDOVER_STATUS.RESULT = 1 ∧ (∀ c ∈ h.coreList, ∀ k ∈ h.setList, d.get (SP_OWN.PENDING c k) = 0) ∧
      ∀ c k, c < 128 → k < 16 → d.get (SP_OWN.OWNER c k) = s.dev.get (SP_OWN.OWNER c k))

/-- The test engines. A destructive march run that found no failing row ends: its sets read as zero, SP_MARCH_RESULT names no failure
(R222-R226). A live scan of Bassoon's schedule starts where its channel is in service, a slot is free and no older request may start
(R251, R478); the end of a live scan whose margins pass replaces the channel's margins (R252). What the manual leaves open here is as
log entries 50 and 51 say. -/
def Obligations.MarchAndScans : Prop :=
  (∀ (core : Nat) (find : MarchFind) (s : State) (m : MarchRun), s.dev.mem.march.find? (fun m => m.core == core) = some m → core < 128 →
    m.boot = false → m.preserve = false → m.ctx = none → m.entry = none → find.failing = [] → Memory.wf s.dev.mem.cells = true →
    (∀ k ∈ maskList 16 m.sets, s.dev.part.torn.look (core * 16 + k) = false) →
    Answers (.marchDone core find) s fun d =>
      d.mem.march = s.dev.mem.march.filter (fun x => x.core != core) ∧ d.reg (SP_MARCH_RESULT.off core) = m.alg % 4 * 2 ^ 38 ∧
      (∀ o, o < spSize → bankSet o ∈ maskList 16 m.sets → d.spRead core o 1 = [0]) ∧
      (∀ o, o < spSize → bankSet o ∉ maskList 16 m.sets → d.spRead core o 1 = s.dev.spRead core o 1) ∧
      (∀ c k, c < 128 → k < 16 → SameSet s.dev d c k) ∧ d.core = s.dev.core ∧ d.ses = s.dev.ses) ∧
  (∀ (ch : Nat) (s : State), ch < 128 → s.dev.governs ⟨s.time.toNat, s.chip⟩ = true → s.dev.mgmt.cfg.scanIntervalH ≠ 0 →
    s.dev.mem.scanAt.look ch = 0 → s.dev.liveFree ch = true → (List.range s.dev.mgmt.deferred.length).any s.dev.deferredReady = false →
    Answers (.hbmLiveScan ch) s fun d =>
      d.mem = { s.dev.mem with scanAt := s.dev.mem.scanAt.put ch (s.time.toNat + 1),
                               scanRun := s.dev.mem.scanRun ++ [⟨ch, 0, s.time.toNat, none, none⟩] } ∧
      d.get (HBM_CH_STATUS.SCAN_ACTIVE ch) = 1 ∧ d.core = s.dev.core ∧ d.ses = s.dev.ses) ∧
  (∀ (ch : Nat) (find : ScanFind) (s : State) (x : Scan), s.dev.mem.scanRun.find? (fun x => x.ch == ch) = some x → ch < 128 →
    x.kind = 0 → x.ctx = none → x.entry = none → marginsPass s.dev.mgmt.cfg.floors true find = true → s.dev.get MGMT_MAINT.ACTIVE = 0 →
    Answers (.hbmScanComplete ch find) s fun d =>
      d.mem.scanRun = s.dev.mem.scanRun.filter (fun y => y.ch != ch) ∧ d.get (HBM_CH_STATUS.SCAN_ACTIVE ch) = 0 ∧
      d.mem.below.look ch = 0 ∧
      (∀ p ∈ (marginRecord s.time.toNat ch 0 ((s.dev.mem.scanSeq.look ch + 1) % 2 ^ 32) true find).zipIdx,
        d.get (HBM_CH_MARGIN.RECORD ch p.2) = p.1) ∧
      d.mem.cells = s.dev.mem.cells ∧ d.core = s.dev.core ∧ d.ses = s.dev.ses)

/-- Self-tests (R477, R478). A SELFTEST of the control owner's queue whose channel is free starts its live scan; one that is not free takes
a place in the deferred table, from which it starts later, or which it leaves at its deadline.
What the manual leaves open here is as log entry 51 says. -/
def Obligations.SelfTests : Prop :=
  (∀ (c ch : Nat) (s : State) (x : Ctx), x = s.dev.ctx c → s.dev.startable c opSelftest = true → s.dev.ownerQueue x.queue = true →
    (List.range s.dev.mgmt.deferred.length).any s.dev.deferredReady = false → bits (x.word 0x08) 0 4 = 1 → ch = bits (x.word 0x10) 0 7 →
    (s.dev.liveFree ch = true →
      Answers (.selftest c) s fun d =>
        d.ctx c = { x with st := .started } ∧
        d.mem = { s.dev.mem with scanRun := s.dev.mem.scanRun ++ [⟨ch, 0, s.time.toNat, some c, none⟩] } ∧
        d.get (HBM_CH_STATUS.SCAN_ACTIVE ch) = 1 ∧ d.core = s.dev.core ∧ d.ses = s.dev.ses ∧ d.mgmt = s.dev.mgmt) ∧
    (s.dev.liveFree ch = false → s.dev.mgmt.deferred.length < 32 →
      Answers (.selftest c) s fun d =>
        d.ctx c = { x with st := .ending, began := true, outcome := some .deferred, progress := 0, fault := none, reads := [], denied := [] } ∧
        d.mgmt = { s.dev.mgmt with deferred := s.dev.mgmt.deferred ++ [
          { queue := x.queue, func := s.dev.qFunc x.queue, part := s.dev.qPart x.queue, seq := x.seq, target := 1, param := ch,
            deadline := testDeadline s.time.toNat (x.num 0x18 4), running := false }] } ∧
        d.get MGMT_AUTO.DEFERRED = s.dev.mgmt.deferred.length + 1 ∧
        d.mem = s.dev.mem ∧ d.core = s.dev.core ∧ d.ses = s.dev.ses)) ∧
  (∀ (pos : Nat) (s : State) (x : Deferred), s.dev.mgmt.deferred[pos]? = some x → s.dev.deferredReady pos = true → x.target = 1 →
    Answers (.selftestStart pos) s fun d =>
      d.mgmt = { s.dev.mgmt with deferred := setAt s.dev.mgmt.deferred pos { x with running := true }, acts := d.mgmt.acts } ∧
      d.mem = { s.dev.mem with scanRun := s.dev.mem.scanRun ++ [⟨x.param, 0, s.time.toNat, none, some x.key⟩] } ∧
      d.get (HBM_CH_STATUS.SCAN_ACTIVE x.param) = 1 ∧ d.core = s.dev.core ∧ d.ses = s.dev.ses) ∧
  (∀ (pos : Nat) (s : State) (x : Deferred), s.dev.mgmt.deferred[pos]? = some x → x.running = false → x.deadline ≤ s.time.toNat →
    s.dev.testFree x.target x.param = false →
    Answers (.selftestTimeout pos) s fun d =>
      d.mgmt = { s.dev.mgmt with deferred := removeAt s.dev.mgmt.deferred pos } ∧ d.mem = s.dev.mem ∧ d.core = s.dev.core ∧ d.ses = s.dev.ses)

/-- HBM on its own. The patrol reads a sector: clean, it counts the transfer; corrected, an error as well; uncorrectable, the sector is
failed and counted (R244, R245). A mapped channel that fails is down and marked to retire (R253). The errors that enter with a patrol, and
which of them a check finds, are as log entry 80 says. -/
def Obligations.PatrolAndChannels : Prop :=
  (∀ (addr : Nat) (find : EccFind) (upsets : List Upset) (s : State) (d0 : Dev) (ch : Nat) (r : EccFind), d0 = s.dev.strike upsets →
    addr < s.dev.capacity → ch = s.dev.chanOf (addr / 32 * 32) → ch < 128 → r = eccOr find (d0.hbmUpset (addr / 32)) →
    s.dev.chanDown ch = false → s.dev.anyPoison (addr / 32 * 32) 32 = false → s.dev.mem.failed.contains (addr / 32) = false →
    (r ≠ .uncorrectable →
      Answers (.patrolScrub addr ⟨find, upsets⟩) s fun d =>
        d.get (HBM_CH_ECC.CE ch) = satAdd 32 (s.dev.get (HBM_CH_ECC.CE ch)) (b2n (r == .corrected)) ∧
        d.mem = { s.dev.mem with upsets := (d0.forget (.hbm (addr / 32))).mem.upsets } ∧
        d = { s.dev with regs := d.regs, act := d.act, mem := d.mem, evq := d0.evq } ∧ (d.act.look 16).sectors = (s.dev.act.look 16).sectors + 1) ∧
    (r = .uncorrectable → (s.dev.mem.l2.look (addr / 32)).held = true →
      s.dev.mgmt.cfg.retireCount > (s.dev.mem.ueTimes.look ch).length + 1 →
      Answers (.patrolScrub addr ⟨find, upsets⟩) s fun d =>
        d.mem.failed = s.dev.mem.failed ++ [addr / 32] ∧
        d.get (HBM_CH_ECC.UE ch) = satAdd (HBM_CH_ECC.UE ch).w (s.dev.get (HBM_CH_ECC.UE ch)) 1 ∧ d.mem.cells = s.dev.mem.cells ∧
        d.core = s.dev.core ∧ d.ses = s.dev.ses)) ∧
  (∀ (ch : Nat) (s : State), ch < 128 → bit (s.dev.get (HBM_MAP.MAPPED (ch / 64))) (ch % 64) = true → s.dev.chanDown ch = false →
    s.dev.get (HBM_CH_STATUS.RETIRE_PENDING ch) = 0 →
    Answers (.hbmChannelDown ch) s fun d =>
      d.get (HBM_CH_STATUS.STATE ch) = 3 ∧ d.get (HBM_CH_STATUS.RETIRE_PENDING ch) = 1 ∧ d.mgmt.retireMap = s.dev.mgmt.retireMap ++ [ch] ∧
      (∀ k, k < 128 → k ≠ ch → d.get (HBM_CH_STATUS.STATE k) = s.dev.get (HBM_CH_STATUS.STATE k)) ∧ d.mem = s.dev.mem ∧
      d.core = s.dev.core ∧ d.ses = s.dev.ses)

/-! DMA engines, range translation, event FIFOs. -/

/-- A descriptor that its engine reads, finds legal and free of waits starts: it leaves its memories as the reading of the descriptor left
them, its rows join the scoreboard, its command is started (R317-R319, R214). -/
def Claims.DescriptorStarts : Prop :=
  ∀ (n : Nat) (s : State) (x : Engine) (q : DmaEntry) (rest : List DmaEntry) (bs : List Byte) (d0 d1 : Dev) (z : Desc),
    n < 64 → x = s.dev.eng n → x.queue = q :: rest → x.desc = [] → x.aborted = false → q.aborted = false → x.st = .idle →
    d0 = (s.dev.descTouch (whoEngine n) q).descTake { time := s.time.toNat, chip := s.chip } (whoEngine n) q →
    d0.descRepairs (whoEngine n) q = false → d0.readDesc (whoEngine n) q = .ok bs → z = descOf bs →
    d1 = d0.newId.2.setEng n { x with desc := bs, run := d0.newId.1, denied := 0 } → d1.chainCheck z q = true →
    z.waitSem = 0 → z.startSem = 0 → z.srcV = false → z.dstV = false → (z.serial = true → x.ends = []) → d0.mem.sbq = [] →
    (∀ r ∈ d1.boardRanges n z, (∀ b ∈ d0.mem.sb, b.core ≠ r.1) ∧ (d1.boardRanges n z).length ≤ 32) →
    Answers (.dmaStart n) s fun d =>
      d.eng n = { x with
        desc := bs, run := d0.core.nextId, denied := 0, st := .moving, started := true, barred := d0.barredIn (d1.boardRanges n z) } ∧
      (x.endReq = 0 → d.get (DMA_STATUS.STATE n) = 3) ∧ d.get (DMA_CURRENT.ADDR n) = q.addr % 2 ^ 64 ∧
      d.mem = { d0.mem with
        sb := d0.mem.sb ++ (d1.boardRanges n z).map (fun r =>
          ⟨if r.2.2.2 then boardOf d0.core.nextId else readBoardOf d0.core.nextId, r.1, r.2.1, r.2.2.1, r.2.2.2⟩) } ∧
      (∀ k, k ≠ n → d.eng k = d0.eng k) ∧ d.ctx q.ctx = { d0.ctx q.ctx with st := .started } ∧
      d.core = { d0.core with nextId := d0.core.nextId + 1 } ∧ d.ses = d0.ses

/-- The FILL of one row of a kernel queue into a scratchpad whose intake has granted the tokens of its rows, its descriptor in another part
of the scratchpads: the row holds the pattern, STATUS and PROGRESS stand in the descriptor, the bytes are counted, the scoreboard is
released, the command is done (R317, R319, R322). -/
def Claims.FillCompletes : Prop :=
  ∀ (n : Nat) (s : State) (x : Engine) (q : DmaEntry) (rest : List DmaEntry) (z : Desc) (c o c' o' : Nat),
    n < 64 → x = s.dev.eng n → x.queue = q :: rest → x.st = .moving → x.aborted = false → x.lost = none → x.pos = 0 →
    x.poison = false → x.ends = [] → x.endReq = 0 → x.endDenied = false → s.dev.runPending n x.run = false →
    q.kernel = true → z = descOf x.desc →
    z.op = 2 → z.dstV = false → z.rows = 1 → z.planes = 1 → 0 < z.xlen → z.xlen + z.dst % 4096 ≤ 4096 → z.doneSem = 0 → z.event = false →
    z.chain = false → s.dev.place z.dst = .sp c o → z.dst = spAddr c o → o + z.xlen ≤ spSize →
    s.dev.runAdmits q.agent x.barred (.sp c o) z.xlen true = true → s.dev.placeSwitches (.sp c o) = false →
    rowSpan o z.xlen ≤ x.tokens.look c → s.dev.mem.upsets = [] →
    s.dev.place (q.addr + 0x70) = .sp c' (o' + 0x70) → q.addr = spAddr c' o' → o' % 128 = 0 → o' + 128 ≤ spSize →
    s.dev.runAdmits q.agent [] (.sp c' (o' + 0x70)) 16 true = true →
    (c' ≠ c ∨ o' + 128 ≤ o ∨ o + z.xlen ≤ o') → c < 128 → c' < 128 → Memory.wf s.dev.mem.cells = true →
    (s.dev.ctx q.ctx).live = true → (s.dev.ctx q.ctx).st = .started →
    Answers (.dmaComplete n) s fun d =>
      d.spRead c o z.xlen = (List.range z.xlen).map (fun i => BitVec.ofNat 8 (bits z.src (8 * (i % 8)) 8)) ∧
      d.spRead c' (o' + 0x70) 16 = leBytes 8 1 ++ leBytes 8 z.xlen ∧
      (∀ k i, k < 128 → i < spSize → (k ≠ c ∨ i < o ∨ o + z.xlen ≤ i) → (k ≠ c' ∨ i < o' + 0x70 ∨ o' + 0x80 ≤ i) →
        d.spRead k i 1 = s.dev.spRead k i 1) ∧
      (∀ a, a < spBase → readByte d.mem.cells a = readByte s.dev.mem.cells a) ∧
      d.get (DMA_BYTES.COUNT n) = satAdd 64 (s.dev.get (DMA_BYTES.COUNT n)) z.xlen ∧
      d.mem.sb = s.dev.mem.sb.filter (fun b => b.id != boardOf x.run && b.id != readBoardOf x.run) ∧
      d.dma.tokenReq = s.dev.dma.tokenReq.filter (fun t => t.1 != n) ∧ d.eng n = { x.clear with queue := rest } ∧
      (∀ k, k ≠ n → d.eng k = s.dev.eng k) ∧
      d.ctx q.ctx = { s.dev.ctx q.ctx with
        st := .ending, began := true, outcome := some .done, progress := q.done + 1, fault := none, reads := [], denied := [] } ∧
      d.core = s.dev.core ∧ d.ses = s.dev.ses

/-- A core with free row buffers grants a token to the mover that asked first and holds fewer than 8: an engine, or the movers of an
instance of the Expert Dispatch Unit (R322). -/
def Claims.IntakeGrants : Prop :=
  (∀ (core : Nat) (s : State) (r : Nat × Nat), s.dev.dma.tokenReq.find? (fun r => r.2 == core) = some r → r.1 < 64 →
    s.dev.intakeFree core ≠ 0 → (s.dev.eng r.1).tokens.look core < 8 →
    Answers (.intakeTokenGrant core) s fun d =>
      d.dma.tokenReq = s.dev.dma.tokenReq.erase r ∧ ((d.eng r.1).tokens.look core) = (s.dev.eng r.1).tokens.look core + 1 ∧
      (∀ k, k ≠ core → (d.eng r.1).tokens.look k = (s.dev.eng r.1).tokens.look k) ∧ (∀ k, k ≠ r.1 → d.eng k = s.dev.eng k) ∧
      d = { s.dev with regs := d.regs, dma := d.dma }) ∧
  (∀ (core : Nat) (s : State) (u held : Nat), s.dev.dma.tokenReq.find? (fun r => r.2 == core) = some (moverOf u, core) →
    s.dev.intakeFree core ≠ 0 → held = s.dev.edu.tokens.look (128 * u + core) → held < 8 → s.dev.edu.jobs.look u = [] →
    Answers (.intakeTokenGrant core) s fun d =>
      d.dma.tokenReq = s.dev.dma.tokenReq.erase (moverOf u, core) ∧ d.edu.tokens.look (128 * u + core) = held + 1 ∧
      (∀ k, k ≠ 128 * u + core → d.edu.tokens.look k = s.dev.edu.tokens.look k) ∧
      d = { s.dev with
        dma := { s.dev.dma with tokenReq := d.dma.tokenReq }, edu := { s.dev.edu with tokens := d.edu.tokens } })

/-- Range requests (R332-R337): a record goes to the ring of its function, a request without an answer ends as refused and lets its group go
on, a granting reply installs its range in place of those it overlaps and resolves its request. -/
def Claims.RangeRequests : Prop :=
  (∀ (id : Nat) (s : State) (r : RangeReq) (size prod : Nat), s.dev.rt.reqs.find? (fun r => r.id == id) = some r → r.f < 32 →
    r.written = false → s.dev.get (RT_RING_CTL.ENABLE r.f) = 1 → s.dev.get (HOST_PORT.LINK_UP (portOf r.f)) = 1 →
    size = s.dev.get (RT_RING_CTL.SIZE r.f) → prod = s.dev.get (RT_RING_PROD.PROD r.f) →
    (prod + 2 ^ 32 - s.dev.get (RT_RING_CONS.CONS r.f)) % 2 ^ 32 < 2 ^ size → Sparse.wf memDefault s.dev.mem.host = true →
    Answers (.rangeRequestRecord id) s fun d =>
      d.hostRead (portOf r.f) (s.dev.get (RT_RING_BASE.ADDR r.f) + 64 * (prod % 2 ^ size)) 64 = r.record prod size ∧
      d.get (RT_RING_PROD.PROD r.f) = (prod + 1) % 2 ^ 32 ∧
      d.rt = { s.dev.rt with reqs := s.dev.rt.reqs.map (fun x => if x.id = id then { x with written := true } else x) } ∧
      d.mem.cells = s.dev.mem.cells ∧ d.core = s.dev.core ∧ d.ses = s.dev.ses) ∧
  (∀ (id : Nat) (s : State) (r : RangeReq) (g : Gid), s.dev.rt.reqs.find? (fun r => r.id == id) = some r →
    r.time + 1000000 * max 1 (s.dev.get RT_CTL.TIMEOUT_MS) ≤ s.time.toNat → r.waiters = [.group g] → (s.dev.grp g).live = true →
    (s.dev.grp g).st = .translate → (s.dev.grp g).reqId = id →
    Answers (.rangeRequestTimeout id) s fun d =>
      d.rt = { s.dev.rt with reqs := s.dev.rt.reqs.filter (fun x => x.id != id) } ∧
      d.get RT_STATS.TIMEOUTS = satAdd RT_STATS.TIMEOUTS.w (s.dev.get RT_STATS.TIMEOUTS) 1 ∧
      d.grp g = { s.dev.grp g with st := .run, denied := some (r.page, id) } ∧
      (∀ h, gidKey h ≠ gidKey g → d.grp h = s.dev.grp h) ∧ d.mem = s.dev.mem ∧ d.ses = s.dev.ses) ∧
  (∀ (f : Nat) (w3 : DWord) (s : State) (w : Nat → Nat) (r : RangeReq) (x : Range) (g : Gid), f < 32 →
    (∀ j, w j = if j = 3 then w3.toNat else (s.dev.rt.reply.look (f * 4 + j)).toNat) →
    s.dev.rt.reqs.find? (fun r => r.id == bits w3.toNat 32 32 && r.f == f) = some r → r.stale = false → x = rangeOf (w 0) (w 1) (w 2) (w 3) →
    replyLegal (w 0) (w 1) (w 2) (w 3) = true → bits w3.toNat 22 2 = 0 → x.pin = false → s.dev.asidBound x.asid = true →
    s.dev.asidFunc x.asid = f → s.dev.rangeReach (s.dev.asidPart x.asid) x.pstart x.len x.w = true → s.dev.rt.device.length < 4096 →
    r.waiters = [.group g] → (s.dev.grp g).live = true → (s.dev.grp g).st = .translate → (s.dev.grp g).reqId = r.id →
    Answers (.rtReplyCommit f w3) s fun d =>
      d.get (RT_REPLY_STATUS.RESULT f) = 0 ∧ d.rt.device = x :: s.dev.rt.device.filter (fun y => !x.overlaps y) ∧
      d.rt.reqs = s.dev.rt.reqs.filter (fun y => y.id != r.id) ∧ d.grp g = { s.dev.grp g with st := .run } ∧
      (∀ h, gidKey h ≠ gidKey g → d.grp h = s.dev.grp h) ∧ d.mem = s.dev.mem ∧ d.ses = s.dev.ses)

/-- Invalidation and binding of an ASID (R331, R337): an invalidation by the bound function drops its entries and makes its requests stale;
it completes when everything in flight is performed; an unbound ASID is bound at once. What the manual leaves open here is as log entry 26 says. -/
def Claims.AsidInvalidation : Prop :=
  (∀ (f : Nat) (v : DWord) (s : State) (a : Nat), a = bits v.toNat 0 16 → f < 32 → s.dev.asidBound a = true → s.dev.asidFunc a = f →
    s.dev.rt.inval = [] →
    Answers (.rtInval (.host f) f v) s fun d =>
      d.get (RT_INVAL_STATUS.BUSY f) = 1 ∧ d.rt.device = s.dev.rt.device.filter (fun r => r.asid != a) ∧
      (∀ k, ∀ r ∈ d.rt.caches.look k, r.asid ≠ a) ∧
      d.rt.reqs = s.dev.rt.reqs.map (fun r => if r.asid = a then { r with stale := true } else r) ∧
      d.rt.inval = [⟨f, a, none, true, s.dev.asidInFlight a, s.dev.asidPackets a⟩] ∧
      d.core = s.dev.core ∧ d.mem = s.dev.mem ∧ d.ses = s.dev.ses) ∧
  (∀ (s : State) (i : RtInvalidation), s.dev.rt.inval = [i] → s.dev.invalReady i = true → i.f < 32 →
    Answers .rtInvalComplete s fun d =>
      d.rt.inval = [] ∧ d.get (RT_INVAL_STATUS.BUSY i.f) = 0 ∧ (∀ v, i.rebind = some v → d.rt.bound.look i.asid = v) ∧
      (i.rebind = none → d.rt = { s.dev.rt with inval := [] }) ∧
      d.core = s.dev.core ∧ d.mem = s.dev.mem ∧ d.ses = s.dev.ses) ∧
  (∀ (src : Src) (a : Nat) (v : DWord) (s : State), a < 65536 → (∀ f, src = .host f → s.dev.isOwner f = true) → s.dev.asidBound a = false →
    (∀ i ∈ s.dev.rt.inval, i.asid ≠ a) →
    Answers (.rtAsidWrite src a v) s fun d =>
      d.reg (RT_ASID.off a) = v.toNat % 2048 ∧ (d.rt.bound.look a).toNat = v.toNat % 2048 ∧
      (∀ k, k ≠ a → d.rt.bound.look k = s.dev.rt.bound.look k) ∧
      d = { s.dev with regs := d.regs, rt := { s.dev.rt with bound := d.rt.bound } })

/-- Event FIFOs. The reader pops the oldest word, of an empty FIFO the last one with UNDERRUN; a word that fails its check sets WORD_ERR and
reads as some value; differing pointers discard everything and
are reported; FLUSH discards everything; REARM and an enable arm the FIFO, which interrupts at once where it stands at its threshold (R373,
R379-R384). What the manual leaves open here is as log entry 47 says. -/
def Obligations.EventFifos : Prop :=
  (∀ (f n : Nat) (s : State) (q : Evq), s.dev.isReader f n = true → q = s.dev.fifo n →
    Answers (.evqPop f n) s fun d =>
      (∀ w rest, q.words = w :: rest → w.bad = false → d.out = s.dev.out ++ [.value f w.data] ∧
        d.fifo n = { q with words := rest, rp := (q.rp + 1) % (2 * evqCapacity n), last := w.data, lastEnd := w.fin } ∧
        d.free = s.dev.free) ∧
      (∀ w rest, q.words = w :: rest → w.bad = true → ∃ v, d.out = s.dev.out ++ [.value f v] ∧
        d.fifo n = { q with
          words := rest, rp := (q.rp + 1) % (2 * evqCapacity n), last := v, lastEnd := w.fin, wordErr := true }) ∧
      (q.words = [] → d.out = s.dev.out ++ [.value f q.last] ∧ d.fifo n = { q with underrun := true } ∧ d.free = s.dev.free) ∧
      (∀ k, k ≠ n → d.fifo k = s.dev.fifo k) ∧ d = { s.dev with evq := d.evq, out := d.out, free := d.free }) ∧
  (∀ (n : Nat) (s : State) (q : Evq), n < 32 ∨ n = 34 → q = s.dev.fifo n →
    Answers (.evqPtrFault n) s fun d =>
      d.fifo n = { q with words := [], rp := 0, wp := 0, lost := satAdd 32 q.lost q.pkts, resets := satAdd 16 q.resets 1 } ∧
      (∀ k, k ≠ n → k ≠ 32 → k ≠ 33 → d.fifo k = s.dev.fifo k) ∧ (d.fifo 32).rseq = ((s.dev.fifo 32).rseq + 1) % 65536 ∧
      d.core = s.dev.core ∧ d.mem = s.dev.mem ∧ d.ses = s.dev.ses) ∧
  (∀ (f n : Nat) (v : DWord) (s : State) (q : Evq), s.dev.isReader f n = true → bit v.toNat 12 = true → bit v.toNat 13 = false →
    bit v.toNat 11 = true → q = s.dev.fifo n →
    (max 1 (bits v.toNat 14 17) ≤ q.pkts →
      Answers (.rearm f n v) s fun d => d.fifo n = { q with armed := false } ∧ (∀ k, k ≠ n → d.fifo k = s.dev.fifo k) ∧
        d.core = s.dev.core ∧ d.mem = s.dev.mem ∧ d.ses = s.dev.ses ∧
        (bits v.toNat 0 11 < vectors f → s.dev.msixMasked f (bits v.toNat 0 11) = false →
          d.out = s.dev.out ++ [.msix f (bits v.toNat 0 11)])) ∧
    (q.pkts < max 1 (bits v.toNat 14 17) →
      Answers (.rearm f n v) s fun d => d.fifo n = { q with armed := true } ∧ (∀ k, k ≠ n → d.fifo k = s.dev.fifo k) ∧
        d = { s.dev with regs := d.regs, written := d.written, evq := d.evq })) ∧
  (∀ (f n : Nat) (v : DWord) (s : State) (q : Evq), s.dev.isReader f n = true → bit v.toNat 13 = true → bit v.toNat 12 = false →
    bit v.toNat 11 = false → q = s.dev.fifo n →
    Answers (.flush f n v) s fun d =>
      d.fifo n = { q with words := [], rp := q.wp, lost := satAdd 32 q.lost q.pkts } ∧ (∀ k, k ≠ n → d.fifo k = s.dev.fifo k) ∧
      d = { s.dev with regs := d.regs, written := d.written, evq := d.evq }) ∧
  (∀ (f n : Nat) (v : DWord) (s : State) (q : Evq), s.dev.isReader f n = true → bit v.toNat 11 = true → bit v.toNat 13 = false →
    s.dev.get (EVQ_CTL.IRQ_EN n) = 0 → q = s.dev.fifo n → q.pkts < max 1 (bits v.toNat 14 17) →
    Answers (.evqIrqEnable f n v) s fun d => d.fifo n = { q with armed := true } ∧ d.get (EVQ_CTL.IRQ_EN n) = 1 ∧
      d.get (EVQ_CTL.VECTOR n) = bits v.toNat 0 11 ∧ d.get (EVQ_CTL.THRESH n) = bits v.toNat 14 17 ∧
      (∀ k, k ≠ n → d.fifo k = s.dev.fifo k) ∧ d = { s.dev with regs := d.regs, written := d.written, evq := d.evq })

/-! The Expert Dispatch Unit. -/

/-- DSP.SUBMIT of a legal descriptor puts it at the end of its instance's queue under a new ticket, which D receives; DSP.STATUS reads a
ticket's state (R92, R170-R172). -/
def Claims.DispatchInstructions : Prop :=
  (∀ (g : Gid) (w : AWord) (s : State) (x : Group) (o u : Nat) (q : EduDesc) (tk : Nat),
    s.dev.Ready g w { cls := 11, op := 0, form := .short } (w.mod == 0) [udst w.d, usrc w.a] x → x.execMask w.guard ≠ 0 →
    g.core < 128 → u = halfOf g.core → o = x.rd w.imm w.a.toNat 0 → o % 64 = 0 → o + 64 ≤ spSize →
    s.dev.get (SP_STATUS.FAILED g.core) = 0 → s.dev.spAdmits (s.dev.issueOf g w x).agent g.core o 64 = true → s.dev.spStores g = false →
    s.dev.sbOverlaps g.core o 64 false = false → s.dev.mem.upsets = [] → s.dev.anyPoison (spAddr g.core o) 64 = false →
    q = { bytes := s.dev.spRead g.core o 64, ticket := 0, kernel := (s.dev.launchOf x.launch).kernel,
          part := (s.dev.launchOf x.launch).part, owner := s.dev.ectxOwner (bits (leOf ((s.dev.spRead g.core o 64).take 8)) 8 6),
          stamp := s.dev.core.nextId } →
    s.dev.eduOk q = true → (s.dev.edu.queue.look u).length < 64 → tk = (s.dev.newTicket u).1 →
    Answers (.dspSubmit g w) s fun d =>
      d.edu.queue.look u = s.dev.edu.queue.look u ++ [{ q with ticket := tk }] ∧
      d.edu.tickets.look (tk % 512) = { seq := tk / 65536, state := 0, gen := 0, fault := 0 } ∧
      d.grp g = { x.wr w.d.toNat 0 tk with pc := nextPc x w, denied := none, stall := 0 } ∧
      (∀ h, gidKey h ≠ gidKey g → d.grp h = s.dev.grp h) ∧ d.mem = s.dev.mem ∧ d.ses = s.dev.ses) ∧
  (∀ (g : Gid) (w : AWord) (s : State) (x : Group),
    s.dev.Ready g w { cls := 11, op := 1, form := .short } (w.mod == 0) [udst w.d, usrc w.a] x → x.execMask w.guard ≠ 0 →
    Does (.dspStatus g w) s g 11 { x.wr w.d.toNat 0 (s.dev.ticketStatus (x.rd w.imm w.a.toNat 0)) with pc := nextPc x w })

/-- The descriptors as their instance takes them up: ROUTE opens the context under its next generation, SCORES sends its values on their
way, ABORT ends the generation it names, RETURN of one row to an origin of this device hands the row over (R169, R174, R185, R189).
What the manual leaves open here is as log entries 27 and 29 say. -/
def Claims.DispatchDescriptors : Prop :=
  (∀ (u c : Nat) (s : State) (x : EduDesc) (rest : List EduDesc), s.dev.edu.queue.look u = x :: rest → x.op = 1 → c = x.ctxNo → u < 2 →
    Answers (.route u) s fun d =>
      d.edu.queue.look u = rest ∧ d.get (CTX_STATE.STATE c) = 1 ∧ d.get (CTX_STATE.GEN c) = (s.dev.get (CTX_STATE.GEN c) + 1) % 256 ∧
      d.get (CTX_STATE.TOKENS c) = 0 ∧ d.reg (CTX_COUNTS.off c) = 0 ∧ (d.ectx c).desc = x.bytes ∧ (d.ectx c).kernel = x.kernel ∧
      (d.ectx c).part = x.owner ∧
      (d.ectx c).ticket = x.ticket ∧ (d.ectx c).ended = none ∧ (d.ectx c).tokens = [] ∧ (d.ectx c).assigns = [] ∧
      (∀ k, k ≠ c → d.ectx k = s.dev.ectx k) ∧ d = { s.dev with regs := d.regs, edu := d.edu }) ∧
  (∀ (u : Nat) (s : State) (x : EduDesc) (rest : List EduDesc) (held : Dev × Bool) (d1 : Dev) (l : List Score), u < 2 →
    s.dev.edu.queue.look u = x :: rest → x.op = 3 →
    held = s.dev.eduSpans { time := s.time.toNat, chip := s.chip } x
      ((List.range (x.fld 0 48 12 + 1)).map (fun t => (x.num 8 8 + t * x.num 0x10 4, 4 * (x.fld 0 38 10 + 1)))) →
    held.2 = false → held.1.eduFront u 3 = some (x, d1) →
    d1.readScores x ((List.range (x.fld 0 48 12 + 1)).flatMap (fun t => (List.range (x.fld 0 38 10 + 1)).map (fun r => (t, r)))) = (l, none) →
    (d1.edu.tickets.look (x.ticket % 512)).seq = x.ticket / 65536 →
    Answers (.scores u) s fun d =>
      d.edu.scores.look u = d1.edu.scores.look u ++ l ∧ d.edu.queue = d1.edu.queue ∧
      (d.edu.tickets.look (x.ticket % 512)).state = 2 ∧ d.edu.ctxs = d1.edu.ctxs ∧ d.mem = held.1.mem ∧ d.core = held.1.core ∧
      d.ses = held.1.ses) ∧
  (∀ (u c : Nat) (s : State) (x : EduDesc) (rest : List EduDesc) (y : EduCtx), s.dev.edu.queue.look u = x :: rest → x.op = 4 → u < 2 →
    c = x.ctxNo → y = s.dev.ectx c → s.dev.ectxState c ≠ 0 → x.fld 0 16 8 = s.dev.get (CTX_STATE.GEN c) → y.ended = none →
    y.written = false →
    Answers (.abort u) s fun d =>
      d.edu.queue.look u = rest ∧
      d.ectx c = { y with
        ended := some 4, fault := 0, faultAddr := 0, granted := true, assigns := (d.ectx c).assigns, experts := (d.ectx c).experts } ∧
      (∀ k, EduJob.row c k ∈ s.dev.edu.jobs.look (instOf c) → ((d.ectx c).assigns.look k).status = 0) ∧
      ((∀ k, EduJob.row c k ∉ s.dev.edu.jobs.look (instOf c)) → (d.ectx c).assigns = y.assigns ∧ (d.ectx c).experts = y.experts) ∧
      d.edu.jobs.look (instOf c) = (s.dev.edu.jobs.look (instOf c)).filter (fun j => (j.rowOf c).isNone) ∧
      d.get (CTX_STATE.STATE c) = 2 ∧ d.get (CTX_STATE.GEN c) = s.dev.get (CTX_STATE.GEN c) ∧
      (∀ k, k ≠ c → d.ectx k = s.dev.ectx k) ∧ d = { s.dev with regs := d.regs, edu := d.edu }) ∧
  (∀ (u id slot n : Nat) (s : State) (x : EduDesc) (rest : List EduDesc) (held : Dev × Bool) (d1 d2 : Dev) (r : EduRet)
      (ms bs : List (Byte × Bool)) (rec : List Byte),
    u < 2 → s.dev.edu.queue.look u = x :: rest → x.op = 2 → x.fld 0 32 16 = 1 → slot = x.fld 0 16 16 →
    n = x.num 8 4 * (if bit (x.num 0 8) 8 then 4 else 2) →
    held = s.dev.eduSpans { time := s.time.toNat, chip := s.chip } x [(x.num 0x10 8 + 64 + 16 * slot, 16), (x.num 0x18 8 + slot * x.num 0x20 4, n)] →
    held.2 = false → held.1.eduFront u 2 = some (x, d1) → id = d1.edu.nextRet + 1 → (∀ r ∈ d1.edu.rets, r.id ≠ id) →
    r = { id := id, ticket := x.ticket, left := 1, fault := 0, doneSem := x.num 0x28 8, part := x.part, kernel := x.kernel } →
    d2 = ({ d1 with edu := { d1.edu with rets := d1.edu.rets ++ [r], nextRet := id } } : Dev).mapTicket x.ticket (fun t => { t with state := 1 }) →
    d2.eduRead (eduAgent x.kernel x.part) (x.num 0x10 8 + 64 + 16 * slot) 16 = .ok ms → anyMark ms = false → rec = ms.map Prod.fst →
    d2.eduRead (eduAgent x.kernel x.part) (x.num 0x18 8 + slot * x.num 0x20 4) n = .ok bs →
    (bits (leOf (rec.take 4)) 0 20 = 0 ∨ bits (leOf (rec.take 4)) 0 20 = d2.fabId) →
    Answers (.return u) s fun d =>
      (∃ row : RetRow, row.ctx = bits (leOf (rec.take 4)) 20 6 ∧ row.gen = bits (leOf ((rec.drop 4).take 4)) 16 8 ∧
        row.token = bits (leOf ((rec.drop 4).take 4)) 0 12 ∧ row.rank = bits (leOf ((rec.drop 4).take 4)) 12 3 ∧
        row.fp32 = bit (x.num 0 8) 8 ∧ row.width = x.num 8 4 ∧ row.data = bs.map Prod.fst ∧ row.poison = anyMark bs ∧ row.ret = some id ∧
        d.edu.rows.look (instOf row.ctx) = d1.edu.rows.look (instOf row.ctx) ++ [row]) ∧
      d.edu.rets = d1.edu.rets ++ [r] ∧ d.edu.ctxs = d1.edu.ctxs ∧ d.mem = held.1.mem ∧ d.core = held.1.core ∧ d.ses = held.1.ses)

/-- A context at work. A score joins its token (R173-R177). An expert whose rows are acknowledged is closed: its count word is written and
its semaphore gets its add (R183, R322). A returned row that fits is combined, element by element, by a fused multiply-add in FP32 (R186). A
context with nothing left to wait for writes its routing records and is IDLE (R180, R187). What the manual leaves open here is as log entries 12 and 29 say. -/
def Claims.DispatchContexts : Prop :=
  (∀ (u : Nat) (s : State) (x : Score) (rest : List Score) (y : EduCtx), s.dev.edu.scores.look u = x :: rest →
    (s.dev.edu.queue.look 0 ++ s.dev.edu.queue.look 1).any (fun q => q.op != 2 && q.ctxNo == x.ctx && decide (q.stamp < x.stamp)) = false →
    y = s.dev.ectx x.ctx → s.dev.ectxState x.ctx = 1 → (if y.part < 16 then x.part == y.part else x.kernel) = true →
    x.expert < y.route.e → x.token < y.route.t → (y.tokens.look x.token).done = false → (y.tokens.look x.token).count + 1 < y.route.e →
    fp32.decode x.value.toNat ≠ .nan → s.dev.mem.repairs = [] →
    Answers (.scoreIntake u) s fun d =>
      d.edu.scores.look u = rest ∧
      d.ectx x.ctx = { y with tokens := y.tokens.put x.token ((y.tokens.look x.token).take y.route.k x.expert x.value) } ∧
      (∀ k, k ≠ x.ctx → d.ectx k = s.dev.ectx k) ∧ d = { s.dev with edu := d.edu }) ∧
  (∀ (c k : Nat) (s : State) (x : EduCtx) (d0 : Dev) (en : TableEntry) (bs : List Byte) (core o a held : Nat), c < 64 → x = s.dev.ectx c →
    s.dev.ectxState c ≠ 0 → x.granted = true → x.written = false → k < x.route.e → (x.experts.look k).closed = false →
    (x.experts.look k).closing = false → s.dev.edu.jobs.look (instOf c) = [] →
    d0 = s.dev.eduTake { time := s.time.toNat, chip := s.chip } x.part (x.route.table + 32 * k) 32 →
    d0.repairing (x.route.table + 32 * k) 32 = false → d0.edu = s.dev.edu → x.rowsAcked k = true → d0.readEntry c k = (.inl en, bs) →
    en = entryOf bs → en.present = true → d0.peerOf en.dest = none → d0.eduWriteFault (eduAgent x.kernel x.part) en.recs 8 = 0 →
    d0.fabPending (fun o => o == .eduWrite c k) = false → d0.place en.recs = .sp core o →
    en.recs = spAddr core o → o % 8 = 0 → o + 8 ≤ spSize → core < 128 → d0.placeSwitches (.sp core o) = false →
    held = s.dev.edu.tokens.look (128 * instOf c + core) → held ≠ 0 → d0.place (en.sem + 8) = .ses a → Memory.wf d0.mem.cells = true →
    Answers (.expertClose c k) s fun d =>
      ((d.ectx c).experts.look k).closed = true ∧
      d.spRead core o 8 = leBytes 8 ((x.experts.look k).slots % 2 ^ 32 + d0.get (CTX_STATE.GEN c) * 2 ^ 32 + b2n x.ended.isSome * 2 ^ 40) ∧
      (∃ op, d.ses.queue = d0.ses.queue ++ [op] ∧ op.kind = .add ∧ op.addr = a ∧ op.n = 1) ∧ d.ses.words = d0.ses.words ∧
      d.edu.tokens.look (128 * instOf c + core) = held - 1 ∧
      (∀ b, ¬ (spAddr core o ≤ b ∧ b < spAddr core o + 8) → readByte d.mem.cells b = readByte d0.mem.cells b) ∧
      (∀ j, j ≠ c → d.ectx j = s.dev.ectx j)) ∧
  (∀ (u c key : Nat) (s : State) (r : RetRow) (rest : List RetRow) (x : EduCtx) (a : Assign), s.dev.edu.rows.look u = r :: rest → r.ctx = c →
    c < 64 → x = s.dev.ectx c → key = 8 * r.token + r.rank → a = x.assigns.look key → r.gen = s.dev.get (CTX_STATE.GEN c) →
    s.dev.ectxState c = 3 → (a.status = 1 ∨ a.status = 2) → a.combined = false → r.rank < x.route.k → r.token < x.route.t →
    r.width = x.route.width → r.fp32 = x.route.rfmt → r.ret = none → r.psns = [] →
    Answers (.returnedRow u) s fun d =>
      d.edu.rows.look u = rest ∧ ((d.ectx c).assigns.look key).combined = true ∧
      (∀ j, j < r.width → ((d.ectx c).acc.look (16384 * r.token + j)) =
        BitVec.ofNat 32 (fma32 a.weight.toNat ((rowElems r.fp32 r.data r.width).getD j 0) (x.acc.look (16384 * r.token + j)).toNat).1) ∧
      (∀ i, (∀ j, j < r.width → i ≠ 16384 * r.token + j) → (d.ectx c).acc.look i = x.acc.look i) ∧
      (∀ j, j ≠ c → d.ectx j = s.dev.ectx j) ∧ d.mem = s.dev.mem ∧ d.core = s.dev.core ∧ d.ses = s.dev.ses) ∧
  (∀ (c core o : Nat) (s : State) (x : EduCtx) (z : RouteDesc), c < 64 → x = s.dev.ectx c → z = x.route → s.dev.ectxState c ≠ 0 →
    s.dev.edu.jobs.look 0 = [] → s.dev.edu.jobs.look 1 = [] → x.written = false → x.allClosed = true → x.expected = 0 → x.ended = none → z.combine = false → z.doneSem = 0 →
    s.dev.fabPending (fun o => o == .eduWrite c 1024) = false → s.dev.place z.routeOut = .sp core o → z.routeOut = spAddr core o →
    o % 64 = 0 → o + 64 * z.t ≤ spSize → core < 128 → s.dev.placeSwitches (.sp core o) = false →
    z.t ≤ s.dev.edu.tokens.look (128 * instOf c + core) →
    (∀ k, k < z.t → s.dev.eduWriteFault (eduAgent x.kernel x.part) (z.routeOut + 64 * k) 64 = 0) → Memory.wf s.dev.mem.cells = true →
    (s.dev.edu.tickets.look (x.ticket % 512)).seq = x.ticket / 65536 →
    Answers (.contextComplete c) s fun d =>
      (∀ k, k < z.t → d.spRead core (o + 64 * k) 64 = x.record k) ∧ d.get (CTX_STATE.STATE c) = 0 ∧
      (d.edu.tickets.look (x.ticket % 512)).state = 2 ∧
      (∀ b, ¬ (spAddr core o ≤ b ∧ b < spAddr core o + 64 * z.t) → readByte d.mem.cells b = readByte s.dev.mem.cells b) ∧
      (∀ j, j ≠ c → d.ectx j = s.dev.ectx j) ∧ d.core = s.dev.core ∧ d.ses = s.dev.ses)

/-! Chanter. -/

/-- Rings and their queues (R340-R345, R349, R354-R356, R364, R371): a doorbell leaves TAIL and a pending mark; a visit of an active queue
whose turn it is fetches one checked command into the lowest free context, a visit of an empty idle queue makes it inactive; a command that
has ended is reported in ring order with its completion word; enabling, disabling, resuming and aborting.
What the manual leaves open here is as log entries 35, 36, 40 and 41 say. -/
def Obligations.QueueCommands : Prop :=
  (∀ (f q : Nat) (v : Word) (s : State), q < 4096 → s.dev.hostHeld ⟨s.time.toNat, s.chip⟩ f = false → s.dev.qFunc q = f → s.dev.ringHeld q v.toNat ≤ 2 ^ s.dev.ringSize q →
    Answers (.doorbell f q 0 4 v) s fun d =>
      d.get (QUEUE_TAIL.TAIL q) = v.toNat ∧ d.get (QUEUE_STATUS.DB_PENDING q) = 1 ∧
      d.get (QUEUE_STATUS.STATE q) = s.dev.get (QUEUE_STATUS.STATE q) ∧ d = { s.dev with regs := d.regs }) ∧
  (∀ (q c pos n : Nat) (s : State) (d0 : Dev) (bs : List Byte) (slots : List (Option (List Byte))), q < 4096 → s.dev.get (QUEUE_STATUS.STATE q) = 3 →
    s.dev.get (QUEUE_STATUS.DB_PENDING q) = 0 → s.dev.get GLOBAL_STATUS.READY = 1 → s.dev.get GLOBAL_STATUS.FATAL_HELD = 0 →
    s.dev.wholeCmd q (s.dev.fe.queues.look q).tailSeen = true → s.dev.turn = some (q, pos) → s.dev.freeCtx = some c →
    s.dev.queueReady q = true → d0 = s.dev.takeSlots ⟨s.time.toNat, s.chip⟩ q (headerSlots (s.dev.headHeader q)) →
    d0.slotsRepair q (headerSlots (s.dev.headHeader q)) = false → n = headerSlots (d0.headHeader q) →
    slots = (List.range n).map (fun i => d0.slot q (d0.get (QUEUE_STATUS.HEAD q) + i)) →
    bs = slots.flatMap (fun s => s.getD (List.replicate 64 0)) → d0.fetchCheck q slots bs = none →
    Answers (.queueVisit q) s fun d =>
      d.get (QUEUE_STATUS.HEAD q) = (d0.get (QUEUE_STATUS.HEAD q) + n) % 2 ^ 32 ∧
      d.get (QUEUE_STATUS.NEXT_SEQ q) = (d0.get (QUEUE_STATUS.NEXT_SEQ q) + 1) % 2 ^ 16 ∧
      (d.ctx c).live = true ∧ (d.ctx c).queue = q ∧ (d.ctx c).bytes = bs ∧ (d.ctx c).seq = bits (leOf (bs.take 8)) 32 16 ∧
      (d.ctx c).st = .fetched ∧ (d.fe.queues.look q).order = (d0.fe.queues.look q).order ++ [c] ∧
      (∀ k, k ≠ c → d.ctx k = d0.ctx k) ∧ d = { d0 with regs := d.regs, fe := d.fe }) ∧
  (∀ (q : Nat) (s : State), s.dev.get (QUEUE_STATUS.STATE q) = 2 → s.dev.get (QUEUE_STATUS.DB_PENDING q) = 0 →
    s.dev.get GLOBAL_STATUS.READY = 1 → s.dev.get GLOBAL_STATUS.FATAL_HELD = 0 →
    Answers (.queueVisit q) s fun d => d.get (QUEUE_STATUS.STATE q) = 1 ∧ d = { s.dev with regs := d.regs }) ∧
  (∀ (c q a f : Nat) (s : State) (x : Ctx) (y : Queue), c < 512 → x = s.dev.ctx c → x.live = true → x.st = .ending → x.outcome = some .done →
    x.launch = none → x.run = none → x.queue = q → q < 4096 → y = s.dev.fe.queues.look q → y.order = [c] → y.disabling = false →
    bit (x.num 0 8) 8 = false → f = s.dev.qFunc q → s.dev.get (QUEUE_RING.DEVICE q) = 0 → s.dev.get (HOST_PORT.LINK_UP (portOf f)) = 1 →
    a = s.dev.get (QUEUE_COMPL.ADDR q) * 8 → a ≠ 0 → Sparse.wf memDefault s.dev.mem.host = true →
    Answers (.commandComplete c) s fun d =>
      d.hostRead (portOf f) a 8 = leBytes 8 (x.seq % 65536 + 2 ^ 16 + (y.completed + 1) % 2 ^ 32 * 2 ^ 32) ∧
      d.get (QUEUE_TAIL.DONE_SEQ q) = x.seq % 65536 ∧ d.ctx c = default ∧
      d.fe.queues.look q = { y with completed := (y.completed + 1) % 2 ^ 32, order := [] } ∧
      (∀ k, k ≠ c → d.ctx k = s.dev.ctx k) ∧ d.mem.cells = s.dev.mem.cells ∧ d = { s.dev with regs := d.regs, fe := d.fe, mem := d.mem }) ∧
  (∀ (f q : Nat) (v : DWord) (s : State), q < 4096 → s.dev.qFunc q = f → bit v.toNat 0 = true → bit v.toNat 1 = false →
    s.dev.get (QUEUE_CTL.ENABLE q) = 0 → s.dev.get (QUEUE_STATUS.STATE q) = 0 → s.dev.qKernel q = true → isPF f = true →
    s.dev.ringUnmapped q = false →
    Answers (.queueEnable f q v) s fun d =>
      d.get (QUEUE_CTL.ENABLE q) = 1 ∧ d.get (QUEUE_STATUS.STATE q) = 1 ∧ d.get (QUEUE_STATUS.ENABLE_RESULT q) = 0 ∧
      d.get (QUEUE_STATUS.HEAD q) = bits v.toNat 32 32 ∧ d.get (QUEUE_TAIL.TAIL q) = bits v.toNat 32 32 ∧
      d.get (QUEUE_STATUS.NEXT_SEQ q) = bits v.toNat 16 16 ∧ (d.fe.queues.look q).completed = 0 ∧
      d = { s.dev with regs := d.regs, written := d.written, fe := d.fe }) ∧
  (∀ (f q : Nat) (v : DWord) (s : State), q < 4096 → s.dev.qFunc q = f → bit v.toNat 0 = false → bit v.toNat 1 = false →
    s.dev.get (QUEUE_STATUS.STATE q) ≠ 0 → (s.dev.fe.queues.look q).order = [] →
    Answers (.queueDisable f q v) s fun d =>
      d.get (QUEUE_CTL.ENABLE q) = 0 ∧ d.get (QUEUE_STATUS.STATE q) = 0 ∧ (∀ c, d.ctx c = s.dev.ctx c) ∧
      d = { s.dev with regs := d.regs, written := d.written, fe := d.fe }) ∧
  (∀ (f q : Nat) (v : DWord) (s : State), q < 4096 → s.dev.qFunc q = f → bit v.toNat 0 = true → bit v.toNat 1 = true →
    s.dev.get (QUEUE_CTL.ENABLE q) = 1 → s.dev.get (QUEUE_STATUS.STATE q) = 4 → (s.dev.fe.queues.look q).disabling = false →
    Answers (.queueResume f q v) s fun d =>
      d.get (QUEUE_STATUS.STATE q) = 1 ∧ d.get (QUEUE_STATUS.HEAD q) = bits v.toNat 32 32 ∧ d.get (QUEUE_TAIL.TAIL q) = bits v.toNat 32 32 ∧
      d.get (QUEUE_STATUS.NEXT_SEQ q) = bits v.toNat 16 16 ∧ (∀ c, d.ctx c = s.dev.ctx c) ∧
      d = { s.dev with regs := d.regs, written := d.written, fe := d.fe }) ∧
  (∀ (f q c : Nat) (v : DWord) (s : State) (x : Ctx), q < 4096 → s.dev.qFunc q = f → x = s.dev.ctx c →
    (s.dev.fe.queues.look q).order.find? (fun c => (s.dev.ctx c).seq == v.toNat % 65536) = some c → x.live = true → x.st = .fetched →
    x.launch = none →
    Answers (.queueAbort (.host f) q v) s fun d =>
      d.ctx c = { x with st := .ending, began := false, outcome := some .aborted, progress := 0, fault := none, reads := [], denied := [] } ∧
      d.get (QUEUE_ABORT_STATUS.RESULT q) = 0 ∧ d.get (QUEUE_ABORT_STATUS.SEQ q) = v.toNat % 65536 ∧
      (∀ k, k ≠ c → d.ctx k = s.dev.ctx k) ∧ d = { s.dev with regs := d.regs, written := d.written, fe := d.fe, rt := d.rt })

/-- What commands do as their agents take them up (R346-R352, R368): a NOP ends, a semaphore command sends its operation to the store, a
WRITE_VALUE writes its word, a DMA command joins its engine, a LAUNCH joins the launches to place, a REG_WRITE writes its register. -/
def Obligations.RingCommands : Prop :=
  (∀ (c : Nat) (s : State) (x : Ctx), x = s.dev.ctx c → s.dev.startable c opNop = true →
    Answers (.nopCmd c) s fun d =>
      d.ctx c = { x with st := .ending, began := true, outcome := some .done, progress := 0, fault := none, reads := [], denied := [] } ∧
      (∀ k, k ≠ c → d.ctx k = s.dev.ctx k) ∧ d = { s.dev with fe := d.fe }) ∧
  (∀ r ∈ ([(.semWaitCmd, opSemWait, .wait, kRead), (.semAddCmd, opSemAdd, .add, kWrite), (.semSetCmd, opSemSet, .set, kWrite)] :
      List ((Nat → Instr) × Nat × SesKind × Nat)),
    ∀ (c b : Nat) (s : State) (x : Ctx) (d1 : Dev) (w : SesWord), x = s.dev.ctx c → s.dev.startable c r.2.1 = true →
    s.dev.cmdAddr ⟨s.time.toNat, s.chip⟩ c (s.dev.cmdVirt c) (x.word 0x08) 8 r.2.2.2 = .at' d1 (.ses b) →
    d1.cmdPlace c (d1.cmdVirt c) (x.word 0x08) = some (.ses b) → (Place.ses b).sesWord = some w → w.accepts r.2.2.1 = true →
    (r.2.2.1 = .add → d1.cmdReleased c false = true) →
    Answers (r.1 c) s fun d =>
      (∃ o, d.ses = { d1.ses with queue := d1.ses.queue ++ [o] } ∧ o.src = .chanter c ∧ o.kind = r.2.2.1 ∧ o.addr = b ∧
        o.n = BitVec.ofNat 64 (x.word 0x10) ∧ o.timeout = (if r.2.2.1 = .wait then x.num 0x18 4 else 0)) ∧
      d.ctx c = { x with st := .started } ∧ (∀ k, k ≠ c → d.ctx k = s.dev.ctx k) ∧ d.mem = d1.mem ∧ d.regs = d1.regs) ∧
  (∀ (c k o : Nat) (s : State) (x : Ctx) (d1 : Dev), x = s.dev.ctx c → s.dev.startable c opWriteValue = true →
    s.dev.cmdAddr ⟨s.time.toNat, s.chip⟩ c (s.dev.cmdVirt c) (x.word 0x08) 8 kWrite = .at' d1 (.sp k o) → d1.place (spAddr k o) = .sp k o →
    d1.cmdReleased c false = true → d1.placeSwitches (.sp k o) = false →
    o % 8 = 0 → o + 8 ≤ spSize → k < 128 → Memory.wf d1.mem.cells = true →
    Answers (.writeValue c) s fun d =>
      d.spRead k o 8 = leBytes 8 (if bit (x.word 0x18) 0 then s.time.toNat else x.word 0x10) ∧
      (∀ b, ¬ (spAddr k o ≤ b ∧ b < spAddr k o + 8) → readByte d.mem.cells b = readByte d1.mem.cells b) ∧
      d.ctx c = { x with st := .ending, began := true, outcome := some .done, progress := 0, fault := none, reads := [], denied := [] } ∧
      (∀ k, k ≠ c → d.ctx k = s.dev.ctx k) ∧ d.core = d1.core ∧ d.ses = d1.ses) ∧
  (∀ (c n : Nat) (s : State) (x : Ctx) (d0 : Dev) (q : DmaEntry) (bs : List Byte), x = s.dev.ctx c → s.dev.startable c opDma = true →
    q = { addr := x.word 0x08, ctx := c, part := s.dev.qPart x.queue, asid := s.dev.qAsid x.queue, kernel := s.dev.qKernel x.queue, done := 0,
          aborted := false } →
    d0 = (s.dev.descTouch whoChanter q).descTake ⟨s.time.toNat, s.chip⟩ whoChanter q → d0.descRepairs whoChanter q = false →
    d0.readDesc whoChanter q = .ok bs → d0.descCheck (descOf bs) q = 0 → bit (x.word 0x10) 6 = false → n = bits (x.word 0x10) 0 6 →
    (d0.eng n).held < 16 →
    Answers (.dma c) s fun d =>
      d.eng n = { d0.eng n with queue := (d0.eng n).queue ++ [q] } ∧ d.ctx c = { x with st := .started, engine := some n, denied := [] } ∧
      (∀ k, k ≠ n → d.eng k = d0.eng k) ∧ (∀ k, k ≠ c → d.ctx k = d0.ctx k) ∧
      d = { d0 with regs := d.regs, fe := d.fe, dma := d.dma }) ∧
  (∀ (c : Nat) (s : State) (x : Ctx) (l : LaunchCmd) (d1 d2 : Dev) (args : List Byte) (g : Agent) (sections : Nat), x = s.dev.ctx c →
    s.dev.startable c opLaunch = true → l = launchOf x.bytes → g = s.dev.ctxAgent c → sections = s.dev.launchSections x.queue l →
    s.dev.launchAreas g l sections = (0, 0) → s.dev.cmdSpans ⟨s.time.toNat, s.chip⟩ c (!l.phys) l.spans = (d1, 0, 0, 0) →
    d1.cmdRead ⟨s.time.toNat, s.chip⟩ c (!l.phys) l.args 0 (if l.args = 0 then 0 else l.arglen) (pagesOf l.arglen) = .ok d2 args false →
    d2.launchBody ⟨s.time.toNat, s.chip⟩ g l sections = (0, 0) →
    Answers (.launch c) s fun d =>
      d.core = { d2.core with
        nextLaunch := d2.core.nextLaunch + 1,
        launches := d2.core.launches ++ [{ (default : Launch) with
          id := d2.core.nextLaunch, live := true, ctx := c, queue := (d2.ctx c).queue, seq := (d2.ctx c).seq, part := g.part, kernel := g.kernel,
          asid := d2.qAsid (d2.ctx c).queue, code := BitVec.ofNat 64 l.code, phys := l.phys, gridX := l.gx, gridY := l.gy, gridZ := l.gz,
          threads := l.threads, cluster := l.cluster, regs := l.regs, tables := l.tables, array := l.array, args := args, w := l.w,
          pool := l.pool, poolBase := l.base, sections := sections, tabAddr := l.tab }] } ∧
      d.ctx c = { d2.ctx c with launch := some d2.core.nextLaunch, reads := [], denied := [] } ∧ (∀ k, k ≠ c → d.ctx k = d2.ctx k) ∧
      d = { d2 with core := d.core, fe := d.fe }) ∧
  (∀ (c p : Nat) (s : State) (x : Ctx), x = s.dev.ctx c → s.dev.startable c opRegWrite = true → s.dev.ownerQueue x.queue = true →
    x.abortReq = false → bits (x.word 0x08) 0 4 = 1 → p < 16 → x.num 0x10 4 = L2_PART_WAYS.off p →
    s.dev.visible (s.dev.actsAs (.queue x.queue)) (L2_PART_WAYS.off p) = true →
    Answers (.regWrite c) s fun d =>
      d.get (L2_PART_WAYS.WAYS p) = x.word 0x18 % 2 ^ 16 ∧
      d.ctx c = { x with st := .ending, began := true, outcome := some .done, progress := 1, fault := none, reads := [], denied := [] } ∧
      (∀ off, off ≠ L2_PART_WAYS.off p → d.reg off = s.dev.reg off) ∧ d.core = s.dev.core ∧ d.mem = s.dev.mem ∧ d.ses = s.dev.ses)

/-- Graph commands (R357-R362): GRAPH_STORE makes a checked image the current version under the next number, GRAPH_PATCH a version with the
commands of its patch list, GRAPH_FREE withdraws it, GRAPH_LAUNCH pins it and starts the nodes without in-edges; the last node to end ends
the launch. What the manual leaves open here is as log entries 38 and 39 say. -/
def Claims.GraphCommands : Prop :=
  (∀ (c n : Nat) (s : State) (x : Ctx) (d1 d2 : Dev) (bs : List Byte) (ns : List GNode) (es : List GEdge) (priv : Bool), x = s.dev.ctx c →
    s.dev.startable c opGraphStore = true → n = x.num 0x18 4 →
    s.dev.cmdSpans ⟨s.time.toNat, s.chip⟩ c (s.dev.cmdVirt c) [(x.word 0x10, n, kRead)] = (d1, 0, 0, 0) →
    d1.graphReach c (bits ((d1.ctx c).word 0x08) 0 10) = true →
    d1.cmdRead ⟨s.time.toNat, s.chip⟩ c (d1.cmdVirt c) (x.word 0x10) 0 n (pagesOf n) = .ok d2 bs false →
    imageOf bs d2.fe.nextRec = some (ns, es, priv) → (∀ n ∈ ns, d2.nodeReach ⟨s.time.toNat, s.chip⟩ c priv n.cmd = true) →
    poolUsed (d2.fe.versions ++ [⟨x.graph, 0, ns, es, d2.fe.nextRec + ns.length, priv, true, 0⟩]) d2.fe.runs ≤ d2.poolSize →
    Answers (.graphStore c) s fun d =>
      d.graphNow x.graph = some ⟨x.graph, if d2.fe.lastNumber.look x.graph + 1 = 2 ^ 32 then 1 else d2.fe.lastNumber.look x.graph + 1,
        ns, es, d2.fe.nextRec + ns.length, priv, true, 0⟩ ∧
      (∀ g, g ≠ x.graph → d.graphNow g = d2.graphNow g) ∧
      d.ctx c = { d2.ctx c with st := .ending, began := true, outcome := some .done, progress := 0, fault := none, reads := [], denied := [] } ∧ d = { d2 with regs := d.regs, fe := d.fe }) ∧
  (∀ (c n : Nat) (s : State) (x : Ctx) (d1 d2 : Dev) (v v' : GVersion) (bs : List Byte) (ps : List (Nat × List Byte)), x = s.dev.ctx c →
    s.dev.startable c opGraphPatch = true → n = bits (x.word 0x08) 32 17 → 0 < n → n ≤ 65536 →
    s.dev.cmdSpans ⟨s.time.toNat, s.chip⟩ c (s.dev.cmdVirt c) [(x.word 0x10, 320 * n, kRead)] = (d1, 0, 0, 0) →
    d1.graphReach c (bits ((d1.ctx c).word 0x08) 0 10) = true →
    d1.cmdRead ⟨s.time.toNat, s.chip⟩ c (d1.cmdVirt c) (x.word 0x10) 0 (320 * n) (pagesOf (320 * n)) = .ok d2 bs false →
    d2.graphNow x.graph = some v → patchOf bs n v.nodes.length v.priv = some ps →
    (∀ p ∈ ps, d2.nodeReach ⟨s.time.toNat, s.chip⟩ c v.priv p.2 = true) →
    v'.nodes = (v.nodes.zipIdx).map (fun p => match (ps.filter (fun y => y.1 == p.2)).getLast? with
      | some (_, cmd) => { p.1 with cmd := cmd, record := d2.fe.nextRec + p.2 }
      | none => p.1) →
    v' = { v with
      nodes := v'.nodes, current := true, pins := 0,
      number := if d2.fe.lastNumber.look x.graph + 1 = 2 ^ 32 then 1 else d2.fe.lastNumber.look x.graph + 1 } →
    poolUsed (d2.fe.versions ++ [{ v with nodes := v'.nodes }]) d2.fe.runs ≤ d2.poolSize →
    Answers (.graphPatch c) s fun d =>
      d.graphNow x.graph = some v' ∧ (∀ g, g ≠ x.graph → d.graphNow g = d2.graphNow g) ∧
      d.ctx c = { d2.ctx c with st := .ending, began := true, outcome := some .done, progress := 0, fault := none, reads := [], denied := [] } ∧ d = { d2 with regs := d.regs, fe := d.fe }) ∧
  (∀ (c : Nat) (s : State) (x : Ctx), x = s.dev.ctx c → s.dev.startable c opGraphFree = true → s.dev.graphReach c x.graph = true →
    (s.dev.graphNow x.graph).isSome = true →
    Answers (.graphFree c) s fun d =>
      d.graphNow x.graph = none ∧ d.get (GRAPH_INFO.VERSION x.graph) = 0 ∧ d.get (GRAPH_INFO.NODES x.graph) = 0 ∧
      (∀ g, g ≠ x.graph → d.graphNow g = s.dev.graphNow g) ∧
      d.ctx c = { x with st := .ending, began := true, outcome := some .done, progress := 0, fault := none, reads := [], denied := [] } ∧ d = { s.dev with regs := d.regs, fe := d.fe }) ∧
  (∀ (c : Nat) (s : State) (x : Ctx) (v : GVersion), x = s.dev.ctx c → s.dev.startable c opGraphLaunch = true →
    s.dev.graphReach c x.graph = true → s.dev.graphNow x.graph = some v → (s.dev.qKernel x.queue = true ∨ v.priv = false) →
    (∀ y ∈ s.dev.fe.versions, y.graph = x.graph → y.number = v.number → y = v) →
    poolUsed s.dev.fe.versions s.dev.fe.runs + counterBytes v.nodes.length ≤ s.dev.poolSize →
    (s.dev.fe.runs.filter (fun r => r.live)).length < 256 → (∀ r ∈ s.dev.fe.runs, r.id ≠ s.dev.fe.nextRun) → c < s.dev.fe.nextNodeCtx →
    Answers (.graphLaunch c) s fun d =>
      d.ctx c = { x with st := .started, run := some s.dev.fe.nextRun } ∧
      d.runOf s.dev.fe.nextRun = ⟨s.dev.fe.nextRun, true, c, x.graph, v.number, v.nodes.map (fun n => n.inDeg),
        (List.range v.nodes.length).filter (fun i => (v.nodes.map (fun n => n.inDeg)).getD i 0 == 0), [], 0, none, false⟩ ∧
      (d.graphAt x.graph v.number).pins = v.pins + 1 ∧
      (∀ i, i < v.nodes.length → (v.nodes.map (fun n => n.inDeg)).getD i 0 = 0 →
        ∃ k, s.dev.fe.nextNodeCtx ≤ k ∧ (d.ctx k).live = true ∧ (d.ctx k).st = .fetched ∧ (d.ctx k).node = some (s.dev.fe.nextRun, i) ∧
          (d.ctx k).bytes = nodeCmd (v.nodes.getD i default).cmd) ∧
      d = { s.dev with fe := d.fe }) ∧
  (∀ (c run n : Nat) (s : State) (x : Ctx) (r : GRun) (v : GVersion), x = s.dev.ctx c → x.node = some (run, n) → x.launch = none →
    x.live = true → x.st = .ending → x.outcome = some .done → s.dev.fe.runs.find? (fun r => r.id == run) = some r → r.live = true →
    r.aborting = false → v = s.dev.graphAt r.graph r.number → (v.nodes.getD n default).edges v.edges = [] →
    (∀ i, i < v.nodes.length → i ∈ r.started) → r.counts.length = r.ended.length + 1 → s.dev.nodeCtxs run = [c] →
    Sparse.sorted s.dev.fe.ctxs = true → r.ctx ≠ c → (s.dev.ctx r.ctx).live = true → (s.dev.ctx r.ctx).st = .started →
    Answers (.graphNodeEnd c) s fun d =>
      d.ctx c = default ∧ (d.runOf run).live = false ∧ (d.runOf run).doneCount = r.doneCount + 1 ∧
      d.ctx r.ctx = { s.dev.ctx r.ctx with
        st := .ending, began := true, outcome := some .done, progress := r.doneCount + 1, fault := none, reads := [], denied := [] } ∧
      (∀ k, k ≠ c → k ≠ r.ctx → d.ctx k = s.dev.ctx k) ∧ d = { s.dev with fe := d.fe })

/-- Kernels (R36, R43-R47, R74, R100): the next block of a launch that is placed one by one starts its groups where there is room; a kernel
whose command is aborted leaves its cores, and its end begins. What the manual leaves open here is as log entry 31 says. -/
def Claims.Kernels : Prop :=
  (∀ (id sect : Nat) (s : State) (l : Launch) (d1 : Dev), l = s.dev.launchOf id → l.placing = true → l.cluster = 1 →
    s.dev.dispatchNext ⟨s.time.toNat, s.chip⟩ id = some (sect, d1) → s.dev.gated sect = false →
    (∀ k ∈ maskList 4 l.tables, d1.repairing (l.tabAddr.getD k 0) 4096 = false) →
    Answers (.blockDispatch id) s fun d =>
      (d.launchOf id).next = l.next + 1 ∧
      (∃ b, d.core.blocks = s.dev.core.blocks ++ [b] ∧ b.id = s.dev.core.nextBlock ∧ b.launch = id ∧ b.index = l.next ∧ sectOf b.core = sect ∧
        b.groups.length = ceilDiv l.threads 32 ∧
        (∀ p ∈ b.groups.zipIdx, d.grp ⟨b.core, p.1.1, p.1.2⟩ = startGroup l b.id p.2 (s.dev.cycles sect) ∧
          ∀ y ∈ s.dev.corePlaces b.core, ¬ (y.1.quarter = p.1.1 ∧ y.1.slot = p.1.2)) ∧
        (∀ h, (∀ p ∈ b.groups, gidKey h ≠ gidKey ⟨b.core, p.1, p.2⟩) → d.grp h = s.dev.grp h)) ∧
      d.mem = d1.mem ∧ d.ses = d1.ses ∧ (d.ctx l.ctx).st = (if (s.dev.ctx l.ctx).live && (s.dev.ctx l.ctx).st == .fetched then .started else (s.dev.ctx l.ctx).st)) ∧
  (∀ (id : Nat) (s : State) (l : Launch), l = s.dev.launchOf id → l.live = true → l.ending = false → l.aborted = true →
    Sparse.sorted s.dev.core.groups = true →
    Answers (.kernelAbort id) s fun d =>
      (d.launchOf id).stopping = true ∧ (d.launchOf id).ending = true ∧
      (∀ g, (s.dev.grp g).live = true → (s.dev.grp g).launch = id → (d.grp g).live = false) ∧
      (∀ g, (s.dev.grp g).launch ≠ id → d.grp g = s.dev.grp g) ∧ (∀ b ∈ d.core.blocks, b.launch ≠ id) ∧
      (∀ o ∈ d.ses.parked, o.src.launch ≠ id) ∧ d.mem.cells = s.dev.mem.cells)

/-! Partitions. -/

/-- Partitions and shares (R444-R448): ASSIGN hands the first of its sections over; TEARDOWN of a partition with nothing running stops
new work; step 4 returns a section's bank sets zeroed, and past its limit the teardown stops there (R204 shows both as handovers); a share handover drains its shares and
gives them over, zeroed where R447 says so. -/
def Claims.Partitions : Prop :=
  (∀ (q p first : Nat) (v : DWord) (s : State) (rest : List Nat), s.dev.qKernel q = true → bits v.toNat 0 2 = 1 → p = bits v.toNat 2 4 →
    s.dev.get PART_STATUS.STATE = 0 → s.dev.get (PART_CFG.STATE p) ≠ 2 → maskList 16 (bits v.toNat 6 16) = first :: rest →
    (∀ k ∈ first :: rest, s.dev.sectFree k = true) → s.dev.mem.hand = none →
    Answers (.assign (.queue q) v) s fun d =>
      d.part = { s.dev.part with assign := some ⟨p, bits v.toNat 6 16, rest, s.time.toNat⟩ } ∧ d.get PART_STATUS.STATE = 1 ∧
      d.mem = { s.dev.mem with hand := some ⟨first, 255, 65535, p, 1000, s.time.toNat, false, 2⟩ } ∧ d.get SP_HANDOVER_STATUS.STATE = 1 ∧
      (∀ c k, c < 128 → k < 16 → d.get (SP_OWN.OWNER c k) = s.dev.get (SP_OWN.OWNER c k) ∧
        d.get (SP_OWN.PENDING c k) = (if sectOf c = first then 1 else s.dev.get (SP_OWN.PENDING c k))) ∧
      d = { s.dev with regs := d.regs, written := d.written, mem := d.mem, part := d.part }) ∧
  (∀ (q p limit : Nat) (v : DWord) (s : State), s.dev.qKernel q = true → bits v.toNat 0 2 = 2 → p = bits v.toNat 2 4 →
    limit = bits v.toNat 22 16 → s.dev.get PART_STATUS.STATE = 0 →
    (∀ r, r < 16 → s.dev.get (CR_CFG.VALID r) = 1 → s.dev.get (CR_CFG.OWNER r) ≠ p) → s.dev.part.stoppedAt.look p = 0 →
    (∀ k, k < 4096 → s.dev.qPart k ≠ p) → (∀ c, c < 64 → s.dev.ectxState c = 0) → (∀ c, c < 256 → (s.dev.coll c).armed = false) →
    Answers (.teardown (.queue q) v) s fun d =>
      d.get (PART_CFG.STATE p) = 2 ∧ d.get PART_STATUS.STATE = 1 ∧
      d.part.teardown = some ⟨p, 2, if limit = 0 then 1000 else limit, s.time.toNat, 0, s.time.toNat⟩ ∧
      (∀ k, k < 64 → d.reg (FAB_TENANT.off k) = (if s.dev.get (FAB_TENANT.PART k) = p then 0x1F0000 else s.dev.reg (FAB_TENANT.off k))) ∧
      (∀ c k, c < 128 → k < 16 → SameSet s.dev d c k) ∧ d.mem = s.dev.mem ∧ d.core = s.dev.core ∧ d.ses = s.dev.ses) ∧
  (∀ (p k : Nat) (s : State) (r : Teardown), s.dev.part.teardown = some r → r.step = 4 → r.position = k → k < 16 → r.part = p → p < 16 →
    s.dev.mem.hand = none → s.dev.get SP_HANDOVER_STATUS.STATE ≠ 0 → (∀ c ∈ sectCores k, s.dev.setBusy c (s.dev.setsHeld c p) = false) → Memory.wf s.dev.mem.cells = true →
    s.dev.nextHeldSect p (k + 1) = none →
    Answers .teardownStepComplete s fun d =>
      d.part.teardown = some { r with step := 5, position := 0 } ∧
      d.get SP_HANDOVER_STATUS.STATE = 0 ∧ d.get SP_HANDOVER_STATUS.RESULT = 0 ∧ d.get SP_HANDOVER_STATUS.ZEROED = 1 ∧
      (∀ c ∈ sectCores k, ∀ i ∈ s.dev.setsHeld c p, d.get (SP_OWN.OWNER c i) = 31 ∧ d.get (SP_OWN.PENDING c i) = 0 ∧
        ∀ o, o < spSize → bankSet o = i → d.spRead c o 1 = [0]) ∧
      (∀ c i, c < 128 → i < 16 → ¬ (c ∈ sectCores k ∧ i ∈ s.dev.setsHeld c p) → SameSet s.dev d c i) ∧
      (∀ a, a < spBase → readByte d.mem.cells a = readByte s.dev.mem.cells a) ∧ d.core = s.dev.core ∧ d.ses = s.dev.ses) ∧
  (∀ (s : State) (r : Teardown), s.dev.part.teardown = some r → r.step = 4 → r.position < 16 → s.dev.mem.hand = none →
    r.since + 1000 * r.limit ≤ s.time.toNat →
    Answers .teardownTimeout s fun d =>
      d.part.teardown = none ∧ d.part.stoppedAt.look r.part = 4 * 1024 + r.position ∧ d.get PART_STATUS.STATE = 0 ∧
      d.get PART_STATUS.RESULT = 5 ∧ d.get SP_HANDOVER_STATUS.STATE = 0 ∧ d.get SP_HANDOVER_STATUS.RESULT = 1 ∧
      (∀ c ∈ sectCores r.position, ∀ i ∈ s.dev.setsHeld c r.part, d.get (SP_OWN.PENDING c i) = 0) ∧
      (∀ c i, c < 128 → i < 16 → d.get (SP_OWN.OWNER c i) = s.dev.get (SP_OWN.OWNER c i)) ∧
      d = { s.dev with regs := d.regs, part := d.part }) ∧
  (∀ (q first count new : Nat) (v : DWord) (s : State), s.dev.qKernel q = true → first = bits v.toNat 0 7 → count = bits v.toNat 7 8 →
    new = bits v.toNat 15 5 → s.dev.get SHARE_HANDOVER_STATUS.STATE = 0 → (new = 31 ∨ (new < 16 ∧ s.dev.get (PART_CFG.STATE new) ≠ 2)) →
    0 < count → first + count ≤ s.dev.cu → s.dev.cu ≤ 128 → (∀ i ∈ runOfShares first count, s.dev.get (SHARE_OWN.OWNER i) ≠ 18) →
    Answers (.shareHandover (.queue q) v) s fun d =>
      d.mem = { s.dev.mem with share := some ⟨first, count, new, s.time.toNat⟩ } ∧ d.get SHARE_HANDOVER_STATUS.STATE = 1 ∧
      (∀ i, i < 128 → d.get (SHARE_OWN.OWNER i) = s.dev.get (SHARE_OWN.OWNER i) ∧
        d.get (SHARE_OWN.PENDING i) = (if i ∈ runOfShares first count then 1 else s.dev.get (SHARE_OWN.PENDING i))) ∧
      d = { s.dev with regs := d.regs, written := d.written, mem := d.mem }) ∧
  (∀ (s : State) (h : ShareHandover), s.dev.mem.share = some h → h.first + h.count ≤ 128 → h.owner < 32 →
    (∀ i ∈ runOfShares h.first h.count, s.dev.shareBusy i = false) → (∀ k ∈ s.dev.mem.chanMap, k < 128) →
    Memory.wf s.dev.mem.cells = true →
    Answers .shareHandoverComplete s fun d =>
      d.mem.share = none ∧ d.get SHARE_HANDOVER_STATUS.STATE = 0 ∧ d.get SHARE_HANDOVER_STATUS.RESULT = 0 ∧
      (∀ i ∈ runOfShares h.first h.count, d.get (SHARE_OWN.OWNER i) = h.owner ∧ d.get (SHARE_OWN.PENDING i) = 0 ∧
        (s.dev.shareZeroes i h.owner = true → ∀ a, i * shareBytes ≤ a → a < (i + 1) * shareBytes →
          (s.dev.chanDown (s.dev.chanOf a) = false → readByte d.mem.cells a = 0) ∧ (d.mem.l2.look (a / 32)).held = false)) ∧
      (∀ i, i < 128 → i ∉ runOfShares h.first h.count → d.get (SHARE_OWN.OWNER i) = s.dev.get (SHARE_OWN.OWNER i)) ∧
      (∀ a, (∀ i ∈ runOfShares h.first h.count, s.dev.shareZeroes i h.owner = true → ¬ (i * shareBytes ≤ a ∧ a < (i + 1) * shareBytes)) →
        readByte d.mem.cells a = readByte s.dev.mem.cells a) ∧ d.core = s.dev.core ∧ d.ses = s.dev.ses)

/-- Common regions (R449): registered, its shares belong to the region; withdrawn, they are its owner's again. -/
def Claims.CommonRegions : Prop :=
  (∀ (q r : Nat) (v : DWord) (s : State), r < 16 → bit v.toNat 22 = true → s.dev.get (CR_CFG.VALID r) = 0 →
    s.dev.crCheck r v.toNat = 0 → s.dev.cu ≤ 128 →
    Answers (.crRegister (.queue q) r v) s fun d =>
      d.get (CR_CFG.VALID r) = 1 ∧ d.get (CR_STATUS.RESULT r) = 0 ∧ d.get (CR_CFG.OWNER r) = bits v.toNat 15 5 ∧
      (∀ i ∈ runOfShares (bits v.toNat 0 7) (bits v.toNat 7 8), d.get (SHARE_OWN.OWNER i) = 18 ∧ d.get (SHARE_OWN.REGION i) = r) ∧
      (∀ i, i < 128 → i ∉ runOfShares (bits v.toNat 0 7) (bits v.toNat 7 8) → d.get (SHARE_OWN.OWNER i) = s.dev.get (SHARE_OWN.OWNER i)) ∧
      d.mem = s.dev.mem ∧ d.core = s.dev.core ∧ d.ses = s.dev.ses) ∧
  (∀ (q r : Nat) (v : DWord) (s : State), r < 16 → bit v.toNat 22 = false → s.dev.get (CR_CFG.VALID r) = 1 →
    s.dev.get (CR_CFG.FIRST r) + s.dev.get (CR_CFG.COUNT r) ≤ 128 →
    Answers (.crWithdraw (.queue q) r v) s fun d =>
      d.get (CR_CFG.VALID r) = 0 ∧
      (∀ i ∈ runOfShares (s.dev.get (CR_CFG.FIRST r)) (s.dev.get (CR_CFG.COUNT r)),
        d.get (SHARE_OWN.OWNER i) = s.dev.get (CR_CFG.OWNER r) ∧ d.get (SHARE_OWN.REGION i) = 0) ∧
      d.mem = s.dev.mem ∧ d.core = s.dev.core ∧ d.ses = s.dev.ses)

/-! The fabric. -/

/-- Requests at their target (R27, R92, R309-R312, R390, R394, R402, R410, R412). A request that its flow takes, of an agent that reaches
what it names, is performed once: WRITE and DSP_WRITE store their bytes, READ answers with bytes and poison, ATOMIC stores the new value and
answers the old one, SEM joins the operations on their way to its store, SEM_WITHDRAW takes the operation it names out of the waiting ones,
DSP_RETURN of a single segment hands its row over. What the manual leaves open here is as log entry 24 says. -/
def Obligations.KlpRequests : Prop :=
  (∀ (l : Nat) (p : Packet) (s : State) (g : Agent) (core o : Nat), s.dev.Takes l p tWrite → p.fits 1 8192 = true → p.subop = 0 →
    s.dev.tagAgent p = some g → s.dev.reachFault g p.addr p.length true = 0 → s.dev.placeLocal p.addr = .sp core o → p.addr = spAddr core o →
    core < 128 → o + p.length ≤ spSize → s.dev.placeSwitches (.sp core o) = false → Memory.wf s.dev.mem.cells = true →
    Answers (.write l p) s fun d =>
      d.spRead core o p.length = p.data ∧ (d.rflow p.src).opened.contains p.psn = false ∧
      (∀ a, ¬ (p.addr ≤ a ∧ a < p.addr + p.length) → readByte d.mem.cells a = readByte s.dev.mem.cells a) ∧
      d.core = s.dev.core ∧ d.ses = s.dev.ses) ∧
  (∀ (l : Nat) (p : Packet) (s : State) (g : Agent) (core o : Nat), s.dev.Takes l p tRead → p.data = [] → 1 ≤ p.length → p.length ≤ 8192 →
    p.subop = 0 → s.dev.tagAgent p = some g → s.dev.reachFault g p.addr p.length false = 0 → s.dev.placeLocal p.addr = .sp core o →
    p.addr = spAddr core o → core < 128 → o + p.length ≤ spSize → s.dev.placeSwitches (.sp core o) = false → s.dev.mem.upsets = [] →
    Answers (.read l p) s fun d =>
      (∃ q ∈ (d.flow p.src).pkts, q.owner = .response ∧ q.pkt.type = tReadResp ∧ q.pkt.dst = p.src ∧ q.pkt.addr = p.psn ∧
        q.pkt.data = s.dev.spRead core o p.length) ∧
      (d.rflow p.src).opened.contains p.psn = false ∧ d.mem = s.dev.mem ∧ d.core = s.dev.core ∧ d.ses = s.dev.ses) ∧
  (∀ (l : Nat) (p : Packet) (s : State) (g : Agent) (core o size : Nat) (a : AtomReq), s.dev.Takes l p tAtomic → p.fits 16 16 = true →
    atomSubop p.subop = true → s.dev.tagAgent p = some g → size = (if bit p.subop 5 then 8 else 4) → p.addr % size = 0 →
    s.dev.reachFault g p.addr size true = 0 → s.dev.placeLocal p.addr = .sp core o → s.dev.placeSwitches (.sp core o) = false →
    s.dev.mem.upsets = [] →
    a = { op := bits p.subop 0 4, size := size, off := p.addr, signed := bit p.subop 4, b := BitVec.ofNat 64 (beOf (p.data.take 8)),
          c := BitVec.ofNat 64 (beOf ((p.data.drop 8).take 8)), lane := 0 } →
    Answers (.atomic l p) s fun d =>
      d.mem = (s.dev.spAtom core a).2.2.mem ∧
      (∃ q ∈ (d.flow p.src).pkts, q.owner = .response ∧ q.pkt.type = tAtomicResp ∧ q.pkt.dst = p.src ∧ q.pkt.addr = p.psn ∧
        q.pkt.data = beBytes 8 (s.dev.spAtom core a).1) ∧
      (d.rflow p.src).opened.contains p.psn = false ∧ d.core = s.dev.core ∧ d.ses = s.dev.ses) ∧
  (∀ (l : Nat) (p : Packet) (s : State) (g : Agent) (a : Nat) (k : SesKind), s.dev.Takes l p tSem → p.fits 16 16 = true → p.subop ≤ 9 →
    s.dev.tagAgent p = some g → s.dev.placeLocal p.addr = .ses a → p.addr < 2 ^ 40 → a % 8 = 0 → k = semKind p.subop →
    (sesWord a).accepts k = true → s.dev.sesAdmits g a = true → (k = .set → g.kernel = true) →
    Answers (.sem l p) s fun d =>
      (∃ o, d.ses = { s.dev.ses with queue := s.dev.ses.queue ++ [o] } ∧ o.src = .peer p.src l p.psn ∧ o.kind = k ∧ o.addr = a ∧
        o.n = BitVec.ofNat 64 (beOf (p.data.take 8)) ∧
        (k ≠ .lock → k ≠ .unlock → o.lanes = [] ∧ o.timeout = beOf ((p.data.drop 8).take 8) % 2 ^ 32) ∧
        (k = .lock ∨ k = .unlock → o.lanes = [⟨0, a, beOf ((p.data.drop 8).take 8)⟩])) ∧
      d.mem = s.dev.mem ∧ (∀ h, d.grp h = s.dev.grp h)) ∧
  (∀ (l : Nat) (p : Packet) (s : State) (o : SesOp) (l' : Nat), s.dev.Takes l p tSemWithdraw → p.data = [] → p.length = 0 → p.subop = 0 →
    o ∈ s.dev.ses.parked → o.src = .peer p.src l' (p.addr % 2 ^ 32) → o.kind.holds = true →
    Answers (.semWithdraw l p) s fun d =>
      (∀ x ∈ d.ses.parked, ∀ k, x.src = .peer p.src k (p.addr % 2 ^ 32) → x.kind.holds = false) ∧
      (∃ q ∈ (d.flow p.src).pkts, q.pkt.type = tSemResp ∧ q.pkt.dst = p.src ∧ q.pkt.addr = p.addr % 2 ^ 32 ∧ q.pkt.data = beBytes 8 2) ∧
      d.mem = s.dev.mem ∧ d.core = s.dev.core) ∧
  (∀ (l : Nat) (p : Packet) (s : State) (g : Agent) (core o : Nat), s.dev.Takes l p tDspWrite → p.fits 1 8192 = true → p.segOk = true →
    p.subop = 0 → p.lastSeg = false → s.dev.tagAgent p = some g → s.dev.reachFault g p.addr p.length true = 0 →
    s.dev.placeLocal p.addr = .sp core o → p.addr = spAddr core o → core < 128 → o + p.length ≤ spSize →
    s.dev.placeSwitches (.sp core o) = false → Memory.wf s.dev.mem.cells = true →
    Answers (.dspWrite l p) s fun d =>
      d.spRead core o p.length = p.data ∧ (d.rflow p.src).opened.contains p.psn = false ∧
      (∀ a, ¬ (p.addr ≤ a ∧ a < p.addr + p.length) → readByte d.mem.cells a = readByte s.dev.mem.cells a) ∧
      d.core = s.dev.core ∧ d.ses = s.dev.ses) ∧
  (∀ (l : Nat) (p : Packet) (s : State) (g : Agent) (u : Nat), s.dev.Takes l p tDspReturn → p.fits 1 8192 = true → p.segs = 1 → p.seg = 0 →
    p.subop = 0 → s.dev.tagAgent p = some g → u = instOf p.returned.ctx → s.dev.stagedBytes u + p.length ≤ 2 ^ 20 →
    (∀ r ∈ s.dev.edu.staging, r.peer ≠ p.src) →
    Answers (.dspReturn l p) s fun d =>
      d.edu = { s.dev.edu with
        rows := s.dev.edu.rows.put u (s.dev.edu.rows.look u ++ [{ p.returned with poison := p.status == 1, data := p.data, psns := [p.psn] }]) } ∧
      d.mem = s.dev.mem ∧ d.core = s.dev.core ∧ d.ses = s.dev.ses)

/-- What comes back to the requester (R401-R405). An ACK takes a store it covers off its flow and moves the window by R405; a NAK that
refuses does the same for the packet it names, a NAK BUSY keeps it for a repeat; a response ends its request and gives its data, its old
value or its PD to what waited for it. -/
def Obligations.KlpAnswers : Prop :=
  (∀ (l : Nat) (p : Packet) (s : State) (f : SendFlow) (x : Sent) (gs : List (Gid × Nat)), s.dev.klpTakes l p tAck = true → p.length = 24 →
    p.data.length = 24 → s.dev.peerDead p.src = false → f = s.dev.flow p.src → f.live = true → f.epoch = p.epoch → f.pkts = [x] → s.dev.noneWait = true →
    x.owner = .store gs → x.sent = true → x.acked = false → waitsResponse x.pkt = false →
    ackCovers (beOf (p.data.take 8)) (beOf ((p.data.drop 8).take 8)) x.pkt.psn = true →
    Answers (.ack l p) s fun d =>
      (d.flow p.src).pkts = [] ∧
      (d.flow p.src).cwnd = (s.dev.ccOnAck ⟨s.time.toNat, s.chip⟩ f (beOf ((p.data.drop 16).take 8)) (pktSize x.pkt)).cwnd ∧
      (∀ k, k ≠ p.src → d.flow k = s.dev.flow k) ∧ d = { s.dev with fab := d.fab }) ∧
  (∀ (l : Nat) (p : Packet) (s : State) (f : SendFlow) (x : Sent) (gs : List (Gid × Nat)), s.dev.klpTakes l p tNak = true → p.length = 8 →
    p.data.length = 8 → s.dev.peerDead p.src = false → f = s.dev.flow p.src → f.live = true → f.epoch = p.epoch → f.pkts = [x] → s.dev.noneWait = true →
    x.owner = .store gs → x.sent = true → x.acked = false → beOf (p.data.take 4) = x.pkt.psn →
    (beOf (p.data.drop 4) = 4 → Answers (.nak l p) s fun d =>
      d.flow p.src = { f with pkts := [{ x with busy := true, last := s.time.toNat }] } ∧ (∀ k, k ≠ p.src → d.flow k = s.dev.flow k) ∧
      d = { s.dev with fab := d.fab }) ∧
    (beOf (p.data.drop 4) ≠ 4 → Answers (.nak l p) s fun d =>
      (d.flow p.src).pkts = [] ∧ (∀ k, k ≠ p.src → d.flow k = s.dev.flow k) ∧ d.mem = s.dev.mem ∧ d.core = s.dev.core ∧
      d.ses = s.dev.ses)) ∧
  (∀ (l : Nat) (p : Packet) (s : State) (x : Sent) (id n : Nat) (r : DmaRead), s.dev.Takes l p tReadResp → p.fits 1 8192 = true →
    p.subop = 0 → (s.dev.flow p.src).pkts = [x] → x.sent = true → x.pkt.psn = p.addr % 2 ^ 32 → x.pkt.type = tRead → x.owner = .bind id →
    r ∈ (s.dev.eng n).reads → r.id = id →
    Answers (.readResp l p) s fun d =>
      { r with data := some (p.data, p.status == 1), fault := 0 } ∈ (d.eng n).reads ∧ (d.flow p.src).pkts = [] ∧
      (∀ k, (∀ y ∈ (s.dev.eng k).reads, y.id ≠ id) → d.eng k = s.dev.eng k) ∧ d.mem = s.dev.mem ∧ d.core = s.dev.core ∧ d.ses = s.dev.ses) ∧
  (∀ (l : Nat) (p : Packet) (s : State) (x : Sent) (g : Gid) (w : Nat), s.dev.Takes l p tAtomicResp → p.fits 8 8 = true → p.subop = 0 →
    (s.dev.flow p.src).pkts = [x] → x.sent = true → x.pkt.psn = p.addr % 2 ^ 32 → x.pkt.type = tAtomic → x.owner = .load g w →
    Answers (.atomicResp l p) s fun d =>
      d.core = (s.dev.loadAnswer g w (leBytes 8 (beOf p.data)) (p.status == 1)).core ∧ (d.flow p.src).pkts = [] ∧ d.mem.cells = s.dev.mem.cells ∧
      d.ses = s.dev.ses) ∧
  (∀ (l : Nat) (p : Packet) (s : State) (x : Sent) (op : Nat) (o : SesOp) (g : Gid) (lc acc : Nat), s.dev.Takes l p tSemResp →
    p.fits 8 8 = true → p.subop = 0 → p.status = 0 → (s.dev.flow p.src).pkts = [x] → x.sent = true → x.pkt.psn = p.addr % 2 ^ 32 →
    x.pkt.type = tSem → x.owner = .sem op → s.dev.remoteOp op = some o → o.src = .group g lc acc → (o.kind = .wait ∨ o.kind = .take) →
    o.scope = 0 → s.dev.sesWaits g lc = true →
    Answers (.semResp l p) s fun d =>
      d.grp g = { (s.dev.grp g).setPred o.pd (2 ^ 32 - 1) (if bit (beOf p.data) 0 then 2 ^ 32 - 1 else 0) with pc := o.pc, st := .run } ∧
      (∀ h, gidKey h ≠ gidKey g → d.grp h = s.dev.grp h) ∧ (∀ y ∈ d.ses.remote, y.2.id ≠ op) ∧ (d.flow p.src).pkts = [] ∧
      d.mem.cells = s.dev.mem.cells)

/-- Peers (R407, R408). A PROBE of a living peer is answered; a PROBE_ACK that echoes this device's incarnation answers the PROBE under way;
FLOW_RESET and a timeout declare the peer dead: its flow is dropped, it is counted, and a group whose store was under way learns of the
loss. The timers acknowledge, repeat and probe. What the manual leaves open here is as log entry 46 says. -/
def Obligations.KlpPeers : Prop :=
  (∀ (l k : Nat) (p : Packet) (s : State), s.dev.klpTakes l p tProbe = true → p.length = 8 → p.data.length = 8 →
    s.dev.peerDead p.src = false → (s.dev.peer p.src).joined = true → s.dev.pickPort p.src true = some k →
    Answers (.probe l p) s fun d =>
      d = { s.dev with out := s.dev.out ++ [.klp k { (s.dev.packet p.src tProbeAck 0 0 0 8 0
              (s.dev.incarnationBytes (beOf (p.data.take 4)))) with tstamp := s.time.toNat }] }) ∧
  (∀ (l : Nat) (p : Packet) (s : State), s.dev.klpTakes l p tProbeAck = true → p.length = 8 → p.data.length = 8 →
    s.dev.peerDead p.src = false → (s.dev.peer p.src).joined = true → (s.dev.peer p.src).probe ≠ none →
    beOf (p.data.drop 4) = s.dev.mgmt.incarnation →
    Answers (.probeAck l p) s fun d =>
      d.peer p.src = { s.dev.peer p.src with probe := none } ∧ (∀ k, k ≠ p.src → d.peer k = s.dev.peer k) ∧ d = { s.dev with fab := d.fab }) ∧
  (∀ (l : Nat) (p : Packet) (s : State), s.dev.klpTakes l p tFlowReset = true → p.length = 8 → p.data.length = 8 → s.dev.quietPeer p.src →
    s.dev.peerDead p.src = false → (s.dev.flow p.src).pkts = [] →
    Answers (.flowReset l p) s fun d =>
      d.peer p.src = { s.dev.peer p.src with dead := true, probe := none } ∧ (d.flow p.src).live = false ∧ (d.flow p.src).pkts = [] ∧
      d.get FAB_STATS.DEAD = satAdd FAB_STATS.DEAD.w (s.dev.get FAB_STATS.DEAD) 1 ∧
      (∀ o ∈ d.ses.parked, ∀ a b, o.src ≠ .peer p.src a b) ∧ d.mem = s.dev.mem ∧ d.core = s.dev.core) ∧
  (∀ (peer : Nat) (s : State) (x : Sent) (g : Gid) (b : Nat), s.dev.peerDead peer = false → s.dev.timedOut ⟨s.time.toNat, s.chip⟩ peer = true →
    s.dev.quietPeer peer → (s.dev.flow peer).pkts = [x] → x.acked = false → x.owner = .store [(g, b)] → (s.dev.grp g).live = true →
    (s.dev.grp g).block = b → (s.dev.grp g).st = .run →
    Answers (.peerDead peer) s fun d =>
      d.peer peer = { s.dev.peer peer with dead := true, probe := none } ∧ (d.flow peer).live = false ∧ (d.flow peer).pkts = [] ∧
      d.get FAB_STATS.DEAD = satAdd FAB_STATS.DEAD.w (s.dev.get FAB_STATS.DEAD) 1 ∧
      bits (d.grp g).fabStat.toNat 0 16 = satAdd 16 (bits (s.dev.grp g).fabStat.toNat 0 16) 1 ∧ bit (d.grp g).fabStat.toNat 17 = true ∧
      (∀ h, gidKey h ≠ gidKey g → d.grp h = s.dev.grp h) ∧ d.mem = s.dev.mem) ∧
  (∀ (peer k : Nat) (s : State) (f : RecvFlow), f = s.dev.rflow peer → f.live = true → f.src = peer → f.newPkts ≠ 0 →
    f.firstNew + 1000 ≤ s.time.toNat → s.dev.pickPort peer true = some k →
    Answers (.ackTimer peer) s fun d =>
      d.rflow peer = { f with newPkts := 0 } ∧
      (∃ q, d.out = s.dev.out ++ [.klp k q] ∧ q.type = tAck ∧ q.dst = peer ∧ q.epoch = f.epoch ∧ q.data.take 8 = beBytes 8 f.cum ∧
        q.data.drop 16 = beBytes 8 f.newest) ∧ d = { s.dev with fab := d.fab, out := d.out }) ∧
  (∀ (peer psn k : Nat) (s : State) (f : SendFlow) (x : Sent), f = s.dev.flow peer → f.pkts = [x] → x.pkt.psn = psn → x.sent = true →
    x.acked = false → x.busy = false → (if x.pkt.type = tMirror then s.dev.pickPairPort peer else s.dev.pickPort peer false) = some k →
    f.live = true → s.dev.klpEnabled = true → x.last + s.dev.rto f x ≤ s.time.toNat →
    Answers (.retransmitTimeout peer psn) s fun d =>
      d.flow peer = { f with
        pkts := [{ x with pkt := { x.pkt with retx := true, tstamp := s.time.toNat }, last := s.time.toNat, port := k, tries := x.tries + 1,
                          busy := false }],
        count := f.count + 1, cwnd := 8192 } ∧
      d.out = s.dev.out ++ [.klp k { x.pkt with retx := true, tstamp := s.time.toNat }] ∧
      d.get FAB_STATS.RETX = satAdd FAB_STATS.RETX.w (s.dev.get FAB_STATS.RETX) 1 ∧
      d = { s.dev with regs := d.regs, fab := d.fab, out := d.out, act := d.act }) ∧
  (∀ (peer k : Nat) (s : State), s.dev.klpEnabled = true → s.dev.peerDead peer = false → s.dev.waitsOn peer = true →
    (s.dev.flow peer).pkts.any (fun x => !x.acked) = false → (s.dev.peer peer).probed + s.dev.peerTimeout / 8 ≤ s.time.toNat →
    s.dev.pickPort peer true = some k →
    Answers (.probeTimer peer) s fun d =>
      d.peer peer = { s.dev.peer peer with probe := some ((s.dev.peer peer).probe.getD s.time.toNat), probed := s.time.toNat } ∧
      (∃ q, d.out = s.dev.out ++ [.klp k q] ∧ q.type = tProbe ∧ q.dst = peer ∧ q.data = s.dev.incarnationBytes 0) ∧
      d = { s.dev with fab := d.fab, out := d.out })

/-- Logical ports (R386-R388, R395-R397, R406, R409): links go down and come up, neighbours are learnt, frames are sent when due, priorities
are paused, bad frames are counted, a new breakout takes its port down. -/
def Claims.LogicalPorts : Prop :=
  (∀ (l : Nat) (s : State), l < 192 → s.dev.linkUp l = true →
    Answers (.linkDown l) s fun d =>
      d.get (LP_STATUS.LINK_UP l) = 0 ∧ (∀ k, k < 192 → k ≠ l → d.get (LP_STATUS.LINK_UP k) = s.dev.get (LP_STATUS.LINK_UP k)) ∧
      d.fab = s.dev.fab ∧ d.mem = s.dev.mem ∧ d.core = s.dev.core ∧ d.ses = s.dev.ses) ∧
  (∀ (l : Nat) (s : State), l < 192 → s.dev.linkUp l = false → s.dev.portExists l = true → s.dev.get (LP_CFG.ENABLE l) = 1 →
    s.dev.mgmt.portHeld.look l = false →
    Answers (.linkUp l) s fun d =>
      d.get (LP_STATUS.LINK_UP l) = 1 ∧ (∀ k, k < 192 → k ≠ l → d.get (LP_STATUS.LINK_UP k) = s.dev.get (LP_STATUS.LINK_UP k)) ∧
      d.fab.lldpAt.look l = 0 ∧ d.mem = s.dev.mem ∧ d.core = s.dev.core ∧ d.ses = s.dev.ses) ∧
  (∀ (l : Nat) (m : HelloMsg) (s : State), l < 192 → s.dev.linkUp l = true → s.dev.get (LP_CFG.ENABLE l) = 1 →
    s.dev.get (LP_CFG.DIRECT l) = 0 →
    (m.id ≠ s.dev.fabId → m.id ≠ 0 → s.dev.paired = false → s.dev.peerDead m.id = false → (s.dev.peer m.id).joined = true →
      Answers (.hello l m) s fun d =>
        d.get (LP_STATUS.NBR_KIND l) = 1 ∧ d.get (LP_STATUS.NBR_ID l) = m.id % 2 ^ (LP_STATUS.NBR_ID l).w ∧ d = { s.dev with regs := d.regs }) ∧
    (m.id = s.dev.fabId → m.id ≠ 0 → m.serial ≠ s.chip.serial → s.dev.get (LP_STATUS.ID_CONFLICT l) = 0 →
      Answers (.hello l m) s fun d =>
        d.get (LP_STATUS.ID_CONFLICT l) = 1 ∧ d.klpOn l = false ∧ d.fab = s.dev.fab ∧ d.mem = s.dev.mem ∧ d.core = s.dev.core ∧
        d.ses = s.dev.ses)) ∧
  (∀ (l id : Nat) (m : LldpMsg) (s : State), l < 192 → s.dev.linkUp l = true → s.dev.get (LP_CFG.ENABLE l) = 1 → m.fabricId = some id →
    Answers (.lldpReceive l m) s fun d =>
      d.get (LP_STATUS.NBR_KIND l) = 1 ∧ d.get (LP_STATUS.NBR_ID l) = id % 2 ^ (LP_STATUS.NBR_ID l).w ∧
      d.get (LP_NEIGHBOUR.CHASSIS l 0) = leOf (m.chassis.take 8) ∧ d.get (LP_NEIGHBOUR.PORT l 1) = leOf (m.portId.take 8) ∧
      d = { s.dev with regs := d.regs }) ∧
  (∀ (l : Nat) (s : State), l < 192 → s.dev.linkUp l = true → s.dev.get (LP_CFG.ENABLE l) = 1 →
    (frameDue (s.dev.fab.lldpAt.look l) 30000000000 s.time.toNat = true → Answers (.lldpTransmit l) s fun d =>
      d.out = s.dev.out ++ [.lldp l] ∧ d.fab = { s.dev.fab with lldpAt := s.dev.fab.lldpAt.put l (s.time.toNat + 1) } ∧
      d = { s.dev with fab := d.fab, out := d.out }) ∧
    (frameDue (s.dev.fab.helloAt.look l) 100000 s.time.toNat = true → Answers (.helloTransmit l) s fun d =>
      d.out = s.dev.out ++ [.hello l ⟨s.dev.fabId, s.chip.serial, s.dev.mgmt.incarnation, l, s.dev.get (LP_MAC.MAC l)⟩] ∧
      d.fab = { s.dev.fab with helloAt := s.dev.fab.helloAt.put l (s.time.toNat + 1) } ∧ d = { s.dev with fab := d.fab, out := d.out })) ∧
  (∀ (l : Nat) (prios : BitVec 8) (s : State), l < 192 → s.dev.linkUp l = true → s.dev.get (LP_CFG.PFC_EN l) = 1 →
    Answers (.pfcFrame l prios true) s fun d =>
      d.fab.paused.look l = s.dev.fab.paused.look l ||| prios ∧ (∀ k, k ≠ l → d.fab.paused.look k = s.dev.fab.paused.look k) ∧
      d = { s.dev with fab := d.fab }) ∧
  (∀ (l : Nat) (s : State), l < 192 → s.dev.linkUp l = true →
    (Answers (.malformedPacket l .malformed) s fun d =>
      d.get FAB_STATS.MALFORMED = satAdd FAB_STATS.MALFORMED.w (s.dev.get FAB_STATS.MALFORMED) 1 ∧ d = { s.dev with regs := d.regs }) ∧
    (Answers (.malformedPacket l .fcs) s fun d =>
      d.get (LP_ERRS.FCS l) = satAdd (LP_ERRS.FCS l).w (s.dev.get (LP_ERRS.FCS l)) 1 ∧ d = { s.dev with regs := d.regs }) ∧
    (Answers (.malformedPacket l .fecErrored) s fun d =>
      d.get (LP_FEC.UNCORRECTABLE l) = satAdd 32 (s.dev.get (LP_FEC.UNCORRECTABLE l)) 1 ∧
      d.get (LP_ERRS.FCS l) = satAdd (LP_ERRS.FCS l).w (s.dev.get (LP_ERRS.FCS l)) 1 ∧
      d.mgmt = { s.dev.mgmt with fecAt := d.mgmt.fecAt } ∧ d = { s.dev with regs := d.regs, mgmt := d.mgmt })) ∧
  (∀ (q p : Nat) (v : DWord) (s : State), p < 48 →
    Answers (.breakoutChange (.queue q) p v) s fun d =>
      d.reg (PHY_CFG.off p) = bits v.toNat 0 3 ∧
      (bits v.toNat 0 2 ≠ s.dev.get (PHY_CFG.BREAKOUT p) → ∀ k, k < 4 → d.linkUp (4 * p + k) = false) ∧
      (∀ k, k < 192 → k / 4 ≠ p → d.linkUp k = s.dev.linkUp k) ∧ d.fab = s.dev.fab ∧ d.mem = s.dev.mem ∧ d.core = s.dev.core ∧
      d.ses = s.dev.ses)

/-- Collectives (R413-R416, R419): a contribution in good order is reduced once into its chunk and counted; the last one of a round ends
the round; a round's contributions leave once TRIGSEM is reached; arming checks the record; disarming stops the context. -/
def Obligations.Collectives : Prop :=
  (∀ (l : Nat) (p : Packet) (s : State) (g : Agent) (c fmt k n size core o : Nat) (x : Coll) (r : CollRec) (old : List Byte × Bool),
    s.dev.Takes l p tColl → p.fits 1 8192 = true → p.subop = 0 → s.dev.tagAgent p = some g → c = bits p.exth 0 8 → fmt = bits p.exth 16 2 →
    k = bits p.exth 64 32 → x = s.dev.coll c → r = x.record' → size = collSize r.dfmt → n = r.chunkLen k →
    old = s.dev.collBytes r.dest k size n → x.armed = true → r.recv = true → s.dev.get (COLL_STATUS.STOP c) = 0 → (r.dfmt = 1 → fmt = 1) →
    k < r.chunks → p.length = n * collSize fmt → bits p.exth 8 8 = x.round % 256 → x.counts.look k < r.expected →
    s.dev.reachFault g (r.dest + 2048 * k * size) (n * size) true = 0 → s.dev.placeLocal (r.dest + 2048 * k * size) = .sp core o →
    r.dest + 2048 * k * size = spAddr core o → core < 128 → o + n * size ≤ spSize → s.dev.placeSwitches (.sp core o) = false → s.dev.mem.upsets = [] →
    Memory.wf s.dev.mem.cells = true →
    (x.counts.look k + 1 < r.expected → Answers (.coll l p) s fun d =>
      d.spRead core o (n * size) =
        ((elemsOf size n old.1).zip (elemsOf (collSize fmt) n p.data)).flatMap (fun v => leBytes size (collElem r.op r.dfmt fmt v.1 v.2)) ∧
      (∀ a, ¬ (spAddr core o ≤ a ∧ a < spAddr core o + n * size) → readByte d.mem.cells a = readByte s.dev.mem.cells a) ∧
      d.coll c = { x with counts := x.counts.put k (x.counts.look k + 1) } ∧ (∀ i, i ≠ c → d.coll i = s.dev.coll i) ∧
      (d.rflow p.src).opened.contains p.psn = false ∧ d.core = s.dev.core ∧ d.ses = s.dev.ses) ∧
    (x.counts.look k + 1 = r.expected → r.chunks = 1 → r.send = false → r.fwd = false → r.stream = false → r.doneSem = 0 →
      x.disarming = false → s.dev.collPending c = false → Answers (.coll l p) s fun d =>
      d.coll c = { x with round := x.round + 1, sentRound := none, counts := [], doneChunks := [] } ∧
      d.get (COLL_STATUS.ROUND c) = (x.round + 1) % 2 ^ (COLL_STATUS.ROUND c).w ∧ (∀ i, i ≠ c → d.coll i = s.dev.coll i) ∧
      (∀ a, ¬ (spAddr core o ≤ a ∧ a < spAddr core o + n * size) → readByte d.mem.cells a = readByte s.dev.mem.cells a) ∧
      (d.rflow p.src).opened.contains p.psn = false ∧ d.core = s.dev.core ∧ d.ses = s.dev.ses)) ∧
  (∀ (c a : Nat) (s : State) (d0 : Dev) (x : Coll) (r : CollRec), c < 256 → x = s.dev.coll c → r = x.record' → x.armed = true → x.disarming = false →
    s.dev.get (COLL_STATUS.STOP c) = 0 → r.send = true → x.sentRound ≠ some x.round → s.dev.place r.trigSem = .ses a →
    (x.round + 1) * r.trigStep ≤ s.dev.sesVal a → r.chunks = 1 → s.dev.routed r.tgtId = true → r.tgtId ≠ s.dev.fabId →
    s.dev.peerDead r.tgtId = false → s.dev.placeSwitches (s.dev.placeLocal r.src) = false →
    d0 = s.dev.collTake ⟨s.time.toNat, s.chip⟩ r r.src 0 (collSize r.sfmt) 1 → d0.collRepairs r r.src 0 (collSize r.sfmt) = false →
    Answers (.collRoundSend c) s fun d =>
      d.coll c = { x with sentRound := some x.round } ∧
      (∃ q ∈ (d.flow r.tgtId).pkts, q.owner = .coll c ∧ q.pkt.type = tColl ∧ q.pkt.dst = r.tgtId ∧
        q.pkt.exth = r.tgtCtx + x.round % 256 * 2 ^ 8 + r.sfmt * 2 ^ 16 ∧ q.pkt.tenant = s.dev.tagOf (r.part == 31) r.part ∧
        q.pkt.data = (d0.collBytes r.src 0 (collSize r.sfmt) (r.chunkLen 0)).1 ∧
        q.pkt.status = b2n (d0.collBytes r.src 0 (collSize r.sfmt) (r.chunkLen 0)).2) ∧
      (∀ i, i ≠ c → d.coll i = s.dev.coll i) ∧ d.mem = d0.mem ∧ d.core = d0.core ∧ d.ses = d0.ses) ∧
  (∀ (q c : Nat) (v : DWord) (s : State) (d0 : Dev) (bs : List Byte), c = bits v.toNat 0 8 → bit v.toNat 8 = false →
    d0 = s.dev.takeHome ⟨s.time.toNat, s.chip⟩ (s.dev.get FAB_COLL_BASE.BASE * 4096 + 64 * c) 64 31 1 →
    d0.homeBytes (s.dev.get FAB_COLL_BASE.BASE * 4096 + 64 * c) 64 = some (bs, false) →
    (d0.collOk bs = true → Answers (.collArm (.queue q) v) s fun d =>
      (d.coll c).armed = true ∧ (d.coll c).round = 0 ∧ (d.coll c).record = bs ∧ (d.coll c).counts = [] ∧ (d.coll c).disarming = false ∧
      d.get (COLL_STATUS.ARM_RESULT c) = 0 ∧ d.get (COLL_STATUS.STOP c) = 0 ∧ d.get (COLL_STATUS.ROUND c) = 0 ∧
      (∀ i, i ≠ c → d.coll i = d0.coll i) ∧ d = { d0 with regs := d.regs, written := d.written, fab := d.fab }) ∧
    (d0.collOk bs = false → Answers (.collArm (.queue q) v) s fun d =>
      d.get (COLL_STATUS.ARM_RESULT c) = 1 ∧ d = { d0 with regs := d.regs, written := d.written })) ∧
  (∀ (q c : Nat) (v : DWord) (s : State), c = bits v.toNat 0 8 → bit v.toNat 8 = true → (s.dev.coll c).armed = true →
    (s.dev.collPending c = false → Answers (.collDisarm (.queue q) v) s fun d =>
      d.coll c = { s.dev.coll c with armed := false, disarming := false } ∧ (∀ i, i ≠ c → d.coll i = s.dev.coll i) ∧
      d = { s.dev with written := d.written, fab := d.fab }) ∧
    (s.dev.collPending c = true → Answers (.collDisarm (.queue q) v) s fun d =>
      d.coll c = { s.dev.coll c with disarming := true } ∧ (∀ i, i ≠ c → d.coll i = s.dev.coll i) ∧
      d = { s.dev with written := d.written, fab := d.fab }))

/-- The routing table (R398): ROUTE_ENTRY_WRITE takes the data registers into the entry it names and leaves every other entry;
ROUTE_ENTRY_READ puts the entry into them. -/
def Claims.RoutingTable : Prop :=
  (∀ (q i : Nat) (v : DWord) (s : State), i = bits v.toNat 0 16 → bit v.toNat 16 = true → Sparse.sorted s.dev.fab.route = true →
    Answers (.routeEntryWrite (.queue q) v) s fun d =>
      d.routeOf i = (BitVec.ofNat 64 (bits (s.dev.get (FAB_RT_DATA.DATA 0)) 0 22), BitVec.ofNat 64 (s.dev.get (FAB_RT_DATA.DATA 1))) ∧
      (∀ j, j < 65536 → j ≠ i → d.routeOf j = s.dev.routeOf j) ∧ d.regs = s.dev.regs ∧ d.mem = s.dev.mem ∧ d.core = s.dev.core ∧
      d.ses = s.dev.ses) ∧
  (∀ (q i : Nat) (v : DWord) (s : State), i = bits v.toNat 0 16 → bit v.toNat 16 = false →
    Answers (.routeEntryRead (.queue q) v) s fun d =>
      d.get (FAB_RT_DATA.DATA 0) = (s.dev.routeOf i).1.toNat ∧ d.get (FAB_RT_DATA.DATA 1) = (s.dev.routeOf i).2.toNat ∧
      d = { s.dev with regs := d.regs, written := d.written })

/-- A mirror item of the buddy reaches the device on a pairing port, in good order. -/
def Claims.MirrorComes (d : Dev) (l : Nat) (p : Packet) : Prop :=
  d.Takes l p tMirror ∧ p.fits 16 8192 = true ∧ p.subop = 0 ∧ d.paired = true ∧ p.src = d.buddyId ∧ d.mgmt.cfg.buddyPorts.contains l = true ∧
    (mirrorOf p).fits = true ∧ d.get FAB_BUDDY.BUDDY_STATE = bits (mirrorOf p).state 0 2

/-- Buddy pairing (R421-R424): an item of the buddy is held, a newer one over an older; a request for the mirror is answered, and refused
where nothing fragile is held; the answer starts a transfer or a cold boot; a full resend ends in END; RECOVERY gives the own state; what
has changed is sent while either side is fragile. What the manual leaves open here is as log entry 45 says. -/
def Obligations.BuddyPairing : Prop :=
  (∀ (l i : Nat) (p : Packet) (s : State) (m : MirrorItem) (b : Buddy), Claims.MirrorComes s.dev l p → m = mirrorOf p → b = s.dev.fab.buddy →
    b.resume ≠ 1 → b.resume ≠ 2 → m.kind = 5 → m.count = 1 → m.incarnation = b.held.incarnation →
    i = bits (beOf ((m.entry 0).take 4)) 0 16 → b.held.iseqs.look (5 * 65536 + i) < m.iseq →
    Answers (.mirror l p) s fun d =>
      d.fab.buddy.held.sems.look i = BitVec.ofNat 64 (beOf ((m.entry 0).drop 8)) ∧
      (∀ j, j ≠ i → d.fab.buddy.held.sems.look j = b.held.sems.look j) ∧ d.fab.buddy.held.queues = b.held.queues ∧
      d.fab.buddy.fragileHeld = (bits m.state 0 2 != 0) ∧ d.get FAB_BUDDY.MIRROR_HELD = b2n (bits m.state 0 2 != 0) ∧
      (d.rflow p.src).opened.contains p.psn = false ∧ d.mem = s.dev.mem ∧ d.core = s.dev.core ∧ d.ses = s.dev.ses) ∧
  (∀ (l : Nat) (p : Packet) (s : State) (b : Buddy) (x : List Byte), Claims.MirrorComes s.dev l p → (mirrorOf p).kind = 6 →
    (mirrorOf p).count = 1 → b = s.dev.fab.buddy → x = (mirrorOf p).entry 0 →
    (b.fragileHeld = false → Answers (.resumeReq l p) s fun d =>
      (∃ q ∈ (d.flow p.src).pkts, q.pkt.type = tMirror ∧ q.pkt.data.take 1 = beBytes 1 7 ∧ q.pkt.data.drop 16 = beBytes 8 1) ∧
      d.fab.buddy.held = b.held ∧ d.mem = s.dev.mem ∧ d.core = s.dev.core ∧ d.ses = s.dev.ses) ∧
    (b.fragileHeld = true → beOf (x.take 8) = b.peerSerial → x.drop 8 = b.held.digest → Answers (.resumeReq l p) s fun d =>
      (∃ q ∈ (d.flow p.src).pkts, q.pkt.type = tMirror ∧ q.pkt.data.take 1 = beBytes 1 7 ∧
        q.pkt.data.drop 16 = beBytes 8 ((b.held.items.length + 1) * 2 ^ 32)) ∧
      (∀ i ∈ b.held.items, ∃ q ∈ (d.flow p.src).pkts, q.pkt.type = tMirror ∧ q.pkt.data.take 1 = beBytes 1 i.1 ∧
        q.pkt.data.drop 16 = i.2.2) ∧
      (∃ q ∈ (d.flow p.src).pkts, q.pkt.type = tMirror ∧ q.pkt.data.take 1 = beBytes 1 8 ∧ q.pkt.data.drop 16 = []) ∧
      d.fab.buddy.held = b.held ∧ d.mem = s.dev.mem ∧ d.core = s.dev.core ∧ d.ses = s.dev.ses)) ∧
  (∀ (l v : Nat) (p : Packet) (s : State) (b : Buddy), Claims.MirrorComes s.dev l p → (mirrorOf p).kind = 7 → (mirrorOf p).count = 1 →
    b = s.dev.fab.buddy → b.resume = 1 → v = beOf ((mirrorOf p).entry 0) →
    (bits v 0 8 = 0 → b.resumeEnd = false → Answers (.resumeResp l p) s fun d =>
      d.fab.buddy = { b with resume := 2, resumeWant := some (bits v 32 32) } ∧ d.fe = s.dev.fe ∧ d.mem = s.dev.mem ∧ d.core = s.dev.core ∧
      d.ses = s.dev.ses) ∧
    (bits v 0 8 ≠ 0 → Answers (.resumeResp l p) s fun d =>
      d.fab.buddy = { b with resume := 4, incoming := default } ∧ d.fe = s.dev.fe ∧ d.mem = s.dev.mem ∧ d.core = s.dev.core ∧
      d.ses = s.dev.ses)) ∧
  (∀ (l : Nat) (p : Packet) (s : State), Claims.MirrorComes s.dev l p → (mirrorOf p).kind = 9 →
    Answers (.resendReq l p) s fun d =>
      (∃ q ∈ (d.flow p.src).pkts, q.pkt.type = tMirror ∧ q.pkt.data.take 1 = beBytes 1 1 ∧ q.pkt.data.drop 16 = s.dev.digestBytes) ∧
      (∃ q ∈ (d.flow p.src).pkts, q.pkt.type = tMirror ∧ q.pkt.data.take 1 = beBytes 1 8 ∧ q.pkt.data.drop 16 = []) ∧
      d.fab.buddy.sentDigest = true ∧ (∀ i ∈ s.dev.mirroredSems, (d.fab.buddy.sentSems.look i).toNat = s.dev.sesVal (sesAddr (.sem i)) % 2 ^ 64) ∧
      d.mem = s.dev.mem ∧ d.core = s.dev.core ∧ d.ses = s.dev.ses) ∧
  (∀ (q : Nat) (v : DWord) (s : State),
    Answers (.buddyRecovery (.queue q) v) s fun d =>
      d.get FAB_BUDDY.RECOVERY = bits v.toNat 20 1 ∧
      d.get FAB_BUDDY.OWN_STATE = (if s.dev.fab.buddy.start then 1 else if bit v.toNat 20 then 3
        else if s.dev.fab.buddy.tests ≠ 0 ∨ s.dev.get MGMT_MAINT.ACTIVE = 1 then 2 else 0) ∧
      d.get FAB_BUDDY.BUDDY_STATE = s.dev.get FAB_BUDDY.BUDDY_STATE ∧ d.get FAB_BUDDY.MIRROR_HELD = s.dev.get FAB_BUDDY.MIRROR_HELD ∧
      d.fab = s.dev.fab ∧ d.mem = s.dev.mem ∧ d.core = s.dev.core ∧ d.ses = s.dev.ses) ∧
  (∀ (s : State), s.dev.mirrorsAll = true → s.dev.peerDead s.dev.buddyId = false → s.dev.klpEnabled = true →
    Answers .mirrorBatch s fun d =>
      (∀ q, q < 4096 → (d.fab.buddy.sentQueues.look q).toNat = s.dev.queueEntry q - q) ∧
      (∀ q, q < 4096 → (s.dev.fab.buddy.sentQueues.look q).toNat ≠ s.dev.queueEntry q - q →
        ∃ x ∈ (d.flow s.dev.buddyId).pkts, x.pkt.type = tMirror ∧ x.pkt.data.take 1 = beBytes 1 3) ∧
      d.mem = s.dev.mem ∧ d.core = s.dev.core ∧ d.ses = s.dev.ses ∧ d.regs = s.dev.regs)

/-- Precision time (R426): the first message locks the port, the next may step the counter forward once where it lags by more than 1 ms,
every later one leaves the difference to be slewed; every second the state is posted. The counter is never set back. -/
def Claims.PrecisionTime : Prop :=
  (∀ (l : Nat) (z : Int) (s : State) (f : FabSys), s.dev.ptpActive = some l → f = s.dev.fab →
    ∃ t, exec (.ptpMessage l z) s = .next t ∧ t.acorn = s.acorn ∧ t.chip = s.chip ∧ t.pending = s.pending ∧ t.dev = { s.dev with fab := t.dev.fab } ∧
      (f.ptpState = 0 ∨ f.ptpPort ≠ some l →
        t.dev.fab = { f with ptpState := 1, ptpPort := some l, ptpOffset := z, ptpSlew := 0 } ∧ t.time = s.time) ∧
      (f.ptpState = 1 → f.ptpPort = some l → z < -1000000 →
        t.dev.fab = { f with ptpState := 2, ptpOffset := 0, ptpSlew := 0 } ∧ t.time = s.time + BitVec.ofInt 64 (-z)) ∧
      (f.ptpState ≠ 0 → f.ptpPort = some l → f.ptpState ≠ 1 ∨ -1000000 ≤ z →
        t.dev.fab = { f with ptpState := 2, ptpOffset := z, ptpSlew := -z } ∧ t.time = s.time)) ∧
  (∀ (s : State), s.dev.fab.ptpStateAt + 1000000000 ≤ s.time.toNat →
    Answers .ptpStateTimer s fun d =>
      d.fab = { s.dev.fab with ptpState := if s.dev.ptpActive = none then 0 else s.dev.fab.ptpState, ptpStateAt := s.time.toNat } ∧
      (∃ w ∈ (d.fifo 34).words, bits w.data.toNat 0 8 = 0x76) ∧ d.mem = s.dev.mem ∧ d.core = s.dev.core ∧ d.ses = s.dev.ses)

/-! The host. -/

/-- Ownership (R436): a claim by a physical function is granted where no port owns control and refused where the other does; a release by
the owner frees it. -/
def Claims.Ownership : Prop :=
  (∀ (f n : Nat) (v : DWord) (s : State), f < 32 → n = portOf f → isPF f = true → s.dev.mgmt.power = true → bit v.toNat 2 = true →
    bit v.toNat 3 = false →
    (s.dev.get GLOBAL_OWNER.OWNER = 3 → ∀ b, Answers (.claim f v b) s fun d =>
      d.get GLOBAL_OWNER.OWNER = n ∧ d.get (ownResult n) = 0 ∧ d.get (ownResult (1 - n)) = s.dev.get (ownResult (1 - n)) ∧
      d.get GLOBAL_OWNER.SEQ = (s.dev.get GLOBAL_OWNER.SEQ + 1) % 2 ^ 16 ∧ d = { s.dev with regs := d.regs, written := d.written }) ∧
    (s.dev.get GLOBAL_OWNER.OWNER = 1 - n → Answers (.claim f v false) s fun d =>
      d.get GLOBAL_OWNER.OWNER = 1 - n ∧ d.get (ownResult n) = 2 ∧ d.get GLOBAL_OWNER.SEQ = s.dev.get GLOBAL_OWNER.SEQ ∧
      d = { s.dev with regs := d.regs, written := d.written })) ∧
  (∀ (f n : Nat) (v : DWord) (s : State), f < 32 → n = portOf f → isPF f = true → s.dev.mgmt.power = true → bit v.toNat 2 = false →
    bit v.toNat 3 = true → s.dev.get GLOBAL_OWNER.OWNER = n →
    Answers (.release f v) s fun d =>
      d.get GLOBAL_OWNER.OWNER = 3 ∧ d.get (ownResult n) = 4 ∧ d.get GLOBAL_OWNER.SEQ = (s.dev.get GLOBAL_OWNER.SEQ + 1) % 2 ^ 16 ∧
      d = { s.dev with regs := d.regs, written := d.written })

/-- Bindings (R438): the control owner binds a function to a partition; a partition that another function serves is refused. -/
def Claims.Bindings : Prop :=
  ∀ (f0 f p : Nat) (v : DWord) (s : State), f0 < 32 → f < 32 → s.dev.isOwner f0 = true → s.dev.mgmt.power = true → p = bits v.toNat 0 5 →
    Answers (.hostFuncBind (.host f0) f v) s fun d =>
      (s.dev.bindTaken f p = false → d.get (HOST_FUNC.PART f) = p) ∧
      (s.dev.bindTaken f p = true → d.get (HOST_FUNC.PART f) = s.dev.get (HOST_FUNC.PART f) ∧ d.get (HOST_FUNC.BIND_REFUSED f) = 1) ∧
      d.get (HOST_FUNC.BAR4_BASE f) = (if f0 = f then bits v.toNat 30 34 else s.dev.get (HOST_FUNC.BAR4_BASE f)) ∧
      (∀ k, k < 32 → k ≠ f → d.reg (HOST_FUNC.off k) = s.dev.reg (HOST_FUNC.off k)) ∧
      d = { s.dev with regs := d.regs, written := d.written }

/-- No function of a port is bound to a partition, no queue of theirs is in use, and nothing is under way in the port's window. -/
def Claims.portQuiet (d : Dev) (n : Nat) : Prop :=
  (∀ f, portOf f = n → 16 ≤ d.get (HOST_FUNC.PART f) ∧ d.flrQueues f (d.get (HOST_FUNC.PART f)) = []) ∧
  (∀ w ∈ d.mem.hostq, w.port ≠ n) ∧ (∀ x ∈ d.core.groups, ∀ a ∈ x.2.accs, ∀ h ∈ a.host, h.2 ≠ n) ∧
  ∀ k, (d.eng k).st ≠ .moving

/-- What a reset of a port leaves: no link, no ownership, CRS in force, its configuration space as at reset. -/
def Claims.portLeft (s : State) (n : Nat) (d : Dev) : Prop :=
  d.get (HOST_PORT.LINK_UP n) = 0 ∧ d.get (HOST_PORT.LINK_UP (1 - n)) = s.dev.get (HOST_PORT.LINK_UP (1 - n)) ∧
  d.get GLOBAL_OWNER.OWNER = (if s.dev.get GLOBAL_OWNER.OWNER = n then 3 else s.dev.get GLOBAL_OWNER.OWNER) ∧
  d.host.crs.look n = true ∧ d.host.crsAt.look n = s.time.toNat ∧ d.host.crs.look (1 - n) = s.dev.host.crs.look (1 - n) ∧
  (∀ x ∈ d.host.cfg, ¬ (n * 16 * 1024 ≤ x.1 ∧ x.1 < (n + 1) * 16 * 1024)) ∧
  (∀ f v, portOf f = n → v < 2048 → d.msixMasked f v = true) ∧
  d.mem = s.dev.mem ∧ d.core = s.dev.core ∧ d.ses = s.dev.ses ∧ d.fe = s.dev.fe

/-- Resets and links of a port (R429, R436, R439-R441): a function-level reset clears the function's MSI-X state and its FIFO and leaves
its record; a port reset and the loss of the link take ownership away and bring CRS; training sets rate and width; PERST# that is
deasserted begins the CRS window. What the manual leaves open here is as log entry 43 says. -/
def Obligations.HostResets : Prop :=
  (∀ (f : Nat) (s : State), f < 32 → isPF f = false → s.dev.mgmt.power = true →
    Answers (.flr f) s fun d =>
      d.fifo f = Evq.empty ∧ d.reg (EVQ_CTL.off f) = 0 ∧ (∀ v, v < 2048 → d.msixMasked f v = true) ∧
      (∀ j, j < 32 → d.host.pba.look (f * 32 + j) = 0) ∧ bits (d.reg (HOST_RESET_LAST.off f)) 0 5 = f ∧
      bits (d.reg (HOST_RESET_LAST.off f)) 5 5 = s.dev.get (HOST_FUNC.PART f) ∧
      (16 ≤ s.dev.get (HOST_FUNC.PART f) → s.dev.flrQueues f (s.dev.get (HOST_FUNC.PART f)) = [] →
        d = { s.dev with regs := d.regs, evq := d.evq, host := d.host, out := d.out })) ∧
  (∀ (n : Nat) (perst : Bool) (s : State), n < 2 → s.dev.mgmt.power = true → Claims.portQuiet s.dev n →
    Answers (.portReset n perst) s fun d =>
      Claims.portLeft s n d ∧ d.host.perst.look n = (perst || s.dev.host.perst.look n)) ∧
  (∀ (n : Nat) (s : State), n < 2 → s.dev.mgmt.power = true → s.dev.get (HOST_PORT.LINK_UP n) = 1 → Claims.portQuiet s.dev n →
    Answers (.pcieLinkDown n) s fun d => Claims.portLeft s n d) ∧
  (∀ (n rate width : Nat) (s : State), n < 2 → s.dev.mgmt.power = true → s.dev.host.perst.look n = false →
    s.dev.get (HOST_PORT.LINK_UP n) = 0 → 1 ≤ rate → rate ≤ 3 → width ≤ 2 →
    Answers (.pcieLinkUp n rate width) s fun d =>
      d.get (HOST_PORT.LINK_UP n) = 1 ∧ d.get (HOST_PORT.RATE n) = rate ∧ d.get (HOST_PORT.WIDTH n) = width ∧
      d.get (HOST_PORT.LINK_UP (1 - n)) = s.dev.get (HOST_PORT.LINK_UP (1 - n)) ∧ d.host.crsAt.look n = s.time.toNat ∧
      d.mem = s.dev.mem ∧ d.core = s.dev.core ∧ d.ses = s.dev.ses ∧ d.fe = s.dev.fe) ∧
  (∀ (n : Nat) (s : State), n < 2 → s.dev.host.perst.look n = true →
    Answers (.perstDeassertion n) s fun d =>
      d.host.perst.look n = false ∧ d.host.crs.look n = true ∧ d.host.crsAt.look n = s.time.toNat ∧
      d.host.perst.look (1 - n) = s.dev.host.perst.look (1 - n) ∧ d = { s.dev with host := d.host })

/-- Configuration requests (R430, R441): while the boot holds CRS a request is answered with it; after that the Device ID and the Revision
ID read as R430 says and a write completes. What the manual leaves open here is as log entry 77 says. -/
def Claims.ConfigRequests : Prop :=
  ∀ (f reg : Nat) (s : State), f < 32 → reg < 1024 → s.dev.mgmt.power = true → s.dev.host.perst.look (portOf f) = false →
    (s.dev.host.crs.look (portOf f) = true → 1 ≤ s.dev.mgmt.bootStep → s.dev.mgmt.bootStep ≤ 4 →
      ∀ v, Answers (.configRequest f reg v) s fun d =>
        d = { s.dev with out := s.dev.out ++ [if reg = 0 ∧ v = none then .crsVendor f else .crs f] }) ∧
    (s.dev.host.crs.look (portOf f) = false → isPF f = true ∨ s.dev.get GLOBAL_STATUS.RECOVERY = 0 →
      (reg = 0 → Answers (.configRequest f reg none) s fun d =>
        (∃ v : DWord, d.out = s.dev.out ++ [.value f v] ∧ bits v.toNat 16 16 =
          (if isPF f then (if s.dev.get GLOBAL_STATUS.RECOVERY = 1 then 0xD81F else 0xD810) else 0xD811)) ∧
        d = { s.dev with out := d.out, host := d.host }) ∧
      (reg = 2 → Answers (.configRequest f reg none) s fun d =>
        (∃ v : DWord, d.out = s.dev.out ++ [.value f v] ∧ bits v.toNat 0 8 = 0x10) ∧ d = { s.dev with out := d.out, host := d.host }) ∧
      (∀ w : Word, Answers (.configRequest f reg (some w)) s fun d =>
        d.out = s.dev.out ++ [.done f] ∧ d = { s.dev with out := d.out, host := d.host }))

/-- BAR4 (R433): a write replaces the bytes of its sector where the L2 or HBM holds it, a read answers with them, an AtomicOp answers with
the old value and stores the new; poison is answered as such; an address that is not the function's is an Unsupported Request. -/
def Claims.Bar4 : Prop :=
  ∀ (f a : Nat) (r : BarReq) (s : State), s.dev.mgmt.power = true → s.dev.hostHeld ⟨s.time.toNat, s.chip⟩ f = false →
    a = s.dev.get (HOST_FUNC.BAR4_BASE f) * 2 ^ 30 + r.off → 1 ≤ r.size → r.size ≤ 8 →
    (s.dev.bar4Ok f a = false → ∀ op, Answers (.bar4Access f r op) s fun d => d = { s.dev with out := s.dev.out ++ [.ur f] }) ∧
    (s.dev.bar4Ok f a = true → s.dev.bar4Ok f (a + r.size - 1) = true → a % 32 + r.size ≤ 32 →
      s.dev.l2HasRoom (a / 32) (s.dev.get (HOST_FUNC.PART f)) → s.dev.mem.upsets = [] → s.dev.mem.repairs = [] →
      s.dev.mem.failed.contains (a / 32) = false →
      (∀ v, r.value = some v → Answers (.bar4Access f r none) s fun d =>
        (d.homeSector (a / 32)).1 =
          mergeSector (s.dev.homeSector (a / 32)).1 (((leBytes r.size v.toNat).zipIdx).map (fun p => (a % 32 + p.2, p.1))) ∧
        (d.homeSector (a / 32)).2 = (s.dev.homeSector (a / 32)).2 ∧ (∀ k, k ≠ a / 32 → d.homeSector k = s.dev.homeSector k) ∧
        d.mem.cells = s.dev.mem.cells ∧ d.out = s.dev.out ++ [.done f] ∧ d.core = s.dev.core ∧ d.ses = s.dev.ses) ∧
      (r.value = none → Answers (.bar4Access f r none) s fun d =>
        d.out = s.dev.out ++ [if (s.dev.homeSector (a / 32)).2 then .ep f
          else .value f (BitVec.ofNat 64 (leOf (sectorBytes (s.dev.homeSector (a / 32)).1 (a % 32) r.size)))] ∧
        (∀ k, d.homeSector k = s.dev.homeSector k) ∧ d.mem.cells = s.dev.mem.cells ∧ d.core = s.dev.core ∧ d.ses = s.dev.ses) ∧
      (∀ (v x : DWord) (old : Nat), r.value = some v → r.size = 4 ∨ r.size = 8 → a % r.size = 0 → (s.dev.homeSector (a / 32)).2 = false →
        old = leOf (sectorBytes (s.dev.homeSector (a / 32)).1 (a % 32) r.size) →
        Answers (.bar4Access f r (some (.fetchAdd, x))) s fun d =>
          d.out = s.dev.out ++ [.value f (BitVec.ofNat 64 old)] ∧
          (d.homeSector (a / 32)).1 = mergeSector (s.dev.homeSector (a / 32)).1
            (((leBytes r.size (old + v.toNat)).zipIdx).map (fun p => (a % 32 + p.2, p.1))) ∧
          (∀ k, k ≠ a / 32 → d.homeSector k = s.dev.homeSector k) ∧ d.mem.cells = s.dev.mem.cells ∧ d.core = s.dev.core ∧
          d.ses = s.dev.ses))

/-- Writes of BAR0 (R29-R34, R437): the control owner's write of a device-wide register stores its fields, of 4 bytes those of its half; a
write of another function is refused and counted; one to the METER block changes nothing of the device and is recorded by Acorn; a
malformed access is an Unsupported Request. What the manual leaves open here is as log entry 20 says. -/
def Claims.RegisterWrites : Prop :=
  ∀ (f : Nat) (v : DWord) (s : State), s.dev.mgmt.power = true → s.dev.hostHeld ⟨s.time.toNat, s.chip⟩ f = false →
    (s.dev.get GLOBAL_STATUS.RECOVERY = 0 → s.dev.isOwner f = true →
      (Answers (.registerWrite (.host f) FAB_CC.off 8 v) s fun d =>
        d.get FAB_CC.TARGET_DELAY_US = bits v.toNat 0 8 ∧ d.get FAB_CC.AI_BYTES = bits v.toNat 8 17 ∧
        d.get FAB_CC.RTO_MIN_US = bits v.toNat 30 10 ∧ d.get FAB_CC.INIT_CWND = bits v.toNat 40 23 ∧
        (∀ off, off ≠ FAB_CC.off → d.reg off = s.dev.reg off) ∧ d.out = s.dev.out ++ [.done f] ∧ d = { s.dev with regs := d.regs, out := d.out }) ∧
      (Answers (.registerWrite (.host f) FAB_CC.off 4 v) s fun d =>
        d.get FAB_CC.TARGET_DELAY_US = bits v.toNat 0 8 ∧ d.get FAB_CC.AI_BYTES = bits v.toNat 8 17 ∧
        d.get FAB_CC.INIT_CWND = s.dev.get FAB_CC.INIT_CWND ∧
        (∀ off, off ≠ FAB_CC.off → d.reg off = s.dev.reg off) ∧ d.out = s.dev.out ++ [.done f] ∧ d = { s.dev with regs := d.regs, out := d.out })) ∧
    (s.dev.get GLOBAL_STATUS.RECOVERY = 0 → s.dev.isOwner f = false → isPF f = true →
      s.dev.reg FAB_CC.off &&& FAB_CC.row.rw ≠ v.toNat &&& FAB_CC.row.rw →
      Answers (.registerWrite (.host f) FAB_CC.off 8 v) s fun d =>
        d.reg FAB_CC.off = s.dev.reg FAB_CC.off ∧ d.get GLOBAL_OWNER.OWNER = s.dev.get GLOBAL_OWNER.OWNER ∧
        (portOf f = 0 → d.get GLOBAL_OWNER.REFUSED0 = satAdd 16 (s.dev.get GLOBAL_OWNER.REFUSED0) 1) ∧
        (portOf f = 1 → d.get GLOBAL_OWNER.REFUSED1 = satAdd 16 (s.dev.get GLOBAL_OWNER.REFUSED1) 1) ∧
        d.mem = s.dev.mem ∧ d.core = s.dev.core ∧ d.ses = s.dev.ses ∧ d.fab = s.dev.fab) ∧
    (∀ off, s.dev.get GLOBAL_STATUS.RECOVERY = 0 → 0x01C00000 ≤ off → off < 0x02000000 → off % 8 = 0 →
      ∃ t, exec (.registerWrite (.host f) off 8 v) s = .next t ∧ t.dev = { s.dev with out := s.dev.out ++ [.done f] } ∧
        t.acorn = s.acorn.attempt f off s.time.toNat ∧ t.time = s.time ∧ t.chip = s.chip ∧ t.pending = s.pending) ∧
    (∀ off size, (size ≠ 4 ∧ size ≠ 8) ∨ off % size ≠ 0 ∨ 0x4000000 ≤ off →
      Answers (.registerWrite (.host f) off size v) s fun d => d = { s.dev with out := s.dev.out ++ [.ur f] })

/-- Reads of BAR0 (R8, R29-R31): a read of a counter that a read clears gives its value and leaves 0 where the control owner reads, and
leaves it to another function; a read of the low half keeps the high half for the next read; METER reads give Acorn's clock; a reserved
offset reads 0. -/
def Claims.RegisterReads : Prop :=
  ∀ (f : Nat) (s : State), s.dev.mgmt.power = true → s.dev.hostHeld ⟨s.time.toNat, s.chip⟩ f = false → s.dev.get GLOBAL_STATUS.RECOVERY = 0 → isPF f = true →
    (Answers (.rcRead f FAB_STATS.off 8) s fun d =>
      d.out = s.dev.out ++ [.value f (BitVec.ofNat 64 (s.dev.reg FAB_STATS.off))] ∧
      d.reg FAB_STATS.off = (if s.dev.isOwner f then 0 else s.dev.reg FAB_STATS.off) ∧
      (∀ off, off ≠ FAB_STATS.off → d.reg off = s.dev.reg off) ∧ d = { s.dev with regs := d.regs, out := d.out }) ∧
    (Answers (.rcRead f FAB_STATS.off 4) s fun d =>
      d.out = s.dev.out ++ [.value f (BitVec.ofNat 64 (s.dev.reg FAB_STATS.off % 2 ^ 32))] ∧
      d.latch.look (f * 2 ^ 32 + FAB_STATS.off) = some (BitVec.ofNat 64 (s.dev.reg FAB_STATS.off / 2 ^ 32)) ∧
      d.reg FAB_STATS.off = (if s.dev.isOwner f then 0 else s.dev.reg FAB_STATS.off) ∧
      d = { s.dev with regs := d.regs, latch := d.latch, out := d.out }) ∧
    (∀ x, s.dev.latch.look (f * 2 ^ 32 + FAB_STATS.off) = some x → Answers (.rcRead f (FAB_STATS.off + 4) 4) s fun d =>
      d.out = s.dev.out ++ [.value f (BitVec.ofNat 64 x.toNat)] ∧ d.latch.look (f * 2 ^ 32 + FAB_STATS.off) = none ∧
      d = { s.dev with latch := d.latch, out := d.out }) ∧
    (Answers (.rcRead f 0x01C00048 8) s fun d =>
      d = { s.dev with out := s.dev.out ++ [.value f (BitVec.ofNat 64 s.acorn.time)] }) ∧
    (∀ off, off % 8 = 0 → off < 0x4000000 → inMeter off = false → inWindow off = false → msixAt off = none → pbaAt off = none →
      regAt off = none → Answers (.rcRead f off 8) s fun d => d = { s.dev with out := s.dev.out ++ [.value f 0] })

/-! Bassoon: power, boot, staging. -/

/-- PWRGD (R241, R456, R457, R530, R533): its rise takes the straps and begins the boot; its fall loses HBM, the L2, every register and
every record not yet written, and keeps the ledger and the memory of the hosts. -/
def Claims.PowerGood : Prop :=
  (∀ (mode : BitVec 3) (b : Bool) (s : State), s.dev.mgmt.power = false →
    Answers (.powerOn mode b) s fun d =>
      d.mgmt.power = true ∧ d.mgmt.mode = mode ∧ d.mgmt.buddyEn = b ∧ d.mgmt.bootStep = 1 ∧ d.mgmt.bootAt = s.time.toNat ∧
      d.fab.buddy.start = true ∧ d.mgmt.ledger = s.dev.mgmt.ledger ∧ d = { s.dev with mgmt := d.mgmt, fab := d.fab }) ∧
  (∀ (s : State), s.dev.mgmt.power = true →
    Answers .powerOff s fun d =>
      d.mgmt.power = false ∧ d.mgmt.bootStep = 0 ∧ (∀ off, d.reg off = (regReset off).toNat) ∧ d.mem.cells = [] ∧ d.mem.l2 = [] ∧
      d.mgmt.wait = [] ∧ d.mgmt.ledger = s.dev.mgmt.ledger ∧ d.mem.host = s.dev.mem.host ∧ d.core.groups = [] ∧ d.fe = FeSys.reset ∧
      d.host.perst = s.dev.host.perst ∧ d.out = s.dev.out)

/-- A warm reset (R241, R439, R457, R459): what the L2 holds dirty is written back, HBM keeps its bytes, the ledger its records; every
register but MGMT_BOOT and FAB_BUDDY stands at its reset value, no group, queue, flow or route is left, and the boot begins.
What the manual leaves open here is as log entry 64 says. -/
def Claims.WarmReset : Prop :=
  ∀ (q : Nat) (v : DWord) (s : State), s.dev.mgmt.power = true → bit v.toNat 0 = true → Memory.wf s.dev.mem.cells = true →
    (∀ g ∈ s.dev.mem.chanMap, g < 128) →
    Answers (.warmReset (.queue q) v) s fun d =>
      (∀ k, k * 32 < hbmEnd → (s.dev.mem.l2.look k).held = true → (s.dev.mem.l2.look k).dirty = true →
        s.dev.chanDown (s.dev.chanOf (k * 32)) = false → readBytes d.mem.cells (k * 32) 32 = sectorBytes (s.dev.mem.l2.look k).data 0 32) ∧
      (∀ k, k * 32 < hbmEnd → ((s.dev.mem.l2.look k).held && (s.dev.mem.l2.look k).dirty) = false →
        readBytes d.mem.cells (k * 32) 32 = readBytes s.dev.mem.cells (k * 32) 32) ∧
      d.mem.l2 = [] ∧ d.mem.l2q = [] ∧ d.mem.host = s.dev.mem.host ∧ d.mgmt.ledger = s.dev.mgmt.ledger ∧ d.mgmt.wait = s.dev.mgmt.wait ∧
      d.mgmt.bootStep = 1 ∧ d.mgmt.bootAt = s.time.toNat ∧ d.mgmt.cause = 1 ∧ d.core.groups = [] ∧ d.fe = FeSys.reset ∧
      d.ses = SesSys.reset ∧ d.fab.send = [] ∧ d.fab.route = [] ∧ d.reg MGMT_BOOT.off = s.dev.reg MGMT_BOOT.off ∧
      d.get FAB_BUDDY.RECOVERY = s.dev.get FAB_BUDDY.RECOVERY ∧
      (∀ off, off ≠ MGMT_BOOT.off → off ≠ FAB_BUDDY.off → d.reg off = (regReset off).toNat)

/-- The boot (R138, R219, R222, R242, R456, R464, R465, R542): step 1 shows the fuses and the straps; step 2 raises the incarnation and
applies the configuration, the factory defaults where an image fails, or leaves the recovery loader; step 3 zeroes every scratchpad and
gives every bank set to UNOWNED; step 4 builds MAP and, without a buddy, brings the device into service; step 5 waits for the resume.
What the manual leaves open here is as log entries 65 and 69 say. -/
def Obligations.BootSteps : Prop :=
  ∀ (s : State) (find : BootFind), s.dev.mgmt.power = true → s.dev.mgmt.clocksOff = false →
    (s.dev.mgmt.bootStep = 1 → Answers (.bootStepComplete find) s fun d =>
      d.get (ARRAY_MASK.ENABLED 0) = s.chip.arrays % 2 ^ 64 ∧ d.get (ARRAY_MASK.ENABLED 1) = s.chip.arrays / 2 ^ 64 % 2 ^ 64 ∧
      d.get ARRAY_INFO.ENABLED_COUNT = ((List.range 128).filter (fun c => bit s.chip.arrays c)).length ∧
      d.get ARRAY_INFO.GRADE = s.chip.grade % 16 ∧ d.get GLOBAL_STATUS.MODE = s.dev.mgmt.mode.toNat ∧
      d.get GLOBAL_STATUS.BUDDY_EN = b2n s.dev.mgmt.buddyEn ∧ d.mgmt.bootStep = 2 ∧ d = { s.dev with regs := d.regs, mgmt := d.mgmt }) ∧
    (s.dev.mgmt.bootStep = 2 → s.dev.mgmt.committing = false →
      (s.dev.mgmt.flashFw.ok = false → Answers (.bootStepComplete find) s fun d =>
        d.get GLOBAL_STATUS.RECOVERY = 1 ∧ d.get GLOBAL_STATUS.INCARNATION = (s.dev.mgmt.incarnation + 1) % 2 ^ 32 ∧
        d.mgmt.incarnation = (s.dev.mgmt.incarnation + 1) % 2 ^ 32 ∧ d.mgmt.bootStep = 0 ∧ d.mgmt.alert = true ∧
        (∃ r ∈ d.mgmt.wait, r.type = 0x02 ∧ r.payload = [BitVec.ofNat 64 s.dev.mgmt.cause]) ∧
        d.host.crs.look 0 = s.dev.host.perst.look 0 ∧ d.host.crs.look 1 = s.dev.host.perst.look 1 ∧ d.mem = s.dev.mem ∧ d.core = s.dev.core) ∧
      (∀ image reason, s.dev.mgmt.flashFw.ok = true →
        cfgMerge s.chip s.dev.mgmt.flashBase (s.dev.overlayImage s.dev.overlayNo) = .error (image, reason) →
        Answers (.bootStepComplete find) s fun d =>
          d.mgmt.cfg = Config.defaults ∧ d.get GLOBAL_STATUS.CFG_DEFAULTED = 1 ∧ d.get GLOBAL_STATUS.CFG_FAIL_IMAGE = image % 4 ∧
          d.get GLOBAL_STATUS.CFG_FAIL_REASON = reason % 16 ∧ d.get GLOBAL_STATUS.OVERLAY = s.dev.overlayNo % 16 ∧
          d.get MGMT_POWER.EFFECTIVE = Config.defaults.cap ∧ d.mgmt.incarnation = (s.dev.mgmt.incarnation + 1) % 2 ^ 32 ∧
          d.mgmt.bootStep = 3 ∧ d.mem = s.dev.mem ∧ d.core = s.dev.core) ∧
      (∀ cap a b c x y f ptp id ports mask floors n h w i3c ad vdm, s.dev.mgmt.flashFw.ok = true →
        cfgMerge s.chip s.dev.mgmt.flashBase (s.dev.overlayImage s.dev.overlayNo) =
          .ok [.power cap, .autonomy a b c x y f, .fabric [] ptp, .buddy id ports mask, .hbm floors n h w, .bus i3c ad vdm] →
        Answers (.bootStepComplete find) s fun d =>
          d.mgmt.cfg = { cap := cap, gateIdleMs := a, scanIntervalH := b, maxRetire := c, cePerS := x, retrainPerH := y, fatalAction := f,
                         buddyId := id, buddyPorts := ports, buddyMask := mask, buddyPresent := id != 0, floors := floors, retireCount := n,
                         retireHours := h, bulkWeight := w, busI3c := i3c, busAddr := ad, mctpVdm := vdm, ptpPorts := ptp } ∧
          d.get MGMT_POWER.EFFECTIVE = cap % 2 ^ 16 ∧ d.get GLOBAL_STATUS.CFG_DEFAULTED = s.dev.get GLOBAL_STATUS.CFG_DEFAULTED ∧
          d.mgmt.incarnation = (s.dev.mgmt.incarnation + 1) % 2 ^ 32 ∧ d.mgmt.bootStep = 3 ∧ d.mem = s.dev.mem ∧ d.core = s.dev.core)) ∧
    (s.dev.mgmt.bootStep = 3 → Memory.wf s.dev.mem.cells = true → Answers (.bootStepComplete find) s fun d =>
      (∀ c k, c < 128 → k < 16 → d.get (SP_OWN.OWNER c k) = 31) ∧ (∀ c o, c < 128 → o < spSize → d.spRead c o 1 = [0]) ∧
      (∀ a, a < hbmEnd → readByte d.mem.cells a = readByte s.dev.mem.cells a) ∧
      (∀ g, g < 128 → d.get (HBM_CH_STATUS.STATE g) = 1) ∧ d.mgmt.bootStep = 4) ∧
    (s.dev.mgmt.bootStep = 4 → s.dev.mgmt.mapMade = false → s.dev.mgmt.retireMap = [] → find = ⟨[], [], [], []⟩ → s.dev.mgmt.buddyEn = false →
      Answers (.bootStepComplete find) s fun d =>
        d.mem.chanMap = mapOrder [] ∧ d.get HBM_CAPACITY.CHANNELS = 128 ∧ d.get HBM_CAPACITY.CAPACITY_MIB = 128 * 5120 ∧
        (∀ g, g < 128 → d.get (HBM_CH_STATUS.STATE g) = 0) ∧ d.get GLOBAL_STATUS.READY = 1 ∧ d.mgmt.bootStep = 6 ∧
        d.fab.buddy.start = false ∧ d.host.crs.look 0 = s.dev.host.perst.look 0 ∧ d.host.crs.look 1 = s.dev.host.perst.look 1 ∧
        (∃ w ∈ (d.fifo 32).words, bits w.data.toNat 0 8 = 0x84) ∧ d.mem.cells = s.dev.mem.cells ∧ d.core = s.dev.core) ∧
    (s.dev.mgmt.bootStep = 5 → 3 ≤ s.dev.fab.buddy.resume → Answers (.bootStepComplete find) s fun d =>
      d.get GLOBAL_STATUS.READY = 1 ∧ d.mgmt.bootStep = 6 ∧ d.fab.buddy.start = false ∧ d.mem = s.dev.mem ∧ d.core = s.dev.core) ∧
    (s.dev.mgmt.bootStep = 5 → s.dev.fab.buddy.resume < 3 → s.dev.mgmt.stepAt + 300000000 ≤ s.time.toNat →
      Answers .buddyResumeTimeout s fun d =>
        d.fab = { s.dev.fab with buddy := { s.dev.fab.buddy with resume := 4, incoming := default } } ∧ d.mgmt = s.dev.mgmt ∧
        d.mem = s.dev.mem ∧ d.core = s.dev.core)

/-- Staging (R465-R467): BEGIN opens it; during recovery the window's bytes land in the staged image; COMMIT programs an image that passes
and ends one that does not; ABORT closes; a firmware image whose digest reads back is in flash, and the UPDATE record is written.
What the manual leaves open here is as log entries 63 and 66 say. -/
def Claims.Staging : Prop :=
  (∀ (q : Nat) (v : DWord) (s : State), bits v.toNat 0 2 = 1 → bits v.toNat 2 2 ≠ 3 → s.dev.mgmt.programming = none →
    Answers (.stageBegin (.queue q) v) s fun d =>
      d.mgmt = { s.dev.mgmt with stage := some ⟨bits v.toNat 2 2, bits v.toNat 4 4, bits v.toNat 8 6⟩ } ∧ d.get MGMT_STAGE_STATUS.STATE = 1 ∧
      d = { s.dev with regs := d.regs, written := d.written, mgmt := d.mgmt }) ∧
  (∀ (q : Nat) (v : DWord) (s : State), bits v.toNat 0 2 = 3 → s.dev.mgmt.programming = none →
    Answers (.stageAbort (.queue q) v) s fun d =>
      d.mgmt = { s.dev.mgmt with stage := none } ∧ d.get MGMT_STAGE_STATUS.STATE = 0 ∧
      d = { s.dev with regs := d.regs, written := d.written, mgmt := d.mgmt }) ∧
  (∀ (f off i : Nat) (data : List Byte) (st : Stage) (s : State), off + data.length ≤ 0x100000 → s.dev.isOwner f = true →
    s.dev.mgmt.stage = some st → s.dev.get GLOBAL_STATUS.RECOVERY = 1 → i = st.page * 0x100000 + off → i + data.length ≤ 0x3000000 →
    Memory.wf s.dev.mem.cells = true →
    Answers (.stageWindowWrite f off data) s fun d =>
      (∀ j, j < data.length → d.stagedByte (i + j) = data.getD j 0) ∧
      (∀ k, k < 0x3000000 → ¬ (i ≤ k ∧ k < i + data.length) → d.stagedByte k = s.dev.stagedByte k) ∧
      d = { s.dev with mem := { s.dev.mem with cells := d.mem.cells } }) ∧
  (∀ (q n : Nat) (v : DWord) (st : Stage) (s : State) (e : Env) (d0 d1 d2 : Dev), bits v.toNat 0 2 = 2 → s.dev.mgmt.programming = none →
    s.dev.mgmt.stage = some st → st.target = 0 → e = ⟨s.time.toNat, s.chip⟩ →
    d0 = (s.dev.note MGMT_STAGE_CTL.off v.toNat).mg (fun m => { m with stage := some { st with page := bits v.toNat 8 6 } }) →
    d0.stageOk 64 = true → d1 = d0.stageTake e 64 → n = Config.firmwareLength (d1.staged 64) → d2 = d1.stageTake e n →
    Answers (.stageCommit (.queue q) v) s fun d =>
      (0 < n → n ≤ 0x3000000 → d1.stageOk n = true → Config.firmwareOk (d2.staged n) = true →
        d = { d2 with
          regs := d.regs
          mgmt := { d2.mgmt with programming := some (0, st.index, d2.staged n), committing := true } } ∧
        d.get MGMT_STAGE_STATUS.STATE = 3 ∧ d.get MGMT_STAGE_STATUS.BYTES = n) ∧
      (0 < n → n ≤ 0x3000000 → d1.stageOk n = true → Config.firmwareOk (d2.staged n) = false →
        d = { d2 with regs := d.regs, mgmt := { d2.mgmt with stage := none } } ∧
        d.get MGMT_STAGE_STATUS.STATE = 0 ∧ d.get MGMT_STAGE_STATUS.RESULT = 1) ∧
      (n = 0 ∨ 0x3000000 < n → d = { d1 with regs := d.regs, mgmt := { d1.mgmt with stage := none } } ∧
        d.get MGMT_STAGE_STATUS.STATE = 0 ∧ d.get MGMT_STAGE_STATUS.RESULT = 2)) ∧
  (∀ (index : Nat) (bs : List Byte) (s : State), s.dev.mgmt.programming = some (0, index, bs) → s.dev.get GLOBAL_STATUS.RECOVERY = 0 →
    (Answers (.stageCommitDone true) s fun d =>
      d.mgmt.flashFw = { ok := true, version := Config.firmwareVersion bs, bytes := bs } ∧ d.mgmt.programming = none ∧ d.mgmt.stage = none ∧
      d.mgmt.committing = false ∧ d.get MGMT_STAGE_STATUS.STATE = 0 ∧ d.get MGMT_STAGE_STATUS.RESULT = 0 ∧
      (∃ r ∈ d.mgmt.wait, r.type = 0x0A) ∧ d.mgmt.flashBase = s.dev.mgmt.flashBase ∧ d.mem = s.dev.mem ∧ d.core = s.dev.core) ∧
    (Answers (.stageCommitDone false) s fun d =>
      d.mgmt.flashFw.ok = false ∧ d.mgmt.programming = none ∧ d.get MGMT_STAGE_STATUS.RESULT = 4 ∧
      (∃ r ∈ d.mgmt.wait, r.type = 0x0A) ∧ d.mgmt.flashBase = s.dev.mgmt.flashBase ∧ d.mem = s.dev.mem ∧ d.core = s.dev.core))

/-- The HBM maintenance state (R250, R479): entered only with no share held by a partition or a region, it takes the channels out of
service; left, they serve again. -/
def Claims.Maintenance : Prop :=
  (∀ (q : Nat) (v : DWord) (s : State) (held : Bool), bit v.toNat 0 = true → bit v.toNat 1 = false → s.dev.get MGMT_MAINT.ACTIVE = 0 →
    held = (List.range 128).any (fun i => decide (s.dev.get (SHARE_OWN.OWNER i) < 16) || s.dev.get (SHARE_OWN.OWNER i) == 18) →
    (held = false → Answers (.maintEnter (.queue q) v) s fun d =>
      d.get MGMT_MAINT.ACTIVE = 1 ∧ d.get MGMT_MAINT.RESULT = 0 ∧ d.get GLOBAL_STATUS.MAINT = 1 ∧
      (∀ g, g < 128 → d.get (HBM_CH_STATUS.STATE g) =
        (if s.dev.get (HBM_CH_STATUS.STATE g) = 0 then 1 else s.dev.get (HBM_CH_STATUS.STATE g))) ∧
      d.mem = s.dev.mem ∧ d.core = s.dev.core ∧ d.ses = s.dev.ses) ∧
    (held = true → Answers (.maintEnter (.queue q) v) s fun d =>
      d.get MGMT_MAINT.ACTIVE = 0 ∧ d.get MGMT_MAINT.RESULT = 1 ∧ d = { s.dev with regs := d.regs, written := d.written })) ∧
  (∀ (q : Nat) (v : DWord) (s : State), bit v.toNat 0 = false → bit v.toNat 1 = true → s.dev.get MGMT_MAINT.ACTIVE = 1 →
    (s.dev.mem.scanRun.any (fun x => x.kind == 1) = false → Answers (.maintLeave (.queue q) v) s fun d =>
      d.get MGMT_MAINT.ACTIVE = 0 ∧ d.get MGMT_MAINT.RESULT = 0 ∧ d.get GLOBAL_STATUS.MAINT = 0 ∧
      (∀ g, g < 128 → d.get (HBM_CH_STATUS.STATE g) =
        (if s.dev.get (HBM_CH_STATUS.STATE g) = 1 then 0 else s.dev.get (HBM_CH_STATUS.STATE g))) ∧
      d.mem = s.dev.mem ∧ d.core = s.dev.core ∧ d.ses = s.dev.ses) ∧
    (s.dev.mem.scanRun.any (fun x => x.kind == 1) = true → Answers (.maintLeave (.queue q) v) s fun d =>
      d.get MGMT_MAINT.ACTIVE = 1 ∧ d.get MGMT_MAINT.RESULT = 2 ∧ d = { s.dev with regs := d.regs, written := d.written }))

/-! Bassoon: autonomous management. -/

/-- Power (R469, R470, R529): caps written take effect at the fast check; above 110 % of the cap the target falls by 100 MHz; the slow step
moves it as R470 says; a window above the cap with the target at 200 is counted; a regulator that does not answer is held.
What the manual leaves open here is as log entries 52 and 58 say. -/
def Claims.PowerControl : Prop :=
  ∀ (s : State) (watts cap t : Nat), s.dev.governs ⟨s.time.toNat, s.chip⟩ = true → t = s.dev.get MGMT_POWER_STATUS.TARGET_MHZ →
    (cap = s.dev.effectiveCap → Answers (.powerFastCheck watts) s fun d =>
      d.get MGMT_POWER.EFFECTIVE = cap ∧ cap ≤ s.dev.get MGMT_POWER.OVERLAY_CAP ∧
      d.get MGMT_POWER_STATUS.TARGET_MHZ = (if cap + cap / 10 < watts then max 200 (t - 100) else t) ∧
      d.get MGMT_POWER.HOST_CAP = s.dev.get MGMT_POWER.HOST_CAP ∧ d.get MGMT_POWER.BMC_CAP = s.dev.get MGMT_POWER.BMC_CAP ∧
      d.mem = s.dev.mem ∧ d.core = s.dev.core) ∧
    (cap = s.dev.get MGMT_POWER.EFFECTIVE → Answers (.powerSlowStep watts) s fun d =>
      d.get MGMT_POWER_STATUS.PACKAGE_W = watts % 2 ^ 16 ∧
      d.get MGMT_POWER_STATUS.TARGET_MHZ =
        (if cap + cap / 20 < watts then max 200 (t - 100) else if cap < watts then max 200 (t - 25)
          else if watts < cap - cap * 3 / 100 then min 800 (t + 25) else t) ∧
      d.get MGMT_POWER.EFFECTIVE = cap ∧ d.mem = s.dev.mem ∧ d.core = s.dev.core) ∧
    (Answers (.powerCalibrate watts) s fun d =>
      d = { s.dev with mgmt := { s.dev.mgmt with calib := watts } }) ∧
    (cap = s.dev.get MGMT_POWER.EFFECTIVE → Answers (.powerWindow watts) s fun d =>
      d.get MGMT_POWER_STATUS.UNMET_MS = (if s.dev.mgmt.reached200 = true ∧ cap < watts
        then satAdd 32 (s.dev.get MGMT_POWER_STATUS.UNMET_MS) 10 else s.dev.get MGMT_POWER_STATUS.UNMET_MS) ∧
      d.mgmt.reached200 = (t == 200) ∧ d.get MGMT_POWER_STATUS.TARGET_MHZ = t ∧ d.mem = s.dev.mem ∧ d.core = s.dev.core) ∧
    (∀ h, h < 2 → Answers (.vrTimeout h) s fun d =>
      d.mgmt.vddSet.look h = s.dev.mgmt.vddOk.look h ∧ d.mgmt.vrHeld.look h = true ∧ d.mgmt.alert = true ∧
      d.mgmt.vddSet.look (1 - h) = s.dev.mgmt.vddSet.look (1 - h) ∧ d.mem = s.dev.mem ∧ d.core = s.dev.core)

/-- Temperature (R246, R471-R473, R532): a section that has been at 100 degrees or more loses 25 MHz per millisecond down to 200; a stack
at 95 is throttled and doubles its refresh; THERMTRIP# and a rail fault stop the clocks and are recorded.
What the manual leaves open here is as log entry 54 says. -/
def Claims.Temperature : Prop :=
  (∀ (k temp lim : Nat) (s : State) (t : Therm), k < 16 → s.dev.governs ⟨s.time.toNat, s.chip⟩ = true → t = s.dev.mgmt.therm.look k →
    s.dev.halfHot k = false → lim = s.dev.get (MGMT_SECTION.THERM_MHZ k) → lim ≤ 800 → t.held = false →
    (100 ≤ temp → temp < 105 → t.hot ≠ 0 → Answers (.thermalSample k temp) s fun d =>
      d.get (MGMT_SECTION.TEMP k) = temp ∧
      d.get (MGMT_SECTION.THERM_MHZ k) = max 200 (lim - 25 * ((s.time.toNat + 1 - t.hot) / 1000000)) ∧
      (∀ i, i < 16 → i ≠ k → d.reg (MGMT_SECTION.off i) = s.dev.reg (MGMT_SECTION.off i)) ∧
      d.get (MGMT_SECTION.MHZ k) = s.dev.get (MGMT_SECTION.MHZ k) ∧ d.mem = s.dev.mem ∧ d.core = s.dev.core) ∧
    (temp < 97 → t.cool ≠ 0 → 200 ≤ lim → Answers (.thermalSample k temp) s fun d =>
      d.get (MGMT_SECTION.TEMP k) = temp ∧
      d.get (MGMT_SECTION.THERM_MHZ k) = min 800 (lim + 25 * ((s.time.toNat + 1 - t.cool) / 10000000)) ∧
      (∀ i, i < 16 → i ≠ k → d.reg (MGMT_SECTION.off i) = s.dev.reg (MGMT_SECTION.off i)) ∧
      d.get (MGMT_SECTION.MHZ k) = s.dev.get (MGMT_SECTION.MHZ k) ∧ d.mem = s.dev.mem ∧ d.core = s.dev.core)) ∧
  (∀ (k temp : Nat) (s : State), k < 8 → s.dev.governs ⟨s.time.toNat, s.chip⟩ = true →
    Answers (.hbmThermalSample k temp) s fun d =>
      (∀ i, i < 16 → d.get (HBM_CH_STATUS.TEMP (16 * k + i)) = temp % 256) ∧ d.mgmt.refresh2.look k = decide (85 ≤ temp) ∧
      d.mgmt.stackHot.look k = (decide (95 ≤ temp) || (s.dev.mgmt.stackHot.look k && decide (90 ≤ temp))) ∧
      (∀ i, i ≠ k → d.mgmt.stackHot.look i = s.dev.mgmt.stackHot.look i) ∧ d.mem = s.dev.mem ∧ d.core = s.dev.core) ∧
  (∀ (k temp : Nat) (s : State), k < 16 → 115 ≤ temp → s.dev.mgmt.power = true → s.dev.mgmt.thermtrip = false →
    s.dev.mgmt.committing = false →
    Answers (.thermtrip k temp) s fun d =>
      d.mgmt.thermtrip = true ∧ d.mgmt.clocksOff = true ∧ d.mgmt.tripCount = s.dev.mgmt.tripCount + 1 ∧
      (∃ r ∈ d.mgmt.wait, r.type = 0x09 ∧ r.die = k / 8) ∧ d.get (MGMT_SECTION.TEMP k) = temp % 256 ∧
      d = { s.dev with regs := d.regs, mgmt := d.mgmt, fab := d.fab, out := d.out, act := d.act } ∧
      (s.dev.paired = false → d = { s.dev with regs := d.regs, mgmt := d.mgmt })) ∧
  (∀ (r : Nat) (s : State), r < 16 → s.dev.mgmt.power = true → s.dev.mgmt.committing = false →
    Answers (.railFault r) s fun d =>
      d.mgmt.clocksOff = true ∧ d.mgmt.alert = true ∧ (r < 15 → ∃ x ∈ d.mgmt.wait, x.type = 0x08) ∧
      d = { s.dev with mgmt := d.mgmt, fab := d.fab, out := d.out, act := d.act } ∧
      (s.dev.paired = false → d = { s.dev with mgmt := d.mgmt }))

/-- Clock switches and gating (R19, R135, R280, R474, R475, R529): a switch freezes the section's arrays, begins with them at level 0 and
ends with the new ACLK, here where nothing waits for its scratchpads (R20); a section idle for its time is gated and its caches and arrays
are empty; a block that waits for it ungates it, its L1s invalidated (R234); what has not drained 10 us after a gating is discarded. What the manual leaves open here is as log entries 53 and 56 say. -/
def Claims.ClocksAndGating : Prop :=
  (∀ (k mhz : Nat) (s : State), k < 16 → s.dev.governs ⟨s.time.toNat, s.chip⟩ = true → s.dev.mgmt.switch.look k = none →
    mhz = s.dev.wanted ⟨s.time.toNat, s.chip⟩ k → mhz < s.dev.get (MGMT_SECTION.MHZ k) → Env.past ⟨s.time.toNat, s.chip⟩ s.dev.mgmt.lastSwitch 1000 = true →
    Answers (.clockSwitchRequest k mhz) s fun d =>
      d.mgmt.switch.look k = some ⟨mhz, false⟩ ∧ (∀ i, i ≠ k → d.mgmt.switch.look i = s.dev.mgmt.switch.look i) ∧
      (∀ c ∈ sectArrays ⟨s.time.toNat, s.chip⟩ k, (d.arr c).clockFreeze = true) ∧
      d.get (MGMT_SECTION.MHZ k) = s.dev.get (MGMT_SECTION.MHZ k) ∧ d.mem = s.dev.mem ∧ d.core = s.dev.core) ∧
  (∀ (k : Nat) (s : State) (w : ClockSwitch), k < 16 → s.dev.mgmt.switch.look k = some w → w.begun = false →
    Answers (.clockSwitchBegin k) s fun d =>
      d.mgmt.switch.look k = some ⟨w.new, true⟩ ∧ d.issueStopped k = true ∧
      (∀ c ∈ sectArrays ⟨s.time.toNat, s.chip⟩ k, (d.arr c).st ≠ .rampDown) ∧ d.get (MGMT_SECTION.MHZ k) = s.dev.get (MGMT_SECTION.MHZ k) ∧
      d.mem = s.dev.mem ∧ d.core = s.dev.core) ∧
  (∀ (k : Nat) (s : State) (w : ClockSwitch), k < 16 → s.dev.mgmt.switch.look k = some w → w.begun = true → w.new < 1024 →
    (∀ x ∈ s.dev.core.groups, ∀ a ∈ x.2.accs, ∀ y ∈ a.waits, ∀ c, y.1 = .remote c → sectOf c ≠ k) →
    s.dev.edu.jobs.look 0 = [] → s.dev.edu.jobs.look 1 = [] →
    Answers (.clockSwitchEnd k) s fun d =>
      d.get (MGMT_SECTION.MHZ k) = w.new ∧ d.mgmt.switch.look k = none ∧
      (∀ c ∈ sectArrays ⟨s.time.toNat, s.chip⟩ k, (d.arr c).clockFreeze = false) ∧
      (∀ i, i < 16 → i ≠ k → d.get (MGMT_SECTION.MHZ i) = s.dev.get (MGMT_SECTION.MHZ i)) ∧ d.mem = s.dev.mem ∧ d.core = s.dev.core) ∧
  (∀ (k : Nat) (s : State), k < 16 → s.dev.governs ⟨s.time.toNat, s.chip⟩ = true → s.dev.mgmt.cfg.gateIdleMs ≠ 0 →
    s.dev.get (MGMT_SECTION.GATED k) = 0 → s.dev.sectIdle k = true → s.dev.mgmt.idleSince.look k ≠ 0 →
    Env.past ⟨s.time.toNat, s.chip⟩ (s.dev.mgmt.idleSince.look k) (s.dev.mgmt.cfg.gateIdleMs * 1000000) = true →
    Env.past ⟨s.time.toNat, s.chip⟩ s.dev.mgmt.lastGate 20000 = true → s.dev.mgmt.switch.look k = none →
    Answers (.sectionGate k) s fun d =>
      d.get (MGMT_SECTION.GATED k) = 1 ∧ (∀ i, i < 16 → i ≠ k → d.get (MGMT_SECTION.GATED i) = s.dev.get (MGMT_SECTION.GATED i)) ∧
      d.mgmt.gateAt.look k = s.time.toNat + 1 ∧ (∀ x, sectOf (x / 2048) = k → d.core.l1.look x = default) ∧
      (∀ c, c < 128 → sectOf c = k → (d.arr c).st = .off ∧ (d.arr c).level = 0) ∧
      (∀ c, c < 128 → sectOf c ≠ k → d.arr c = s.dev.arr c) ∧ d.core.groups = s.dev.core.groups ∧ d.mem = s.dev.mem ∧ d.ses = s.dev.ses) ∧
  (∀ (k : Nat) (s : State), k < 16 → s.dev.governs ⟨s.time.toNat, s.chip⟩ = true → s.dev.get (MGMT_SECTION.GATED k) = 1 →
    Env.past ⟨s.time.toNat, s.chip⟩ s.dev.mgmt.lastGate 20000 = true →
    s.dev.core.launches.any (fun l => s.dev.wantsSection ⟨s.time.toNat, s.chip⟩ l == some k) = true →
    Answers (.sectionUngate k) s fun d =>
      d.get (MGMT_SECTION.GATED k) = 0 ∧ (∀ i, i < 16 → i ≠ k → d.get (MGMT_SECTION.GATED i) = s.dev.get (MGMT_SECTION.GATED i)) ∧
      d.mgmt.gateAt.look k = 0 ∧ d.mgmt.idleSince.look k = s.time.toNat + 1 ∧ d.mem = s.dev.mem ∧
      (∀ x, sectOf (x / 2048) = k → d.core.l1.look x = default) ∧
      d.core = { s.dev.core with l1 := d.core.l1, husk := d.core.husk, fills := d.core.fills }) ∧
  (∀ (k : Nat) (s : State), k < 16 → s.dev.mgmt.gateAt.look k ≠ 0 →
    Env.past ⟨s.time.toNat, s.chip⟩ (s.dev.mgmt.gateAt.look k) 10000 = true →
    Answers (.gatingDrainLimit k) s fun d =>
      d.mgmt.gateAt.look k = 0 ∧ (∀ r ∈ d.mem.l2q, ∀ c, r.isStore = true → r.src = .core c → sectOf c ≠ k) ∧
      (∀ r ∈ s.dev.mem.l2q, r.isStore = false ∨ (∀ c, r.src = .core c → sectOf c ≠ k) → r ∈ d.mem.l2q) ∧
      (∀ c, c < 128 → sectOf c = k → (d.core.trace.look c).packets = []) ∧ d.mem.cells = s.dev.mem.cells ∧ d.mem.l2 = s.dev.mem.l2)

/-- The watchdog, lanes and ports, fatal errors (R452, R468, R476): an expiry restarts the firmware and takes the target to 200 MHz; a lane
is retuned; a port goes down to train again, and stays down beyond its limit; a fatal error enters RECOVERY and holds or resets.
What the manual leaves open here is as log entries 49, 55, 59 and 67 say. -/
def Claims.Faults : Prop :=
  (∀ (pc : DWord) (s : State), s.dev.mgmt.power = true → 3 ≤ s.dev.mgmt.bootStep → s.dev.mgmt.committing = false →
    Answers (.watchdog pc) s fun d =>
      d.mgmt.restartAt = s.time.toNat + 1 ∧ d.get MGMT_POWER_STATUS.TARGET_MHZ = 200 ∧ d.mgmt.alert = true ∧
      d.governs ⟨s.time.toNat, s.chip⟩ = false ∧ (∃ r ∈ d.mgmt.wait, r.type = 0x0B ∧ r.payload = [BitVec.ofNat 64 pc.toNat]) ∧
      d.mem = s.dev.mem ∧ d.core = s.dev.core ∧ (s.dev.paired = false → d.fab = s.dev.fab)) ∧
  (∀ (l n : Nat) (s : State), l < 192 → s.dev.governs ⟨s.time.toNat, s.chip⟩ = true → s.dev.linkUp l = true →
    s.dev.mgmt.cfg.cePerS < n → Env.past ⟨s.time.toNat, s.chip⟩ (s.dev.mgmt.retune.look l) 60000000000 = true →
    Answers (.laneRetune ⟨l, n⟩) s fun d =>
      d.mgmt.retune.look l = s.time.toNat + 1 ∧ d.get (LP_FEC.CORRECTED l) = satAdd 32 (s.dev.get (LP_FEC.CORRECTED l)) n ∧ d.get MGMT_AUTO.ACTS = satAdd MGMT_AUTO.ACTS.w (s.dev.get MGMT_AUTO.ACTS) 1 ∧
      d.linkUp l = true ∧ d.fab = s.dev.fab ∧ d.mem = s.dev.mem ∧ d.core = s.dev.core) ∧
  (∀ (l : Nat) (s : State) (recent : List Nat), l < 192 → s.dev.governs ⟨s.time.toNat, s.chip⟩ = true → s.dev.linkUp l = true →
    10 < ((s.dev.mgmt.fecAt.look l).filter (fun t => decide (s.time.toNat < t + 1000000000))).length →
    recent = (s.dev.mgmt.retrain.look l).filter (fun t => decide (s.time.toNat < t + 3600000000000)) →
    Answers (.portRetrain l) s fun d =>
      d.linkUp l = false ∧ (∀ k, k < 192 → k ≠ l → d.linkUp k = s.dev.linkUp k) ∧
      (recent.length < s.dev.mgmt.cfg.retrainPerH →
        d.mgmt.retrain.look l = recent ++ [s.time.toNat] ∧ d.mgmt.portHeld.look l = s.dev.mgmt.portHeld.look l) ∧
      (s.dev.mgmt.cfg.retrainPerH ≤ recent.length → d.mgmt.portHeld.look l = true) ∧ d.fab = s.dev.fab ∧ d.mem = s.dev.mem ∧
      d.core = s.dev.core) ∧
  (∀ (source addr : Nat) (s : State), s.dev.mgmt.power = true → 3 ≤ s.dev.mgmt.bootStep → s.dev.mgmt.committing = false →
    (s.dev.mgmt.cfg.fatalAction = 0 → s.dev.core.launches.filter (fun l => l.live && !l.ending) = [] →
      Answers (.fatalError source addr) s fun d =>
        d.get GLOBAL_STATUS.FATAL_HELD = 1 ∧ d.get FAB_BUDDY.RECOVERY = 1 ∧ (∃ r ∈ d.mgmt.wait, r.type = 0x08) ∧
        d.mgmt.fatalCount = s.dev.mgmt.fatalCount + 1 ∧ d.mem = s.dev.mem ∧ d.core = s.dev.core) ∧
    (s.dev.mgmt.cfg.fatalAction ≠ 0 → (∀ g ∈ s.dev.mem.chanMap, g < 128) → Answers (.fatalError source addr) s fun d =>
        d.mgmt.bootStep = 1 ∧ d.mgmt.cause = 2 ∧ d.get FAB_BUDDY.RECOVERY = 1 ∧ (∃ r ∈ d.mgmt.wait, r.type = 0x08) ∧
        d.mgmt.fatalCount = s.dev.mgmt.fatalCount + 1 ∧ d.core.groups = [] ∧ d.mem.l2 = []))

/-! The ledger and the management bus. -/

/-- The life ledger (R467, R468, R480-R482): the oldest waiting record is written in order; a checkpoint follows 8,192 records; a second's acts
are summed up; a function is shown the record it names in its own words, one that fails its CRC is counted and shown as none. A record made goes to
the buddy of a paired device (R421). What the manual leaves open here is as log entries 49 and 62 say. -/
def Obligations.LifeLedger : Prop :=
  (∀ (s : State) (r : LedgerRec) (t : List LedgerRec), s.dev.mgmt.wait = r :: t → s.dev.mgmt.power = true → s.dev.mgmt.committing = false →
    Answers .ledgerWrite s fun d =>
      d = { s.dev with mgmt := { s.dev.mgmt with ledger := s.dev.mgmt.ledger ++ [r], wait := t } }) ∧
  (∀ (s : State), s.dev.mgmt.power = true → s.dev.mgmt.committing = false → 8192 ≤ sinceCheckpoint s.dev.mgmt.checks s.dev.mgmt.ledger →
    Answers .ledgerCheckpoint s fun d =>
      d.mgmt.checks = s.dev.mgmt.checks ++ [s.dev.mgmt.nextSeq] ∧
      (∃ r, d.mgmt.wait = s.dev.mgmt.wait ++ [r] ∧ r.type = 0x0C ∧ r.seq = s.dev.mgmt.nextSeq) ∧
      (∃ k, d.mgmt.ledger = s.dev.mgmt.ledger.drop k) ∧
      d = { s.dev with mgmt := d.mgmt, free := d.free, fab := d.fab, out := d.out, act := d.act } ∧
      (s.dev.paired = false → d = { s.dev with mgmt := d.mgmt, free := d.free })) ∧
  (∀ (s : State), s.dev.mgmt.power = true → s.dev.mgmt.committing = false → s.dev.mgmt.acts.any (fun x => x.2 != 0) = true →
    (s.dev.recordsIn (s.time.toNat / 1000000000) < 200 → Answers .autoSummary s fun d =>
      (∃ r, d.mgmt.wait = s.dev.mgmt.wait ++ [r] ∧ r.type = 0x06 ∧
        bits (r.payload.getD 0 0).toNat 0 16 = min 65535 (s.dev.mgmt.acts.look 1) ∧
        bits (r.payload.getD 1 0).toNat 48 16 = min 65535 (s.dev.mgmt.acts.look 8)) ∧
      d.mgmt.acts = [] ∧ d = { s.dev with mgmt := d.mgmt, fab := d.fab, out := d.out, act := d.act } ∧
      (s.dev.paired = false → d = { s.dev with mgmt := d.mgmt })) ∧
    (200 ≤ s.dev.recordsIn (s.time.toNat / 1000000000) → Answers .autoSummary s fun d =>
      d.get MGMT_LEDGER_STATUS.DROPPED = satAdd 32 (s.dev.get MGMT_LEDGER_STATUS.DROPPED) 1 ∧ d.mgmt.wait = s.dev.mgmt.wait ∧
      d.mgmt.acts = [] ∧ d = { s.dev with regs := d.regs, mgmt := d.mgmt })) ∧
  (∀ (f : Nat) (v : DWord) (s : State), f < 32 →
    (∀ r, s.dev.ledgerFind (bits v.toNat 0 32) = some r → s.dev.ledgerBad r = true → Answers (.ledgerIndexWrite f v) s fun d =>
      d.get (MGMT_LEDGER_IDX.FOUND.bank f) = 0 ∧ (∀ j, j < 8 → d.get ((MGMT_LEDGER_DATA.WORD j).bank f) = 0) ∧
      d.get MGMT_LEDGER_STATUS.BAD = satAdd MGMT_LEDGER_STATUS.BAD.w (s.dev.get MGMT_LEDGER_STATUS.BAD) 1 ∧ d = { s.dev with regs := d.regs }) ∧
    (∀ r, s.dev.ledgerFind (bits v.toNat 0 32) = some r → s.dev.ledgerBad r = false → Answers (.ledgerIndexWrite f v) s fun d =>
      d.get (MGMT_LEDGER_IDX.FOUND.bank f) = 1 ∧ d.get (MGMT_LEDGER_IDX.SEQ.bank f) = bits v.toNat 0 32 ∧
      (∀ j, j < 8 → d.get ((MGMT_LEDGER_DATA.WORD j).bank f) = leOf ((r.bytes.drop (8 * j)).take 8)) ∧
      (∀ g, g < 32 → g ≠ f → d.get (MGMT_LEDGER_IDX.FOUND.bank g) = s.dev.get (MGMT_LEDGER_IDX.FOUND.bank g)) ∧
      d = { s.dev with regs := d.regs }) ∧
    (s.dev.ledgerFind (bits v.toNat 0 32) = none → Answers (.ledgerIndexWrite f v) s fun d =>
      d.get (MGMT_LEDGER_IDX.FOUND.bank f) = 0 ∧ (∀ j, j < 8 → d.get ((MGMT_LEDGER_DATA.WORD j).bank f) = 0) ∧
      d = { s.dev with regs := d.regs }))

/-- A message of a device that runs its firmware leaves on the bus, and nothing else changes but what is named. -/
def Claims.Replies (i : Instr) (s : State) (p : List Byte → Prop) : Prop :=
  Answers i s fun d => ∃ bs, d = { s.dev with out := s.dev.out ++ [.mctp bs] } ∧ p bs

/-- The management bus (R469, R482-R484): what each command of the bus answers and sets; a key slot is burned once, on the bus alone, and
a revoked one stays revoked. The bytes of an answer are laid out by the model (log entry 61). -/
def Claims.ManagementBus : Prop :=
  (∀ (n : Nat) (s : State), s.dev.mgmt.power = true → 3 ≤ s.dev.mgmt.bootStep →
    (Answers (.setEndpointId n) s fun d =>
      d.mgmt = { s.dev.mgmt with eid := n % 256 } ∧ d.out.length = s.dev.out.length + 1 ∧ d = { s.dev with mgmt := d.mgmt, out := d.out }) ∧
    (Answers (.setBmcCap n) s fun d =>
      d.get MGMT_POWER.BMC_CAP = n % 2 ^ 16 ∧ d.get MGMT_POWER.EFFECTIVE = s.dev.get MGMT_POWER.EFFECTIVE ∧
      d.get MGMT_POWER.HOST_CAP = s.dev.get MGMT_POWER.HOST_CAP ∧ d = { s.dev with regs := d.regs, out := d.out }) ∧
    (∀ data, Claims.Replies (.pldmRequest 2 2 data) s fun bs => bs.drop 3 = leBytes 8 (s.dev.get MGMT_POWER.EFFECTIVE)) ∧
    (∀ data k, k < 16 → Claims.Replies (.pldmRequest 2 (3 + k) data) s fun bs => bs.drop 3 = leBytes 8 (s.dev.get (MGMT_SECTION.TEMP k))) ∧
    (∀ data k, k < 8 → Claims.Replies (.pldmRequest 2 (19 + k) data) s fun bs =>
      bs.drop 3 = leBytes 8 (s.dev.get (HBM_CH_STATUS.TEMP (16 * k)))) ∧
    (∀ r, s.dev.ledgerFind n = some r → s.dev.ledgerBad r = false → Claims.Replies (.readLedger n) s fun bs => bs.drop 3 = r.bytes) ∧
    (s.dev.ledgerFind n = none → Claims.Replies (.readLedger n) s fun bs => bs.drop 2 = [1])) ∧
  (∀ (slot digest : Nat) (s : State), s.dev.mgmt.power = true → 3 ≤ s.dev.mgmt.bootStep → slot < 4 → s.chip.keyDigest.length = 4 →
    s.chip.keyProg.length = 4 → s.chip.keyRevoked.length = 4 → s.chip.keyRevoked.getD slot false = false →
    (s.chip.keyProg.getD slot false = false → ∃ t, exec (.provisionKey true slot digest) s = .next t ∧
      t.chip.keyDigest.getD slot 0 = digest ∧ t.chip.keyProg.getD slot false = true ∧
      (∀ k, k ≠ slot → t.chip.keyDigest.getD k 0 = s.chip.keyDigest.getD k 0 ∧ t.chip.keyProg.getD k false = s.chip.keyProg.getD k false) ∧
      t.chip = { s.chip with keyDigest := t.chip.keyDigest, keyProg := t.chip.keyProg } ∧
      t.dev = { s.dev with out := t.dev.out } ∧ t.acorn = s.acorn ∧ t.time = s.time ∧ t.pending = s.pending) ∧
    (∃ t, exec (.revokeKey true slot) s = .next t ∧ t.chip.keyRevoked.getD slot false = true ∧
      (∀ k, k ≠ slot → t.chip.keyRevoked.getD k false = s.chip.keyRevoked.getD k false) ∧
      t.chip = { s.chip with keyRevoked := t.chip.keyRevoked } ∧
      t.dev = { s.dev with out := t.dev.out } ∧ t.acorn = s.acorn ∧ t.time = s.time ∧ t.pending = s.pending)) ∧
  (∀ (slot digest : Nat) (bus : Bool) (s : State), bus = false ∨ s.chip.keyProg.getD slot false = true →
    ∃ t, exec (.provisionKey bus slot digest) s = .next t ∧ t.chip = s.chip ∧ t.dev = { s.dev with out := t.dev.out } ∧ t.acorn = s.acorn)

/-- Attestation (R485): the exchange runs in order, and each request is answered by what the manual names: the versions, the algorithms SM2
and SM3 alone, the digest and the portions of the certificate chain, a challenge signed, the measurements of the running boot.
What the manual leaves open here is as log entry 61 says. -/
def Claims.Attestation : Prop :=
  ∀ (s : State), s.dev.mgmt.power = true → 3 ≤ s.dev.mgmt.bootStep →
    (Answers .getVersion s fun d => d.mgmt = { s.dev.mgmt with spdm := 1 } ∧ (∃ bs, d.out = s.dev.out ++ [.mctp bs]) ∧
      d = { s.dev with mgmt := d.mgmt, out := d.out }) ∧
    (1 ≤ s.dev.mgmt.spdm → Answers .getCapabilities s fun d => d.mgmt = { s.dev.mgmt with spdm := max 2 s.dev.mgmt.spdm } ∧
      (∃ bs, d.out = s.dev.out ++ [.mctp bs]) ∧ d = { s.dev with mgmt := d.mgmt, out := d.out }) ∧
    (2 ≤ s.dev.mgmt.spdm →
      (Answers (.negotiateAlgorithms true true) s fun d => d.mgmt = { s.dev.mgmt with spdm := 3 } ∧
        d = { s.dev with mgmt := d.mgmt, out := d.out }) ∧
      (∀ a b, (a && b) = false → Answers (.negotiateAlgorithms a b) s fun d =>
        d = { s.dev with out := s.dev.out ++ [.mctp (spdmError 1)] })) ∧
    (s.dev.mgmt.spdm < 3 → ∀ index nonce signed, Answers (.getMeasurements index nonce signed) s fun d =>
      d = { s.dev with out := s.dev.out ++ [.mctp (spdmError 4)] }) ∧
    (3 ≤ s.dev.mgmt.spdm →
      (Claims.Replies .getDigests s fun bs => bs.drop 3 = digest32 (Config.sm3 s.chip.chain)) ∧
      (∀ off len, off ≤ s.chip.chain.length → Claims.Replies (.getCertificate 0 off len) s fun bs =>
        bs.drop 6 = (s.chip.chain.drop off).take len) ∧
      (∀ nonce, Answers (.challenge 0 nonce) s fun d =>
        (∃ body, d.out = s.dev.out ++ [.mctp (spdmMsg 0x03 (body ++ devSign (leBytes 32 nonce ++ body)))] ∧
          body.take 32 = digest32 (Config.sm3 s.chip.chain)) ∧ d = { s.dev with out := d.out, free := d.free }) ∧
      (∀ index nonce signed, 1 ≤ index → index ≤ 9 → Answers (.getMeasurements index nonce signed) s fun d =>
        (∃ bs, d.out = s.dev.out ++ [.mctp bs] ∧
          (bs.drop 6).take (measurement s.chip s.dev s.acorn index).length = measurement s.chip s.dev s.acorn index ∧
          (index = 3 → (bs.drop 6).take 4 = leBytes 4 s.dev.mgmt.fwVersion) ∧
          (index = 2 → (bs.drop 6).take 32 = digest32 (s.dev.mgmt.digests.look 0))) ∧
        d = { s.dev with out := d.out, free := d.free }))

/-! Acorn. -/

/-- What the newest record of the log is of. -/
def Claims.logged (a : AcornSys) (type : Nat) : Prop := ((a.log.look (a.logSeq % 8192)).drop 4).take 1 = leBytes 1 type

/-- The number that follows a record's. -/
def Claims.nextLog (a : AcornSys) : Nat := if a.logSeq + 1 = 2 ^ 32 then 1 else a.logSeq + 1

/-- What the device sends to Acorn (R494, R510, R511): every millisecond a frame with a row per account; a request for a reading of an
account that the function may name, one at a time. -/
def Claims.DeviceToAcorn : Prop :=
  (∀ (s : State), s.dev.mgmt.power = true → s.dev.mgmt.clocksOff = false → s.dev.mgmt.collectAt + 1000000 ≤ s.time.toNat →
    Answers .countCollectorTick s fun d =>
      d.toAcorn = s.dev.toAcorn ++ [.activity s.time.toNat ((List.range 17).map s.dev.activityRow)] ∧ d.mgmt.collectAt = s.time.toNat ∧
      (∀ n, n < 17 → (d.act.look n).macs = [] ∧ (d.act.look n).sectors = 0 ∧ (d.act.look n).moved128 = (s.dev.act.look n).moved128 % 128) ∧
      d = { s.dev with toAcorn := d.toAcorn, act := d.act, mgmt := d.mgmt }) ∧
  (∀ (f n : Nat) (v : DWord) (s : State), f < 32 → s.dev.mgmt.power = true → bit v.toNat 5 = true → n = bits v.toNat 0 5 →
    (s.dev.meterAllowed f n = true → f ∉ s.dev.mgmt.meterPending → Answers (.meterRequest f v) s fun d =>
      d.toAcorn = s.dev.toAcorn ++ [.request s.time.toNat f n
        (s.dev.get ((METER_NONCE.NONCE 0).bank f) + 2 ^ 64 * s.dev.get ((METER_NONCE.NONCE 1).bank f))] ∧
      d.mgmt = { s.dev.mgmt with meterPending := s.dev.mgmt.meterPending ++ [f] } ∧ d.get (METER_REQ_STATUS.RESULT.bank f) = 0 ∧
      d = { s.dev with regs := d.regs, written := d.written, toAcorn := d.toAcorn, mgmt := d.mgmt }) ∧
    (s.dev.meterAllowed f n = false → Answers (.meterRequest f v) s fun d =>
      d.get (METER_REQ_STATUS.RESULT.bank f) = 1 ∧ d = { s.dev with regs := d.regs, written := d.written }) ∧
    (s.dev.meterAllowed f n = true → f ∈ s.dev.mgmt.meterPending → Answers (.meterRequest f v) s fun d =>
      d.get (METER_REQ_STATUS.RESULT.bank f) = 2 ∧ d = { s.dev with regs := d.regs, written := d.written }))

/-- The input port (R490, R493, R499, R501, R505, R507, R510): a frame in order is taken as what it carries; any other is discarded, counted
and logged; a BOOT report closes every open session with GAP. What the manual leaves open here is as log entry 72 says. -/
def Claims.AcornInput : Prop :=
  ∀ (s : State) (h : FrameHead) (a : AcornSys), s.acorn.powered = true →
    a = { s.acorn with inSeq := (s.acorn.inSeq + 1) % 2 ^ 32, deviceTs := h.deviceTs } →
    (∀ rows, h.crcOk = false ∨ h.seq ≠ s.acorn.inSeq ∨ rows.length ≠ 17 → Seals (.activity h rows) s fun b =>
      b.rejects = satAdd 16 s.acorn.rejects 1 ∧ b.logSeq = Claims.nextLog s.acorn ∧ Claims.logged b 0x09 ∧ b.frames = s.acorn.frames ∧
      b.inSeq = s.acorn.inSeq ∧ b.rails = s.acorn.rails ∧ b.accounts = s.acorn.accounts ∧ b.reports = s.acorn.reports) ∧
    (h.crcOk = true → h.seq = s.acorn.inSeq →
      (∀ rows, rows.length = 17 → Seals (.activity h rows) s fun b => b = { a with frames := a.frames ++ [rows] }) ∧
      (∀ f n nonce, f < 32 → n ≤ 16 → Seals (.request h f n nonce) s fun b => b = { a with requests := a.requests ++ [⟨f, n, nonce⟩] }) ∧
      (∀ p sections, Seals (.acornReport h (.assign p sections)) s fun b =>
        b = { a with reports := a.reports ++ [(h.deviceTs, .assign p sections)] }) ∧
      (∀ p, Seals (.acornReport h (.teardownStart p)) s fun b =>
        b.logSeq = Claims.nextLog a ∧ Claims.logged b 0x05 ∧ b.accounts = a.accounts ∧ b.reports = a.reports ∧ b.frames = a.frames) ∧
      (∀ kind old new count, Seals (.acornReport h (.handover kind old new count)) s fun b =>
        b.reports = a.reports ++ [(h.deviceTs, .handover kind old new count)] ∧ b.logSeq = Claims.nextLog a ∧ Claims.logged b 0x07 ∧
        b.accounts = a.accounts ∧ b.frames = a.frames) ∧
      (∀ overlay defaulted digest, a.reports = [] → Seals (.acornReport h (.boot overlay defaulted digest)) s fun b =>
        (∀ p, p < 16 → b.isOpen p = false ∧ (b.acct p).energy = (a.acct p).energy ∧ (b.acct p).session = (a.acct p).session ∧
          (a.isOpen p = true → (b.acct p).gap = true)) ∧
        b.sections = [] ∧ b.bankSets = [] ∧ b.shares = [] ∧ Claims.logged b 0x03 ∧ b.rails = a.rails ∧ b.frames = a.frames))

/-- Intervals (R492, R495-R501): with a frame the energy measured, and what an interval without one held over, goes to the 17 accounts to
the last microjoule; one interval without a frame is held over; from the second on the device account bears it and open sessions
get GAP. The remainders below 1 uJ stay with their rails. -/
def Obligations.AcornIntervals : Prop :=
  ∀ (s : State) (nj : List Nat) (a : AcornSys) (whole : Nat → Nat), s.acorn.powered = true → a = s.acorn → a.reports = [] → a.attempts = [] →
    (∀ r, whole r = (a.frac.look r + nj.getD r 0) / 1000) →
    (a.frames ≠ [] → a.gapCount = 0 → Seals (.acornInterval nj) s fun b =>
      ((List.range 17).map (fun n => (b.acct n).energy)).sum = ((List.range 17).map (fun n => (a.acct n).energy)).sum +
        ((List.range 16).map (fun r => whole r + (a.slip.getD []).getD r 0)).sum ∧
      (∀ r, r < 16 → b.rails.look r = a.rails.look r + whole r ∧ b.frac.look r = (a.frac.look r + nj.getD r 0) % 1000) ∧
      b.slip = none ∧ b.frames = [] ∧ b.time = a.time + 1000 ∧ b.log = a.log) ∧
    (a.frames = [] → a.gapCount = 0 → a.slip = none → Seals (.acornInterval nj) s fun b =>
      b.accounts = a.accounts ∧ b.slip = some ((List.range 16).map whole) ∧
      (∀ r, r < 16 → b.rails.look r = a.rails.look r + whole r) ∧ b.time = a.time + 1000 ∧ b.log = a.log) ∧
    (∀ x, a.frames = [] → a.gapCount = 0 → a.slip = some x → Seals (.acornInterval nj) s fun b =>
      (b.acct 16).energy = (a.acct 16).energy + ((List.range 16).map (fun r => whole r + x.getD r 0)).sum ∧
      (∀ p, p < 16 → (b.acct p).energy = (a.acct p).energy ∧ (a.isOpen p = true → (b.acct p).gap = true)) ∧
      b.slip = none ∧ b.gapCount = 2 ∧ b.time = a.time + 1000 ∧ b.log = a.log)

/-- Readings and the non-volatile banks (R502-R504, R506, R508, R510, R511): the oldest request gets its signed reading; a periodic write
signs one of every account and leaves the other bank; a supply loss writes both from hold-up or tears one; power-up restores the newer
valid bank; the loss of the reference flags readings until it is restored. What the manual leaves open here is as log entry 72 says. -/
def Obligations.AcornBanks : Prop :=
  (∀ (s : State) (q : MeterReq) (rest : List MeterReq), s.acorn.powered = true → s.acorn.nvDue = false → s.acorn.requests = q :: rest → q.f < 32 →
    ∃ t, exec .requestedReading s = .next t ∧ t.acorn.requests = rest ∧ t.acorn.readingSeq = (s.acorn.readingSeq + 1) % 2 ^ 32 ∧
      (t.acorn.requested.look q.f).take 4 = leBytes 4 (s.acorn.readingSeq + 1) ∧
      ((t.acorn.requested.look q.f).drop 4).take 2 = leBytes 1 2 ++ leBytes 1 q.account ∧
      leOf (((t.acorn.requested.look q.f).drop 56).take 8) = (s.acorn.acct q.account).energy % 2 ^ 64 ∧
      (∀ f, f ≠ q.f → t.acorn.requested.look f = s.acorn.requested.look f) ∧ t.acorn.accounts = s.acorn.accounts ∧
      t.dev.mgmt = { s.dev.mgmt with meterPending := s.dev.mgmt.meterPending.erase q.f } ∧
      (s.dev.mgmt.power = true → ∃ w ∈ (t.dev.fifo q.f).words, bits w.data.toNat 0 8 = 0x90) ∧
      t.dev.mem = s.dev.mem ∧ t.dev.core = s.dev.core ∧ t.time = s.time ∧ t.chip = s.chip ∧ t.pending = s.pending) ∧
  (∀ (s : State) (n : Nat), s.acorn.powered = true → s.acorn.nvDue = true → n = max s.acorn.bankA.seq s.acorn.bankB.seq + 1 →
    Seals .acornNvWrite s fun b =>
      b.readingSeq = (s.acorn.readingSeq + 17) % 2 ^ 32 ∧
      (∀ k, k < 17 → ((b.periodic.look k).drop 4).take 2 = leBytes 1 0 ++ leBytes 1 k) ∧
      (∃ i, i.valid = true ∧ i.loss = false ∧ i.seq = n ∧ i.rails = s.acorn.rails ∧ i.accounts = s.acorn.accounts ∧ i.time = s.acorn.time ∧
        (n % 2 = 1 → b.bankA = i ∧ b.bankB = s.acorn.bankB) ∧ (n % 2 = 0 → b.bankB = i ∧ b.bankA = s.acorn.bankA)) ∧
      b.accounts = s.acorn.accounts ∧ b.rails = s.acorn.rails) ∧
  (∀ (us : Nat) (nj : List Nat) (s : State), s.acorn.powered = true →
    (Seals (.acornSupplyLoss us nj true) s fun b =>
      b.powered = false ∧ b.bankA = b.bankB ∧ b.bankA.valid = true ∧ b.bankA.loss = true ∧ Claims.logged b 0x02 ∧
      (∀ r, r < 16 → b.bankA.rails.look r = s.acorn.rails.look r + (s.acorn.frac.look r + nj.getD r 0) / 1000) ∧
      b.bankA.time = s.acorn.time + us) ∧
    (Seals (.acornSupplyLoss us nj false) s fun b =>
      b.powered = false ∧
      ((b.bankA = { s.acorn.bankA with valid := false } ∧ b.bankB = s.acorn.bankB) ∨
        (b.bankB = { s.acorn.bankB with valid := false } ∧ b.bankA = s.acorn.bankA)))) ∧
  (∀ (s : State) (i : NvImage), s.acorn.powered = false → i = s.acorn.newest →
    ∃ t, exec .acornPowerUp s = .next t ∧ t.acorn.powered = true ∧ t.acorn.rails = i.rails ∧ t.acorn.readingSeq = i.readingSeq ∧
      t.acorn.time = i.time ∧ t.acorn.cycles = i.cycles + 1 ∧ t.acorn.holdupFail = (i.valid && !i.loss) ∧
      (∀ n, (t.acorn.acct n).energy = (i.accounts.look n).energy) ∧ Claims.logged t.acorn 0x01 ∧
      (i.valid = false ∨ i.loss = true → t.dev = s.dev) ∧ t.dev.mem = s.dev.mem ∧ t.dev.core = s.dev.core ∧ t.time = s.time ∧ t.chip = s.chip ∧
      t.pending = s.pending) ∧
  (∀ (s : State), s.acorn.powered = true → s.acorn.refLost = false →
    ∃ t, exec .refLost s = .next t ∧ t.acorn.refLost = true ∧ t.acorn.notLegal = true ∧ Claims.logged t.acorn 0x0B ∧
      t.acorn.accounts = s.acorn.accounts ∧ t.acorn.rails = s.acorn.rails ∧ t.dev.mem = s.dev.mem ∧ t.dev.core = s.dev.core ∧
      t.time = s.time ∧ t.chip = s.chip ∧ t.pending = s.pending) ∧
  (∀ (s : State), s.acorn.powered = true → s.acorn.refLost = true →
    Seals .refRestored s fun b =>
      b.refLost = false ∧ b.notLegal = false ∧ Claims.logged b 0x0C ∧ b.accounts = s.acorn.accounts ∧ b.rails = s.acorn.rails)

/-! Recorder. -/

/-- Recorder (R515, R516, R519-R521, R525): a sample of a running group enters its core's buffer and the rotation goes on; a burst moves packets
to the ring of the half; enabling needs rings in place; a clear zeroes the counters of the cores named, a selection its own.
What the manual leaves open here is as log entry 70 says. -/
def Obligations.RecorderUnit : Prop :=
  (∀ (c q k : Nat) (s : State) (b : TraceBuf) (x : Group), c < 128 → s.dev.get REC_CTL.ENABLE = 1 → s.dev.get REC_CTL.PC_INTERVAL ≠ 0 →
    b = s.dev.core.trace.look c → b.sampled + 4 * s.dev.get REC_CTL.PC_INTERVAL ≤ s.dev.cycles (sectOf c) → q = b.quarter % 4 → s.dev.sampleSlot c q (b.slots.getD q 0) = some k → x = s.dev.grp ⟨c, q, k⟩ →
    (∃ pc m t, x.settled = .run pc m t ∧ pc = x.pc) → bit (s.dev.get REC_CTL.KIND_MASK) 7 = true →
    bit (s.dev.get REC_CTL.PART_MASK) (acctOf (s.dev.launchOf x.launch).part) = true → b.lost = 0 → b.packets.length < 1023 →
    Answers (.pcSample c) s fun d =>
      (d.core.trace.look c).packets =
        b.packets ++ [⟨traceW0 8 ⟨c, q, k⟩ (bits x.pc.toNat 3 32), BitVec.ofNat 64 s.time.toNat, (s.dev.launchOf x.launch).part⟩] ∧
      (d.core.trace.look c).quarter = (q + 1) % 4 ∧ (d.core.trace.look c).slots.getD q 0 = k + 1 ∧
      (∀ i, i ≠ c → d.core.trace.look i = s.dev.core.trace.look i) ∧ (∀ h, d.grp h = s.dev.grp h) ∧ d.mem = s.dev.mem) ∧
  (∀ (h c : Nat) (s : State) (p : Trace) (b : TraceBuf), h < 2 → s.dev.get REC_CTL.ENABLE = 1 →
    s.dev.nextDrain ⟨s.time.toNat, s.chip⟩ h = some c → b = s.dev.core.trace.look c → b.packets = [p] → b.lost = 0 →
    s.dev.core.drainWin.getD h 0 ≠ s.time.toNat / 640 → s.dev.recRingOk h = true → (∀ g ∈ s.dev.mem.chanMap, g < 128) →
    (s.dev.get (REC_RING_PROD.PROD h) + 2 ^ 32 - s.dev.get (REC_RING_CONS.CONS h)) % 2 ^ 32 < 2 ^ s.dev.recSize h →
    Answers (.traceDrainBurst h c) s fun d =>
      (d.core.trace.look c).packets = [] ∧ d.get (REC_RING_PROD.PROD h) = (s.dev.get (REC_RING_PROD.PROD h) + 1) % 2 ^ 32 ∧
      (∃ e, d.homeBytes (s.dev.recBase h + s.dev.get (REC_RING_PROD.PROD h) % 2 ^ s.dev.recSize h * 16) 16 =
        some (leBytes 8 p.w0.toNat ++ leBytes 8 p.w1.toNat, e)) ∧
      (∀ i, i ≠ c → d.core.trace.look i = s.dev.core.trace.look i) ∧ (∀ g, d.grp g = s.dev.grp g) ∧ d.ses = s.dev.ses) ∧
  (∀ (q : Nat) (v : DWord) (s : State), bit v.toNat 0 = true → bit v.toNat 49 = false → s.dev.get REC_CTL.ENABLE = 0 →
    Answers (.recorderEnable (.queue q) v) s fun d =>
      d.get REC_CTL.ENABLE = b2n (s.dev.recRingOk 0 && s.dev.recRingOk 1) ∧
      d.get REC_STATUS.ENABLE_RESULT = b2n (!(s.dev.recRingOk 0 && s.dev.recRingOk 1)) ∧
      d.get REC_CTL.KIND_MASK = bits v.toNat REC_CTL.KIND_MASK.lo REC_CTL.KIND_MASK.w ∧
      d.get REC_CTL.PART_MASK = bits v.toNat REC_CTL.PART_MASK.lo REC_CTL.PART_MASK.w ∧
      d = { s.dev with regs := d.regs, written := d.written }) ∧
  (∀ (q m : Nat) (v : DWord) (s : State), bit v.toNat 0 = false → bit v.toNat 49 = true →
    m = s.dev.reg (REC_CLEAR_CORES.off 0) + s.dev.reg (REC_CLEAR_CORES.off 1) * 2 ^ 64 →
    Answers (.counterClear (.queue q) v) s fun d =>
      (∀ c, c < 128 → bit m c = true → (∀ k, k < 14 → d.get (CNT_CLASS.COUNT c k) = 0) ∧ (∀ i, i < 8 → d.get (PMC.COUNT c i) = 0) ∧
        (∀ w, w < 9 → d.get (CNT_MX.COUNT c w) = 0) ∧ d.get (CNT_DUMMY.COUNT c) = 0) ∧
      (∀ c, c < 128 → bit m c = false → (∀ k, k < 14 → d.get (CNT_CLASS.COUNT c k) = s.dev.get (CNT_CLASS.COUNT c k)) ∧
        (∀ i, i < 8 → d.get (PMC.COUNT c i) = s.dev.get (PMC.COUNT c i))) ∧
      d = { s.dev with regs := d.regs, written := d.written }) ∧
  (∀ (q c i : Nat) (v : DWord) (s : State), c < 128 → i < 8 →
    Answers (.pmcSelect (.queue q) c i v) s fun d =>
      d.reg (PMC_SEL.off c i) = bits v.toNat 0 29 ∧ d.get (PMC.COUNT c i) = 0 ∧
      (∀ k j, k < 128 → j < 8 → (k, j) ≠ (c, i) → d.get (PMC.COUNT k j) = s.dev.get (PMC.COUNT k j) ∧
        d.reg (PMC_SEL.off k j) = s.dev.reg (PMC_SEL.off k j)) ∧ d = { s.dev with regs := d.regs })


/-! The whole machine. -/

/-- Every command answers a next state and leaves the queue; no command but Acorn's own rows changes anything of the sealed meter beside the
attempts on its window that it has noted; fuses are burned by the two rows of the management bus alone; the timestamp counter is
moved by no command but a message of precision time. -/
def Obligations.EveryCommandAnswersInItsBounds : Prop :=
  ∀ (i : Instr) (s : State), ∃ t, exec i s = .next t ∧ t.pending = s.pending ∧
    (¬ MeterRow i → t.acorn = { s.acorn with attempts := t.acorn.attempts }) ∧
    (¬ FuseRow i → t.chip = s.chip) ∧
    ((∀ l z, i ≠ .ptpMessage l z) → t.time = s.time)

/-- Every step keeps the canonical form of the memories. -/
def Obligations.MemoryStaysCanonical : Prop :=
  ∀ (s t : State), Canonical s → step s = .next t → Canonical t

/-- At reset the memories are in canonical form with nothing listed, nothing runs and nothing waits, and registers read their reset values,
among them: no port owns control, no function is bound, every section is set to 800 MHz and not gated (R8, R436, R438).
What the manual leaves open here is as log entry 18 says. -/
def Obligations.ResetState : Prop :=
  Canonical State.reset ∧ State.reset.pending = [] ∧ State.reset.dev.core.groups = [] ∧ State.reset.dev.mem.l2 = [] ∧
  State.reset.dev.mgmt.power = false ∧ State.reset.dev.get GLOBAL_OWNER.OWNER = 3 ∧ State.reset.dev.get GLOBAL_STATUS.READY = 0 ∧
  (∀ f, f < 32 → State.reset.dev.get (HOST_FUNC.PART f) = 31 ∧ State.reset.dev.get (HOST_FUNC.BIND_REFUSED f) = 0) ∧
  (∀ k, k < 16 → State.reset.dev.get (MGMT_SECTION.MHZ k) = 800 ∧ State.reset.dev.get (MGMT_SECTION.THERM_MHZ k) = 800 ∧
    State.reset.dev.get (MGMT_SECTION.GATED k) = 0) ∧
  (∀ k, k < 2 → State.reset.dev.get (HOST_PORT.LINK_UP k) = 0) ∧ (∀ q, q < 4096 → State.reset.dev.get (QUEUE_STATUS.STATE q) = 0)

/-- A step on an empty queue is a cycle of RCLK (log entry 8): the timestamp counter advances by 10 ns, by 11 or 9 while a difference to the
grandmaster is slewed out; each section whose clock runs advances by its share of ACLK cycles; the ports accept the writes that wait for them (R22; log entry 105);
no other memory, group or fuse changes, and nothing of Acorn. -/
def Claims.IdleStepTicks : Prop :=
  ∀ (s : State), s.pending = [] →
    ∃ t, step s = .next t ∧ t.pending = [] ∧ t.acorn = s.acorn ∧ t.chip = s.chip ∧
      (s.dev.fab.ptpSlew = 0 ∨ s.time.toNat < s.dev.fab.ptpLast + 10000 → t.time = s.time + 10 ∧ t.dev.fab = s.dev.fab) ∧
      (s.dev.fab.ptpLast + 10000 ≤ s.time.toNat → 0 < s.dev.fab.ptpSlew →
        t.time = s.time + 11 ∧ t.dev.fab = { s.dev.fab with ptpSlew := s.dev.fab.ptpSlew - 1, ptpLast := s.time.toNat }) ∧
      (s.dev.fab.ptpLast + 10000 ≤ s.time.toNat → s.dev.fab.ptpSlew < 0 →
        t.time = s.time + 9 ∧ t.dev.fab = { s.dev.fab with ptpSlew := s.dev.fab.ptpSlew + 1, ptpLast := s.time.toNat }) ∧
      (∀ k, k < 16 → t.dev.cycles k =
        (if s.dev.clockRuns k then s.dev.cycles k + s.dev.get (MGMT_SECTION.MHZ k) / 25 else s.dev.cycles k)) ∧
      (∀ w ∈ t.dev.mem.hostq, w.port ≠ 0 ∧ w.port ≠ 1) ∧ (s.dev.mem.hostq = [] → t.dev.mem = s.dev.mem) ∧
      t.dev = { s.dev with
        regs := t.dev.regs, fab := t.dev.fab, cyc := t.dev.cyc,
        mem := { s.dev.mem with host := t.dev.mem.host, hostq := t.dev.mem.hostq } }

/-! Statements of several parts. -/

/-- The arithmetic instructions of the three classes. -/
def Obligations.ArithmeticResults : Prop := Claims.FaluResults ∧ Claims.IaluResults ∧ Claims.F64Results ∧ Claims.WrappingLanes

/-- Comparisons and the predicate instructions. -/
def Obligations.ComparesAndPredicates : Prop := Claims.CompareResults ∧ Claims.PredicateLanes

/-- The function-table unit: the built-in tables and those of a launch. -/
def Obligations.FunctionTableUnit : Prop := Claims.TableResults ∧ Claims.FunctionTables

/-- Jumps, calls, returns and branches. -/
def Obligations.ControlTransfers : Prop := Claims.JumpResults ∧ Claims.BranchResults

/-- TRAP, BKPT and EXIT. -/
def Obligations.TrapsAndExits : Prop := Claims.TrapResults ∧ Claims.ExitResults

/-- Barriers of blocks and of clusters. -/
def Obligations.Barriers : Prop := Claims.BarrierArrives ∧ Claims.BarrierReleases

/-- Loads: how they issue, what they bind and how their answers come back. -/
def Obligations.Loads : Prop := Claims.LoadsJoin ∧ Claims.LoadScratchpadBytes ∧ Claims.AccessAnswers

/-- Poison that is consumed stops its group. -/
def Obligations.PoisonStops : Prop := Claims.PoisonedAccessTraps ∧ Claims.ArrayPoisonTraps

/-- ST to a scratchpad and to HBM. -/
def Obligations.Stores : Prop := Claims.StoreScratchpad ∧ Claims.StoreHbm

/-- The L2 and the L1. -/
def Obligations.CachesPerform : Prop := Claims.L2Performs ∧ Claims.L1FillInstalls

/-- PREF and the fences. -/
def Obligations.PrefetchAndFence : Prop := Claims.PrefetchRequests ∧ Claims.FenceResults

/-- The matrix arrays: their work and their current. -/
def Obligations.ArrayUnits : Prop := Claims.ArrayWork ∧ Claims.ArrayCurrent

/-- The SEM instructions of a group, as they issue. -/
def Obligations.SemInstructions : Prop := Claims.SemInstructionsIssue ∧ Claims.LockInstructionsIssue

/-- Sesame: what its stores perform. -/
def Obligations.SemaphoreStores : Prop := Claims.SemaphoreOperations ∧ Claims.LockTaken ∧ Claims.WakesAndTimeouts

/-- Handovers of bank sets and of sync blocks. -/
def Obligations.Handovers : Prop := Claims.BankSetHandover ∧ Claims.SyncHandoverResult

/-- The copy engines. -/
def Obligations.DmaEngines : Prop := Claims.DescriptorStarts ∧ Claims.FillCompletes ∧ Claims.IntakeGrants

/-- The range unit. -/
def Obligations.RangeTranslation : Prop := Claims.RangeRequests ∧ Claims.AsidInvalidation

/-- The expert dispatch unit. -/
def Obligations.DispatchUnit : Prop := Claims.DispatchInstructions ∧ Claims.DispatchDescriptors ∧ Claims.DispatchContexts

/-- Graphs and kernels. -/
def Obligations.GraphsAndKernels : Prop := Claims.GraphCommands ∧ Claims.Kernels

/-- Partitions, shares and common regions. -/
def Obligations.PartitionsAndRegions : Prop := Claims.Partitions ∧ Claims.CommonRegions

/-- Logical ports and the routing table. -/
def Obligations.PortsAndRoutes : Prop := Claims.LogicalPorts ∧ Claims.RoutingTable

/-- Control ownership and the bindings of functions. -/
def Obligations.OwnershipAndBindings : Prop := Claims.Ownership ∧ Claims.Bindings

/-- Configuration requests and BAR4. -/
def Obligations.HostRequests : Prop := Claims.ConfigRequests ∧ Claims.Bar4

/-- BAR0: writes and reads of registers. -/
def Obligations.RegisterAccess : Prop := Claims.RegisterWrites ∧ Claims.RegisterReads

/-- PWRGD and the warm reset. -/
def Obligations.PowerAndReset : Prop := Claims.PowerGood ∧ Claims.WarmReset

/-- Staging of images, and the HBM maintenance state. -/
def Obligations.StagingAndMaintenance : Prop := Claims.Staging ∧ Claims.Maintenance

/-- The power cap and the thermal limits. -/
def Obligations.PowerAndTemperature : Prop := Claims.PowerControl ∧ Claims.Temperature

/-- Clock switches, gating, the watchdog, retraining and fatal errors. -/
def Obligations.ClocksGatingAndFaults : Prop := Claims.ClocksAndGating ∧ Claims.Faults

/-- The management bus and SPDM. -/
def Obligations.BusAndAttestation : Prop := Claims.ManagementBus ∧ Claims.Attestation

/-- What goes to Acorn, and how it takes it. -/
def Obligations.MeterInputs : Prop := Claims.DeviceToAcorn ∧ Claims.AcornInput

/-- Time: the messages of the grandmaster, and the tick of an empty queue (log entry 8). -/
def Obligations.Timekeeping : Prop := Claims.PrecisionTime ∧ Claims.IdleStepTicks
end

