-- ==== Sys2Proof/Laws/Sparse.lean ====
section
/-! SUPPORT. Laws of the sparse tables and of memory: reading after writing, and the canonical form that every memory operation
keeps. -/

namespace Sys2Proof.Machine

variable {α : Type}

/-- What was put is read. -/
@[simp] theorem Sparse.get_put_same (d : Nat → α) (t : Sparse α) (k : Nat) (v : α) : (t.put k v).get d k = v := by
  induction t with
  | nil => simp [Sparse.put, Sparse.get]
  | cons h t ih =>
    obtain ⟨k', v'⟩ := h
    simp only [Sparse.put]
    split
    · simp [Sparse.get]
    · split
      · simp [Sparse.get]
      · rw [Sparse.get, if_neg (by omega), if_neg (by assumption), ih]

/-- Another key is read as before. -/
theorem Sparse.get_put_ne (d : Nat → α) (t : Sparse α) {j k : Nat} (v : α) (h : j ≠ k) : (t.put k v).get d j = t.get d j := by
  induction t with
  | nil => simp [Sparse.put, Sparse.get, h]
  | cons p t ih =>
    obtain ⟨k', v'⟩ := p
    simp only [Sparse.put]
    split
    · simp only [Sparse.get]
      split
      · rw [if_pos (by omega)]
      · rfl
    · split
      · subst_vars; simp only [Sparse.get]; simp [h]
      · simp only [Sparse.get, ih]

/-- What was put is looked up. -/
@[simp] theorem Sparse.look_put_same [Inhabited α] (t : Sparse α) (k : Nat) (v : α) : (t.put k v).look k = v :=
  Sparse.get_put_same _ t k v

/-- Another key is looked up as before. -/
theorem Sparse.look_put_ne [Inhabited α] (t : Sparse α) {j k : Nat} (v : α) (h : j ≠ k) : (t.put k v).look j = t.look j :=
  Sparse.get_put_ne _ t v h

/-- A key below every listed one reads as the default. -/
theorem Sparse.get_of_above (d : Nat → α) (t : Sparse α) {j lo : Nat} (hj : j ≤ lo) (h : t.above lo = true) : t.get d j = d j := by
  cases t with
  | nil => rfl
  | cons p t =>
    obtain ⟨k', v'⟩ := p
    simp only [Sparse.above, decide_eq_true_eq] at h
    simp [Sparse.get, show j < k' by omega]

/-- The bound of the keys may be lowered. -/
theorem Sparse.above_mono (t : Sparse α) {lo lo' : Nat} (hl : lo' ≤ lo) (h : t.above lo = true) : t.above lo' = true := by
  cases t with
  | nil => rfl
  | cons p t => simp only [Sparse.above, decide_eq_true_eq] at *; omega

variable [DecidableEq α]

/-- A well-formed table has its keys above the first one. -/
theorem Sparse.wf_cons {d : Nat → α} {k : Nat} {v : α} {t : Sparse α} (h : Sparse.wf d ((k, v) :: t) = true) :
    v ≠ d k ∧ Sparse.above k t = true ∧ Sparse.wf d t = true := by
  simpa [Sparse.wf, and_assoc] using h

/-- Setting a key keeps the keys above a bound below it. -/
theorem Sparse.above_set (d : Nat → α) (t : Sparse α) {lo k : Nat} (v : α) (hk : lo < k) (hw : t.wf d = true) (h : t.above lo = true) :
    (t.set d k v).above lo = true := by
  cases t with
  | nil => simp only [Sparse.set]; split <;> simp [Sparse.above, hk]
  | cons p t =>
    obtain ⟨k', v'⟩ := p
    have hw' := Sparse.wf_cons hw
    simp only [Sparse.above, decide_eq_true_eq] at h
    simp only [Sparse.set]
    split
    · split <;> simp [Sparse.above, hk, h]
    · split
      · split
        · exact Sparse.above_mono t (by omega) hw'.2.1
        · simp [Sparse.above, hk]
      · simp [Sparse.above, h]

/-- Setting a key keeps the canonical form. -/
theorem Sparse.wf_set (d : Nat → α) (t : Sparse α) (k : Nat) (v : α) (h : t.wf d = true) : (t.set d k v).wf d = true := by
  induction t with
  | nil => simp only [Sparse.set]; split <;> simp_all [Sparse.wf, Sparse.above]
  | cons p t ih =>
    obtain ⟨k', v'⟩ := p
    have hw := Sparse.wf_cons h
    simp only [Sparse.set]
    split
    · split
      · exact h
      · simp_all [Sparse.wf, Sparse.above]
    · split
      · subst_vars
        split
        · exact hw.2.2
        · simp_all [Sparse.wf]
      · have hk : k' < k := by omega
        simp [Sparse.wf, hw.1, ih hw.2.2, Sparse.above_set d t v hk hw.2.2 hw.2.1]

/-- What was set is read. -/
theorem Sparse.get_set_same (d : Nat → α) (t : Sparse α) (k : Nat) (v : α) (h : t.wf d = true) : (t.set d k v).get d k = v := by
  induction t with
  | nil => simp only [Sparse.set]; split <;> simp_all [Sparse.get]
  | cons p t ih =>
    obtain ⟨k', v'⟩ := p
    have hw := Sparse.wf_cons h
    simp only [Sparse.set]
    split
    · split
      · rename_i hlt hd; simp [Sparse.get, hlt, hd]
      · simp [Sparse.get]
    · split
      · subst_vars
        split
        · rename_i hd; rw [Sparse.get_of_above d t (Nat.le_refl _) hw.2.1, hd]
        · simp [Sparse.get]
      · rw [Sparse.get, if_neg (by omega), if_neg (by assumption), ih hw.2.2]

/-- Another key is read as before. -/
theorem Sparse.get_set_ne (d : Nat → α) (t : Sparse α) {j k : Nat} (v : α) (hjk : j ≠ k) (h : t.wf d = true) :
    (t.set d k v).get d j = t.get d j := by
  induction t with
  | nil => simp only [Sparse.set]; split <;> simp [Sparse.get, hjk]
  | cons p t ih =>
    obtain ⟨k', v'⟩ := p
    have hw := Sparse.wf_cons h
    simp only [Sparse.set]
    split
    · split
      · rfl
      · simp only [Sparse.get]
        split
        · rw [if_pos (by omega)]
        · rfl
    · split
      · subst_vars
        split
        · simp only [Sparse.get]
          split
          · rename_i hlt; exact Sparse.get_of_above d t (by omega) hw.2.1
          · simp
        · simp [Sparse.get, hjk]
      · simp only [Sparse.get, ih hw.2.2]

/-- The keys of a filtered well-formed table stay above a bound. -/
theorem Sparse.above_filter (d : Nat → α) (t : Sparse α) (p : Nat × α → Bool) {lo : Nat} (h : t.above lo = true) (hw : t.wf d = true) :
    Sparse.above lo (t.filter p) = true := by
  induction t generalizing lo with
  | nil => rfl
  | cons x t ih =>
    obtain ⟨k, v⟩ := x
    have hw' := Sparse.wf_cons hw
    have hlo : lo < k := by simpa [Sparse.above] using h
    simp only [List.filter_cons]
    split
    · simpa [Sparse.above] using hlo
    · exact ih (Sparse.above_mono t (by omega) hw'.2.1) hw'.2.2

/-- Dropping entries keeps the canonical form. -/
theorem Sparse.wf_filter (d : Nat → α) (t : Sparse α) (p : Nat × α → Bool) (h : t.wf d = true) : Sparse.wf d (t.filter p) = true := by
  induction t with
  | nil => rfl
  | cons x t ih =>
    obtain ⟨k, v⟩ := x
    have hw := Sparse.wf_cons h
    simp only [List.filter_cons]
    split
    · simp [Sparse.wf, hw.1, ih hw.2.2, Sparse.above_filter d t p hw.2.1 hw.2.2]
    · exact ih hw.2.2

/-! Memory: every operation on its cells keeps the canonical form. -/

/-- A byte written. -/
theorem Memory.wf_writeByte (m : List Host.Cell) (a : Nat) (b : Byte) (h : Memory.wf m = true) : Memory.wf (writeByte m a b) = true :=
  Sparse.wf_set memDefault m a b h

/-- Bytes written. -/
theorem Memory.wf_writeBytes (m : List Host.Cell) (a : Nat) (bs : List Byte) (h : Memory.wf m = true) :
    Memory.wf (writeBytes m a bs) = true := by
  induction bs generalizing m a with
  | nil => exact h
  | cons b t ih => exact ih _ _ (Memory.wf_writeByte m a b h)

/-- Listed bytes written. -/
theorem Memory.wf_writeCells (m : List Host.Cell) (l : List (Nat × Byte)) (h : Memory.wf m = true) :
    Memory.wf (writeCells m l) = true := by
  induction l generalizing m with
  | nil => exact h
  | cons x t ih => exact ih _ (Memory.wf_writeByte m x.1 x.2 h)

/-- A range zeroed. -/
theorem Memory.wf_zeroRange (m : List Host.Cell) (lo hi : Nat) (h : Memory.wf m = true) : Memory.wf (zeroRange m lo hi) = true :=
  Sparse.wf_filter memDefault m _ h

/-- Addresses of a set zeroed. -/
theorem Memory.wf_clearIf (m : List Host.Cell) (p : Nat → Bool) (h : Memory.wf m = true) : Memory.wf (Sparse.clearIf m p) = true :=
  Sparse.wf_filter memDefault m _ h

/-- A byte read after it was written. -/
theorem readByte_writeByte_same (m : List Host.Cell) (a : Nat) (b : Byte) (h : Memory.wf m = true) : readByte (writeByte m a b) a = b :=
  Sparse.get_set_same memDefault m a b h

/-- Another byte is read as before. -/
theorem readByte_writeByte_ne (m : List Host.Cell) {a c : Nat} (b : Byte) (hac : c ≠ a) (h : Memory.wf m = true) :
    readByte (writeByte m a b) c = readByte m c :=
  Sparse.get_set_ne memDefault m b hac h

/-- A byte outside the bytes written is read as before. -/
theorem readByte_writeBytes_out (m : List Host.Cell) (a c : Nat) (bs : List Byte) (h : Memory.wf m = true)
    (hc : c < a ∨ a + bs.length ≤ c) : readByte (writeBytes m a bs) c = readByte m c := by
  induction bs generalizing m a with
  | nil => rfl
  | cons b t ih =>
    simp only [List.length_cons] at hc
    rw [writeBytes, ih _ _ (Memory.wf_writeByte m a b h) (by omega), readByte_writeByte_ne m b (by omega) h]

end Sys2Proof.Machine
end

