-- ==== Sys2Proof/Laws/Regs.lean ====
section
/-! SUPPORT. Laws of bit fields and of the register file: a field read after a field was stored. -/

namespace Sys2Proof.Machine

/-! Bit fields. -/

/-- A field as a quotient and a remainder. -/
theorem bits_eq (v lo w : Nat) : bits v lo w = v / 2 ^ lo % 2 ^ w := by simp [bits, Nat.shiftRight_eq_div_pow]

/-- A field fits its width. -/
theorem bits_lt (v lo w : Nat) : bits v lo w < 2 ^ w := Nat.mod_lt _ (Nat.two_pow_pos w)

/-- A number is what lies above a field, the field and what lies below. -/
theorem bits_split (v lo w : Nat) : v = (v / 2 ^ lo / 2 ^ w * 2 ^ w + bits v lo w) * 2 ^ lo + v % 2 ^ lo := by
  rw [bits_eq]
  have h1 := Nat.div_add_mod (v / 2 ^ lo) (2 ^ w)
  have h2 := Nat.div_add_mod v (2 ^ lo)
  rw [Nat.mul_comm (v / 2 ^ lo / 2 ^ w), h1, Nat.mul_comm, h2]

/-- Storing a field, part by part. -/
theorem setBits_split (v lo w n : Nat) :
    setBits v lo w n = (v / 2 ^ lo / 2 ^ w * 2 ^ w + n % 2 ^ w) * 2 ^ lo + v % 2 ^ lo := by
  have h := bits_split v lo w
  unfold setBits
  generalize bits v lo w = b at *
  rw [Nat.add_mul] at h
  rw [Nat.add_mul]
  omega

/-- The stored field is read. -/
@[simp] theorem bits_setBits_same (v lo w n : Nat) : bits (setBits v lo w n) lo w = n % 2 ^ w := by
  rw [setBits_split, bits_eq, Nat.add_comm, Nat.add_mul_div_right _ _ (Nat.two_pow_pos lo),
    Nat.div_eq_of_lt (Nat.mod_lt _ (Nat.two_pow_pos lo)), Nat.zero_add, Nat.add_comm, Nat.add_mul_mod_self_right, Nat.mod_mod]

/-- A bit outside the stored field is as before. -/
theorem setBits_testBit_out (v lo w n i : Nat) (h : i < lo ∨ lo + w ≤ i) : (setBits v lo w n).testBit i = v.testBit i := by
  rw [setBits_split]
  have hm : n % 2 ^ w < 2 ^ w := Nat.mod_lt _ (Nat.two_pow_pos w)
  rcases h with h | h
  · rw [Nat.mul_comm _ (2 ^ lo), Nat.testBit_two_pow_mul_add _ (Nat.mod_lt _ (Nat.two_pow_pos lo)), if_pos h, Nat.testBit_mod_two_pow]
    simp [h]
  · rw [Nat.mul_comm _ (2 ^ lo), Nat.testBit_two_pow_mul_add _ (Nat.mod_lt _ (Nat.two_pow_pos lo)), if_neg (by omega),
      Nat.mul_comm _ (2 ^ w), Nat.testBit_two_pow_mul_add _ hm, if_neg (by omega), Nat.testBit_div_two_pow, Nat.testBit_div_two_pow]
    congr 1; omega

/-- A bit of a field is a bit of the number. -/
theorem bits_testBit (v lo w i : Nat) : (bits v lo w).testBit i = (decide (i < w) && v.testBit (i + lo)) := by
  rw [bits_eq, Nat.testBit_mod_two_pow, Nat.testBit_div_two_pow]

/-- A disjoint field is as before. -/
theorem bits_setBits_disjoint (v lo w n lo' w' : Nat) (h : lo' + w' ≤ lo ∨ lo + w ≤ lo') :
    bits (setBits v lo w n) lo' w' = bits v lo' w' := by
  apply Nat.eq_of_testBit_eq
  intro i
  rw [bits_testBit, bits_testBit]
  by_cases hi : i < w'
  · rw [setBits_testBit_out _ _ _ _ _ (by omega)]
  · simp [hi]

/-- Storing a field of a 64-bit value keeps it one. -/
theorem setBits_lt (v lo w n : Nat) (hv : v < 2 ^ 64) (h : lo + w ≤ 64) : setBits v lo w n < 2 ^ 64 := by
  apply Nat.lt_pow_two_of_testBit
  intro i hi
  rw [setBits_testBit_out _ _ _ _ _ (by omega)]
  exact Nat.testBit_lt_two_pow (Nat.lt_of_lt_of_le hv (Nat.pow_le_pow_right (by decide) hi))

/-! Registers. -/

/-- A register holds 64 bits. -/
theorem Dev.reg_lt (d : Dev) (off : Nat) : d.reg off < 2 ^ 64 := (d.regs.get regReset off).isLt

/-- A register read after it was stored. -/
@[simp] theorem Dev.reg_setReg_same (d : Dev) (off v : Nat) : (d.setReg off v).reg off = v % 2 ^ 64 := by
  simp [Dev.reg, Dev.setReg]

/-- Another register is as before. -/
theorem Dev.reg_setReg_ne (d : Dev) {off off' : Nat} (v : Nat) (h : off' ≠ off) : (d.setReg off v).reg off' = d.reg off' := by
  simp [Dev.reg, Dev.setReg, Sparse.get_put_ne _ _ _ h]

/-- A field read after it was stored. -/
theorem Dev.get_put_same (d : Dev) (f : Fld) (v : Nat) (h : f.lo + f.w ≤ 64) : (d.put f v).get f = v % 2 ^ f.w := by
  rw [Dev.put, Dev.get, Dev.reg_setReg_same, Nat.mod_eq_of_lt (setBits_lt _ _ _ _ (d.reg_lt _) h), bits_setBits_same]

/-- A field of another register is as before. -/
theorem Dev.get_put_ne (d : Dev) (f g : Fld) (v : Nat) (h : g.off ≠ f.off) : (d.put f v).get g = d.get g := by
  rw [Dev.put, Dev.get, Dev.reg_setReg_ne _ _ h, Dev.get]

/-- A disjoint field of the same register is as before. -/
theorem Dev.get_put_disjoint (d : Dev) (f g : Fld) (v : Nat) (h : f.lo + f.w ≤ 64) (ho : g.off = f.off)
    (hd : g.lo + g.w ≤ f.lo ∨ f.lo + f.w ≤ g.lo) : (d.put f v).get g = d.get g := by
  rw [Dev.put, Dev.get, ho, Dev.reg_setReg_same, Nat.mod_eq_of_lt (setBits_lt _ _ _ _ (d.reg_lt _) h),
    bits_setBits_disjoint _ _ _ _ _ _ hd, ← ho, Dev.get]

/-- A register other than a field's is as before. -/
theorem Dev.reg_put_ne (d : Dev) (f : Fld) (v off : Nat) (h : off ≠ f.off) : (d.put f v).reg off = d.reg off := by
  rw [Dev.put, Dev.reg_setReg_ne _ _ h]

/-! The register map. -/

/-- A row lies before an offset or after another. -/
def RegRow.clear (lo hi : Nat) (r : RegRow) : Bool :=
  decide (hi < r.base) || (if 1 < r.n then decide (0 < r.s1) && decide (r.base + r.n * r.s1 ≤ lo)
    else decide (r.m ≤ 1) && decide (r.base + (if r.nj ≤ 1 then 1 else r.nj * r.sj) ≤ lo) && (decide (r.nj ≤ 1) || decide (0 < r.sj)))

/-- A row that lies outside a range covers no offset of it. -/
theorem RegRow.index_clear {lo hi off : Nat} {r : RegRow} (h : r.clear lo hi = true) (h1 : lo ≤ off) (h2 : off ≤ hi) : r.index off = none := by
  unfold RegRow.clear at h
  unfold RegRow.index
  split
  · rfl
  rename_i hb
  simp only [Bool.or_eq_true, decide_eq_true_eq] at h
  rcases h with h | h
  · omega
  by_cases hn : 1 < r.n
  · simp only [hn, if_true, Bool.and_eq_true, decide_eq_true_eq] at h
    have hq : r.n ≤ (off - r.base) / r.s1 := (Nat.le_div_iff_mul_le h.1).2 (by omega)
    simp only [Nat.not_le.2 hn, if_false]
    rw [if_neg]
    rintro ⟨a, b, -, -⟩
    have : (off - r.base) / r.s1 ≤ (off - r.base) / r.s1 * r.m := Nat.le_mul_of_pos_right _ (by omega)
    omega
  · simp only [hn, if_false, Bool.and_eq_true, Bool.or_eq_true, decide_eq_true_eq] at h
    rw [if_neg]
    simp only [Nat.not_lt.1 hn, if_true, h.1.1]
    rintro ⟨-, -, c, e⟩
    by_cases hj : r.nj ≤ 1
    · simp only [hj, if_true] at h e; omega
    · simp only [hj, if_false] at h c
      have hsj : 0 < r.sj := h.2.resolve_left id
      have hq : r.nj ≤ (off - r.base) / r.sj := (Nat.le_div_iff_mul_le hsj).2 (by omega)
      omega

/-- Rows outside a range do not answer for its offsets. -/
theorem findReg_skip {lo hi off : Nat} (h1 : lo ≤ off) (h2 : off ≤ hi) (l t : List RegRow) (h : l.all (RegRow.clear lo hi) = true) :
    findReg off (l ++ t) = findReg off t := by
  induction l with
  | nil => rfl
  | cons r l ih =>
    simp only [List.all_cons, Bool.and_eq_true] at h
    rw [List.cons_append, findReg, RegRow.index_clear h.1 h1 h2]
    exact ih h.2

/-- QUEUE_CFG resets to owner NONE. -/
theorem regReset_queueCfg {k : Nat} (h : k < 4096) : regReset (QUEUE_CFG.off k) = 0x3E0 := by
  have hs : regRows = regRows.takeWhile (fun r => r.base != 0x100000) ++ regRows.dropWhile (fun r => r.base != 0x100000) := (List.takeWhile_append_dropWhile).symm
  have hd : regRows.dropWhile (fun r => r.base != 0x100000) = QUEUE_CFG.row :: (regRows.dropWhile (fun r => r.base != 0x100000)).tail := by decide +kernel
  have hc : (regRows.takeWhile (fun r => r.base != 0x100000)).all (RegRow.clear 0x100000 0x13FFFF) = true := by decide +kernel
  have hi : QUEUE_CFG.row.index (QUEUE_CFG.off k) = some (k, 0) := by
    simp [RegRow.index, QUEUE_CFG.row, QUEUE_CFG.off, h]
  have ho : QUEUE_CFG.off k % 0x10000000 = QUEUE_CFG.off k := by simp only [QUEUE_CFG.off]; omega
  unfold regReset regAt
  rw [ho, hs, findReg_skip (lo := 0x100000) (hi := 0x13FFFF) (by simp [QUEUE_CFG.off]) (by simp only [QUEUE_CFG.off]; omega) _ _ hc, hd]
  rw [findReg, hi]
  rfl

/-- A row of registers at a stride covers no offset between them. -/
theorem RegRow.index_between {off : Nat} {r : RegRow} (hn : ¬ r.n ≤ 1) (hm : r.m ≤ 1) (hj : r.nj ≤ 1) (h : (off - r.base) % r.s1 ≠ 0) :
    r.index off = none := by
  unfold RegRow.index
  split
  · rfl
  · simp [h]

/-- No queue is in use at reset. -/
theorem regReset_queueStatus {k : Nat} (h : k < 4096) : regReset (QUEUE_STATUS.off k) = 0 := by
  have hs : regRows = regRows.takeWhile (fun r => r.base != 0x100000) ++ regRows.dropWhile (fun r => r.base != 0x100000) := (List.takeWhile_append_dropWhile).symm
  have hd : regRows.dropWhile (fun r => r.base != 0x100000) =
      QUEUE_CFG.row :: QUEUE_RING.row :: QUEUE_COMPL.row :: QUEUE_CTL.row :: QUEUE_STATUS.row :: (regRows.dropWhile (fun r => r.base != 0x100000)).drop 5 := by
    decide +kernel
  have hc : (regRows.takeWhile (fun r => r.base != 0x100000)).all (RegRow.clear 0x100000 0x13FFFF) = true := by decide +kernel
  have hj : ∀ r ∈ [QUEUE_CFG.row, QUEUE_RING.row, QUEUE_COMPL.row, QUEUE_CTL.row], r.index (QUEUE_STATUS.off k) = none := by
    intro r hr
    simp only [List.mem_cons, List.not_mem_nil, or_false] at hr
    rcases hr with rfl | rfl | rfl | rfl <;> refine RegRow.index_between (by decide) (by decide) (by decide) ?_ <;>
      simp only [QUEUE_CFG.row, QUEUE_RING.row, QUEUE_COMPL.row, QUEUE_CTL.row, QUEUE_STATUS.off] <;> omega
  have hi : QUEUE_STATUS.row.index (QUEUE_STATUS.off k) = some (k, 0) := by
    simp [RegRow.index, QUEUE_STATUS.row, QUEUE_STATUS.off, h]
  have ho : QUEUE_STATUS.off k % 0x10000000 = QUEUE_STATUS.off k := by simp only [QUEUE_STATUS.off]; omega
  unfold regReset regAt
  rw [ho, hs, findReg_skip (lo := 0x100000) (hi := 0x13FFFF) (by simp only [QUEUE_STATUS.off]; omega) (by simp only [QUEUE_STATUS.off]; omega) _ _ hc, hd]
  rw [findReg, hj _ (by simp), findReg, hj _ (by simp), findReg, hj _ (by simp), findReg, hj _ (by simp), findReg, hi]
  rfl

end Sys2Proof.Machine
end

