-- ==== Sys2Proof/Laws/Issue.lean ====
section
/-! SUPPORT. What issuing an instruction does beside the instruction's own effect: one law per shared operation. -/

namespace Sys2Proof.Machine

/-! Groups. -/

/-- A group read after it was replaced. -/
@[simp] theorem Dev.grp_setGrp_same (d : Dev) (g : Gid) (x : Group) : (d.setGrp g x).grp g = x := by
  simp [Dev.grp, Dev.setGrp]

/-- Another group is as before. -/
theorem Dev.grp_setGrp_ne (d : Dev) {g h : Gid} (x : Group) (hne : gidKey h ≠ gidKey g) : (d.setGrp g x).grp h = d.grp h := by
  simp [Dev.grp, Dev.setGrp, Sparse.look, Sparse.get_put_ne _ _ _ hne]

/-- Keeping a fetched word changes no group. -/
@[simp] theorem Dev.grp_cacheWord (d : Dev) (launch core a w : Nat) (h : Gid) : (d.cacheWord launch core a w).grp h = d.grp h := rfl

/-- The quarter's turn is no group. -/
@[simp] theorem Dev.grp_turned (d : Dev) (g h : Gid) : (d.turned g).grp h = d.grp h := rfl

/-! Launches. -/

/-- The launch found in a list, after the launch of an identity was replaced. -/
theorem find_setLaunch (ls : List Launch) (l : Launch) (i : Nat) :
    ((ls.map (fun x => if x.id == l.id then l else x)).find? (fun x => x.id == i)) =
      if i = l.id then (ls.find? (fun x => x.id == i)).map (fun _ => l) else ls.find? (fun x => x.id == i) := by
  induction ls with
  | nil => split <;> rfl
  | cons a t ih =>
    rw [List.map_cons, List.find?_cons, List.find?_cons]
    by_cases ha : a.id = l.id
    · rw [if_pos (by simp [ha])]
      by_cases hi : i = l.id
      · simp [hi, ha]
      · have h1 : (l.id == i) = false := by simp; exact fun h => hi h.symm
        have h2 : (a.id == i) = false := by rw [ha]; exact h1
        rw [h1, h2]
        simp only [ih]
    · rw [if_neg (by simp [ha])]
      by_cases hi : i = l.id
      · have h2 : (a.id == i) = false := by rw [hi]; simp [ha]
        rw [h2]
        simp only [ih]
      · cases hc : (a.id == i) with
        | true => simp [hi]
        | false => simp only [ih]

/-- A launch read after another was replaced. -/
theorem Dev.launchOf_setLaunch_ne (d : Dev) (l : Launch) {i : Nat} (h : i ≠ l.id) : (d.setLaunch l).launchOf i = d.launchOf i := by
  unfold Dev.launchOf Dev.setLaunch
  dsimp only
  rw [find_setLaunch, if_neg h]

/-- A launch in progress read after it was replaced. -/
theorem Dev.launchOf_setLaunch_same (d : Dev) (l : Launch) (h : ∃ x ∈ d.core.launches, x.id = l.id) :
    (d.setLaunch l).launchOf l.id = l := by
  unfold Dev.launchOf Dev.setLaunch
  dsimp only
  rw [find_setLaunch, if_pos rfl]
  obtain ⟨x, hx, hi⟩ := h
  cases hf : d.core.launches.find? (fun y => y.id == l.id) with
  | none =>
    rw [List.find?_eq_none] at hf
    exact absurd (by simp [hi]) (hf x hx)
  | some y => rfl

/-! Counters. -/

/-- Another step of a fold that changes registers alone, outside a set of offsets. -/
theorem Dev.fold_regs {d : Dev} (ok : Nat → Prop) (f : Dev → Nat → Dev) (l : List Nat)
    (hf : ∀ d' i, i ∈ l → ∃ r, f d' i = { d' with regs := r } ∧ ∀ off, ok off → r.get regReset off = d'.regs.get regReset off) :
    ∃ r, l.foldl f d = { d with regs := r } ∧ ∀ off, ok off → r.get regReset off = d.regs.get regReset off := by
  induction l generalizing d with
  | nil => exact ⟨d.regs, rfl, fun _ _ => rfl⟩
  | cons i t ih =>
    obtain ⟨r, h1, h2⟩ := hf d i (List.mem_cons_self ..)
    obtain ⟨r', h3, h4⟩ := ih (d := f d i) (fun d' j hj => hf d' j (List.mem_cons_of_mem _ hj))
    refine ⟨r', ?_, fun off ho => ?_⟩
    · rw [List.foldl_cons, h3, h1]
    · rw [h4 off ho, h1, h2 off ho]

/-- Counting an event changes the programmable counters of its core alone. -/
theorem Dev.pmc_spec (d : Dev) (core : Nat) (q : Option Nat) (part code n : Nat) :
    ∃ r, d.pmc core q part code n = { d with regs := r } ∧
      ∀ off, (∀ i, i < 8 → off ≠ PMC.off core i) → r.get regReset off = d.regs.get regReset off := by
  unfold Dev.pmc
  apply Dev.fold_regs
  intro d' i hi
  have hi8 : i < 8 := by simpa using hi
  dsimp only
  generalize (d'.get (PMC_SEL.EVENT core i) == code && _ && _) = c
  cases c with
  | false => exact ⟨d'.regs, rfl, fun _ _ => rfl⟩
  | true =>
    refine ⟨_, rfl, fun off ho => ?_⟩
    exact Sparse.get_put_ne _ _ _ (ho i hi8)

/-- Counting an issue changes the counter of its class and the programmable counters of its core alone. -/
theorem Dev.countIssue_spec (d : Dev) (g : Gid) (part cls : Nat) (hc : cls < 40) :
    ∃ r, d.countIssue g part cls = { d with regs := r } ∧
    (∀ off, ¬ issueCounter g.core cls off → (d.countIssue g part cls).reg off = d.reg off) ∧
    (d.countIssue g part cls).get (CNT_CLASS.COUNT g.core cls) = satAdd 64 (d.get (CNT_CLASS.COUNT g.core cls)) 1 := by
  unfold Dev.countIssue
  obtain ⟨r, h1, h2⟩ := Dev.pmc_spec (d.bump (CNT_CLASS.COUNT g.core cls) 1) g.core (some g.quarter) part 2 1
  have hr : ∀ off, (∀ i, i < 8 → off ≠ PMC.off g.core i) →
      ((d.bump (CNT_CLASS.COUNT g.core cls) 1).pmc g.core (some g.quarter) part 2 1).reg off =
        (d.bump (CNT_CLASS.COUNT g.core cls) 1).reg off := by
    intro off ho
    rw [h1]
    exact congrArg BitVec.toNat (h2 off ho)
  refine ⟨r, ?_, ?_, ?_⟩
  · rw [h1]; rfl
  · intro off ho
    rw [hr off (fun i hi he => ho (Or.inr ⟨i, hi, he⟩)), Dev.bump, Dev.reg_put_ne]
    exact fun he => ho (Or.inl he)
  · rw [Dev.get, hr _ (fun i hi he => by simp [CNT_CLASS.COUNT, CNT_CLASS.off, PMC.off] at he; omega), ← Dev.get, Dev.bump,
      Dev.get_put_same _ _ _ (by simp [CNT_CLASS.COUNT])]
    apply Nat.mod_eq_of_lt
    show min (2 ^ 64 - 1) _ < 2 ^ 64
    omega

/-- A trace packet changes the trace buffer of its core and registers alone. -/
theorem Dev.trace_eq (e : Env) (d : Dev) (kind : Nat) (g : Gid) (part payload : Nat) :
    ∃ tr r, d.trace e kind g part payload = { d with core := { d.core with trace := tr }, regs := r } := by
  unfold Dev.trace
  dsimp only
  generalize (d.get REC_CTL.ENABLE == 1 && _ && _) = c
  cases c with
  | true => exact ⟨_, _, rfl⟩
  | false => exact ⟨d.core.trace, d.regs, rfl⟩

/-! Exceptions. -/

/-- The identity of the launch an identity finds, where one is in progress. -/
theorem Dev.launchOf_id (d : Dev) (i : Nat) (h : ∃ l ∈ d.core.launches, l.id = i) : (d.launchOf i).id = i := by
  unfold Dev.launchOf
  obtain ⟨x, hx, hi⟩ := h
  cases hf : d.core.launches.find? (fun y => y.id == i) with
  | none =>
    rw [List.find?_eq_none] at hf
    exact absurd (by simp [hi]) (hf x hx)
  | some y => simpa using List.find?_some hf

/-- A capture leaves a launch its identity. -/
@[simp] theorem Launch.take_id (l : Launch) (c : Capture) : (l.take c).id = l.id := by
  unfold Launch.take; split <;> rfl

/-- What an exception does: the group halts, the launch takes the capture, nothing else changes but the trace and counters of
the core. -/
theorem Dev.raise_spec (s : State) (g : Gid) (x : Group) (ex : Exc) :
    Raised s { s with dev := s.dev.raise ⟨s.time.toNat, s.chip⟩ g x ex } g x ex := by
  unfold Dev.raise
  dsimp only
  generalize hl : (s.dev.launchOf x.launch).take (s.dev.capture ex g x s.time.toNat) = l'
  have hid : l'.id = (s.dev.launchOf x.launch).id := by rw [← hl]; simp
  obtain ⟨r', hp, -⟩ := Dev.pmc_spec ((s.dev.setGrp g { x with st := .halted }).setLaunch l') g.core (some g.quarter)
    (s.dev.launchOf x.launch).part 15 1
  rw [hp]
  obtain ⟨tr, r, ht⟩ := Dev.trace_eq ⟨s.time.toNat, s.chip⟩ { (s.dev.setGrp g { x with st := .halted }).setLaunch l' with regs := r' } 4 g
    (s.dev.launchOf x.launch).part (ex.code + 256 * lowLane ex.lanes)
  rw [ht]
  refine ⟨Dev.grp_setGrp_same _ _ _, fun h hh => Dev.grp_setGrp_ne _ _ hh, ?_, ?_, rfl, rfl, rfl, rfl, rfl⟩
  · intro h2
    have h1 := s.dev.launchOf_id _ h2
    have := Dev.launchOf_setLaunch_same (s.dev.setGrp g { x with st := .halted }) l' (by rw [hid, h1]; exact h2)
    rw [hid, h1] at this
    exact this.trans hl.symm
  · intro h2 i hi
    have h1 := s.dev.launchOf_id _ h2
    exact Dev.launchOf_setLaunch_ne _ _ (by rw [hid, h1]; exact hi)

/-! Issue. -/

/-- A ready instruction is performed by its own rules. -/
theorem Dev.issue_ready (e : Env) {d : Dev} {g : Gid} {w : AWord} {k : Code} {legal : Bool} {ops : List Opnd} {x : Group}
    (body : Issue → Issued) (h : d.Ready g w k legal ops x) :
    d.issue e g w k legal ops body =
      match body (d.issueOf g w x) with
      | .wait why => d.stalls g why
      | .fault ex => d.raise e g x ex
      | .park d' => d'
      | .done d' => d'.issued g k x (d.launchOf x.launch).part := by
  obtain ⟨hx, hf, hk, hl, ho, hr, hp, hq⟩ := h
  have hat : d.issueAt e g w k legal ops x body = match body (d.issueOf g w x) with
      | .wait why => d.stalls g why
      | .fault ex => d.raise e g x ex
      | .park d' => d'
      | .done d' => d'.issued g k x (d.launchOf x.launch).part := by
    unfold Dev.issueAt
    simp only [hk, hl, ho, hr, hp, hq, Bool.not_true, Bool.or_self, Bool.false_eq_true, if_false, ne_eq, not_true_eq_false]
    rfl
  have hn : d.issueNext e g w k legal ops body x = d.issueAt e g w k legal ops x body := by
    unfold Dev.issueNext
    unfold Dev.fetches at hf
    simp only [Bool.and_eq_true] at hf
    obtain ⟨hf1, hf2⟩ := hf
    dsimp only
    cases hw : d.fetchWord g (d.launchOf x.launch) x.pc.toNat (wordLo w k.cls k.op) with
    | word v =>
      dsimp only
      cases hwx : w.x with
      | false => rfl
      | true =>
        rw [hwx] at hf2
        cases hw2 : d.fetchWord g (d.launchOf x.launch) (x.pc.toNat + 8) (wordHi w) with
        | word v2 => rfl
        | fill v2 => rw [hw2] at hf2; simp [Fetched.isWord] at hf2
        | other v2 => rw [hw2] at hf2; simp [Fetched.isWord] at hf2
        | exc v2 => rw [hw2] at hf2; simp [Fetched.isWord] at hf2
        | miss v2 => rw [hw2] at hf2; simp [Fetched.isWord] at hf2
    | fill v => rw [hw] at hf1; simp [Fetched.isWord] at hf1
    | other v => rw [hw] at hf1; simp [Fetched.isWord] at hf1
    | exc v => rw [hw] at hf1; simp [Fetched.isWord] at hf1
    | miss v => rw [hw] at hf1; simp [Fetched.isWord] at hf1
  rw [← hat, ← hn]
  unfold Dev.atIssue at hx
  unfold Dev.issue
  dsimp only at hx ⊢
  cases hrun : ((d.grp g).live && (d.grp g).st == GState.run && !d.issueStopped (sectOf g.core)) with
  | false => rw [hrun] at hx; simp at hx
  | true =>
    rw [hrun] at hx
    simp only [if_true, Bool.not_true, Bool.false_eq_true, if_false] at hx ⊢
    cases hs : (d.grp g).settled with
    | run pc mask stack =>
      rw [hs] at hx
      exact congrArg (fun y => d.issueNext e g w k legal ops body y) (Option.some.inj hx)
    | ended => rw [hs] at hx; simp at hx
    | arrive => rw [hs] at hx; simp at hx
    | diverge => rw [hs] at hx; simp at hx

/-- What every issue leaves: the group without a refused page and without what it waited for, every other group and everything but the
quarter's turn and the counters of the issue. -/
theorem Dev.issued_spec (d : Dev) (g : Gid) (k : Code) (x : Group) (part : Nat) (hc : k.cls < 40)
    (hd : (d.grp g).denied = x.denied) :
    (d.issued g k x part).grp g = { d.grp g with denied := none, stall := 0 } ∧
    (∀ h, gidKey h ≠ gidKey g → (d.issued g k x part).grp h = d.grp h) ∧
    (∃ gs r, d.issued g k x part = { d with core := { d.core with groups := gs, turn := (d.turned g).core.turn }, regs := r }) ∧
    (∀ off, ¬ issueCounter g.core k.cls off → (d.issued g k x part).reg off = d.reg off) ∧
    (d.issued g k x part).get (CNT_CLASS.COUNT g.core k.cls) = satAdd 64 (d.get (CNT_CLASS.COUNT g.core k.cls)) 1 := by
  have a : ∃ gs, (if x.denied.isSome || (d.grp g).stall != 0 then d.setGrp g { d.grp g with denied := none, stall := 0 } else d) =
        { d with core := { d.core with groups := gs } } ∧
      Sparse.look gs (gidKey g) = { d.grp g with denied := none, stall := 0 } ∧
      ∀ h, gidKey h ≠ gidKey g → Sparse.look gs (gidKey h) = d.grp h := by
    cases hs : x.denied.isSome || (d.grp g).stall != 0 with
    | true => exact ⟨_, rfl, by simp, fun h hh => by simp [Dev.grp, Sparse.look, Sparse.get_put_ne _ _ _ hh]⟩
    | false =>
      refine ⟨d.core.groups, rfl, ?_, fun h _ => rfl⟩
      rw [Bool.or_eq_false_iff] at hs
      have hz : (d.grp g).denied = none := by
        have h1 := hs.1
        rw [hd]; revert h1; cases x.denied <;> simp
      have hw : (d.grp g).stall = 0 := by simpa using hs.2
      show d.grp g = _
      rw [← hz, ← hw]
  obtain ⟨gs, h1, h2, h3⟩ := a
  unfold Dev.issued
  dsimp only
  rw [h1]
  obtain ⟨r, c1, c2, c3⟩ := Dev.countIssue_spec (Dev.turned { d with core := { d.core with groups := gs } } g) g part k.cls hc
  refine ⟨?_, ?_, ⟨gs, r, c1⟩, c2, c3⟩
  · rw [c1]; exact h2
  · intro h hh; rw [c1]; exact h3 h hh

/-- A ready instruction that only changes its own group: the frame of the whole command. -/
theorem onDev_onlyGroup {s : State} {g : Gid} {w : AWord} {k : Code} {legal : Bool} {ops : List Opnd} {x y : Group}
    (body : Env → Dev → Issue → Issued) (h : s.dev.Ready g w k legal ops x) (hc : k.cls < 40)
    (hy : y.denied = x.denied)
    (hb : body ⟨s.time.toNat, s.chip⟩ s.dev (s.dev.issueOf g w x) = .done (s.dev.setGrp g y)) :
    ∃ t, s.onDev (fun e d => d.issue e g w k legal ops (body e d)) = .next t ∧
      OnlyGroup s t g k.cls { y with denied := none, stall := 0 } := by
  refine ⟨_, rfl, ?_⟩
  have hi := Dev.issue_ready ⟨s.time.toNat, s.chip⟩ (body ⟨s.time.toNat, s.chip⟩ s.dev) h
  rw [hb] at hi
  dsimp only at hi
  obtain ⟨h1, h2, ⟨gs, r, h3⟩, h5, h6⟩ := Dev.issued_spec (s.dev.setGrp g y) g k x (s.dev.launchOf x.launch).part hc
    (by rw [Dev.grp_setGrp_same]; exact hy)
  rw [← hi] at h1 h2 h3 h5 h6
  rw [Dev.grp_setGrp_same] at h1
  refine ⟨h1, ?_, ?_, ?_, ?_, h6, rfl, rfl, rfl, rfl⟩
  · intro h' hh
    exact (h2 h' hh).trans (Dev.grp_setGrp_ne _ _ hh)
  · dsimp only; rw [h3]; rfl
  · dsimp only; rw [h3]; rfl
  · intro off ho; exact h5 off ho

end Sys2Proof.Machine
end

