-- ==== Sys2Proof/Laws/Lanes.lean ====
section
/-! SUPPORT. Writing operands of a group: what a write of registers, flags or predicates leaves unchanged. -/

namespace Sys2Proof.Machine

/-- Writing an operand changes v and u registers alone. -/
theorem Group.wr_eq (x : Group) (code lane v : Nat) : ∃ vs us, x.wr code lane v = { x with v := vs, u := us } := by
  unfold Group.wr
  split
  · exact ⟨_, _, rfl⟩
  · split
    · exact ⟨x.v, x.u, rfl⟩
    · split
      · exact ⟨_, _, rfl⟩
      · exact ⟨x.v, x.u, rfl⟩

/-- A fold of writes of v and u registers changes them alone. -/
theorem Group.fold_eq {β : Type} (f : Group → β → Group) (l : List β) (x : Group)
    (hf : ∀ y b, ∃ vs us, f y b = { y with v := vs, u := us }) : ∃ vs us, l.foldl f x = { x with v := vs, u := us } := by
  induction l generalizing x with
  | nil => exact ⟨x.v, x.u, rfl⟩
  | cons b t ih =>
    obtain ⟨v1, u1, h1⟩ := hf x b
    obtain ⟨v2, u2, h2⟩ := ih (f x b)
    exact ⟨v2, u2, by rw [List.foldl_cons, h2, h1]⟩

/-- Writing an operand of n registers changes v and u registers alone. -/
theorem Group.wrN_eq (x : Group) (n code lane v : Nat) : ∃ vs us, x.wrN n code lane v = { x with v := vs, u := us } := by
  unfold Group.wrN
  split
  · exact ⟨x.v, x.u, rfl⟩
  · exact Group.fold_eq _ _ _ (fun y i => Group.wr_eq y _ _ _)

/-- An operation over lanes changes v and u registers and flags alone. -/
theorem Group.mapLanes_eq (x : Group) (em : Nat) (os : List Opnd) (n code : Nat) (f : Nat → LaneResult) :
    ∃ vs us fl, x.mapLanes em os n code f = { x with v := vs, u := us, flags := fl } := by
  unfold Group.mapLanes
  dsimp only
  obtain ⟨vs, us, h⟩ := Group.fold_eq (fun (y : Group) (r : Nat × LaneResult) => y.wrN n code r.1 r.2.1)
    ((if uniform os then (lanesOf em).take 1 else lanesOf em).map (fun l => (l, f l))) x (fun y r => Group.wrN_eq y _ _ _ _)
  rw [h]
  exact ⟨vs, us, _, rfl⟩

/-- A comparison changes predicates and flags alone. -/
theorem Group.compareLanes_eq (x : Group) (em : Nat) (os : List Opnd) (pd : Nat) (f : Nat → Bool × Nat) :
    ∃ ps fl, x.compareLanes em os pd f = { x with p := ps, flags := fl } := by
  unfold Group.compareLanes
  dsimp only
  split <;> exact ⟨_, _, rfl⟩

/-- A v register read after one was written. -/
theorem Group.rv_setV (x : Group) (r r' l l' v : Nat) (hl : l < 32) (hl' : l' < 32) :
    (x.setV r l v).rv r' l' = if r' = r ∧ l' = l then v % 2 ^ 32 else x.rv r' l' := by
  unfold Group.setV Group.rv
  by_cases h : r' = r ∧ l' = l
  · obtain ⟨rfl, rfl⟩ := h
    simp
  · rw [if_neg h]
    exact congrArg BitVec.toNat (Sparse.look_put_ne _ _ (by omega))

/-- A u register read after one was written. -/
theorem Group.ru_setU (x : Group) (r r' v : Nat) : (x.setU r v).ru r' = if r' = r then v % 2 ^ 32 else x.ru r' := by
  unfold Group.setU Group.ru
  by_cases h : r' = r
  · subst h; simp
  · rw [if_neg h]
    exact congrArg BitVec.toNat (Sparse.look_put_ne _ _ h)

end Sys2Proof.Machine
end

