-- ==== Sys2Proof/Laws/State.lean ====
section
/-! SUPPORT. What the updates of the device leave unchanged: one lemma for each update and each field of `Dev` that it does not write. -/

namespace Sys2Proof.Machine

/-! `Dev.setFtab` changes `core` alone. -/

@[simp] theorem Dev.setFtab_regs (d : Dev) (core slot : Nat) (t : FTab) : (Dev.setFtab d core slot t).regs = d.regs := rfl
@[simp] theorem Dev.setFtab_latch (d : Dev) (core slot : Nat) (t : FTab) : (Dev.setFtab d core slot t).latch = d.latch := rfl
@[simp] theorem Dev.setFtab_written (d : Dev) (core slot : Nat) (t : FTab) : (Dev.setFtab d core slot t).written = d.written := rfl
@[simp] theorem Dev.setFtab_evq (d : Dev) (core slot : Nat) (t : FTab) : (Dev.setFtab d core slot t).evq = d.evq := rfl
@[simp] theorem Dev.setFtab_mem (d : Dev) (core slot : Nat) (t : FTab) : (Dev.setFtab d core slot t).mem = d.mem := rfl
@[simp] theorem Dev.setFtab_array (d : Dev) (core slot : Nat) (t : FTab) : (Dev.setFtab d core slot t).array = d.array := rfl
@[simp] theorem Dev.setFtab_ses (d : Dev) (core slot : Nat) (t : FTab) : (Dev.setFtab d core slot t).ses = d.ses := rfl
@[simp] theorem Dev.setFtab_dma (d : Dev) (core slot : Nat) (t : FTab) : (Dev.setFtab d core slot t).dma = d.dma := rfl
@[simp] theorem Dev.setFtab_rt (d : Dev) (core slot : Nat) (t : FTab) : (Dev.setFtab d core slot t).rt = d.rt := rfl
@[simp] theorem Dev.setFtab_fe (d : Dev) (core slot : Nat) (t : FTab) : (Dev.setFtab d core slot t).fe = d.fe := rfl
@[simp] theorem Dev.setFtab_edu (d : Dev) (core slot : Nat) (t : FTab) : (Dev.setFtab d core slot t).edu = d.edu := rfl
@[simp] theorem Dev.setFtab_fab (d : Dev) (core slot : Nat) (t : FTab) : (Dev.setFtab d core slot t).fab = d.fab := rfl
@[simp] theorem Dev.setFtab_host (d : Dev) (core slot : Nat) (t : FTab) : (Dev.setFtab d core slot t).host = d.host := rfl
@[simp] theorem Dev.setFtab_part (d : Dev) (core slot : Nat) (t : FTab) : (Dev.setFtab d core slot t).part = d.part := rfl
@[simp] theorem Dev.setFtab_mgmt (d : Dev) (core slot : Nat) (t : FTab) : (Dev.setFtab d core slot t).mgmt = d.mgmt := rfl
@[simp] theorem Dev.setFtab_cyc (d : Dev) (core slot : Nat) (t : FTab) : (Dev.setFtab d core slot t).cyc = d.cyc := rfl
@[simp] theorem Dev.setFtab_free (d : Dev) (core slot : Nat) (t : FTab) : (Dev.setFtab d core slot t).free = d.free := rfl
@[simp] theorem Dev.setFtab_out (d : Dev) (core slot : Nat) (t : FTab) : (Dev.setFtab d core slot t).out = d.out := rfl
@[simp] theorem Dev.setFtab_act (d : Dev) (core slot : Nat) (t : FTab) : (Dev.setFtab d core slot t).act = d.act := rfl
@[simp] theorem Dev.setFtab_toAcorn (d : Dev) (core slot : Nat) (t : FTab) : (Dev.setFtab d core slot t).toAcorn = d.toAcorn := rfl

/-! `Dev.portsReady` changes `host` alone. -/

@[simp] theorem Dev.portsReady_regs (d : Dev) : (Dev.portsReady d).regs = d.regs := rfl
@[simp] theorem Dev.portsReady_latch (d : Dev) : (Dev.portsReady d).latch = d.latch := rfl
@[simp] theorem Dev.portsReady_written (d : Dev) : (Dev.portsReady d).written = d.written := rfl
@[simp] theorem Dev.portsReady_evq (d : Dev) : (Dev.portsReady d).evq = d.evq := rfl
@[simp] theorem Dev.portsReady_core (d : Dev) : (Dev.portsReady d).core = d.core := rfl
@[simp] theorem Dev.portsReady_mem (d : Dev) : (Dev.portsReady d).mem = d.mem := rfl
@[simp] theorem Dev.portsReady_array (d : Dev) : (Dev.portsReady d).array = d.array := rfl
@[simp] theorem Dev.portsReady_ses (d : Dev) : (Dev.portsReady d).ses = d.ses := rfl
@[simp] theorem Dev.portsReady_dma (d : Dev) : (Dev.portsReady d).dma = d.dma := rfl
@[simp] theorem Dev.portsReady_rt (d : Dev) : (Dev.portsReady d).rt = d.rt := rfl
@[simp] theorem Dev.portsReady_fe (d : Dev) : (Dev.portsReady d).fe = d.fe := rfl
@[simp] theorem Dev.portsReady_edu (d : Dev) : (Dev.portsReady d).edu = d.edu := rfl
@[simp] theorem Dev.portsReady_fab (d : Dev) : (Dev.portsReady d).fab = d.fab := rfl
@[simp] theorem Dev.portsReady_part (d : Dev) : (Dev.portsReady d).part = d.part := rfl
@[simp] theorem Dev.portsReady_mgmt (d : Dev) : (Dev.portsReady d).mgmt = d.mgmt := rfl
@[simp] theorem Dev.portsReady_cyc (d : Dev) : (Dev.portsReady d).cyc = d.cyc := rfl
@[simp] theorem Dev.portsReady_free (d : Dev) : (Dev.portsReady d).free = d.free := rfl
@[simp] theorem Dev.portsReady_out (d : Dev) : (Dev.portsReady d).out = d.out := rfl
@[simp] theorem Dev.portsReady_act (d : Dev) : (Dev.portsReady d).act = d.act := rfl
@[simp] theorem Dev.portsReady_toAcorn (d : Dev) : (Dev.portsReady d).toAcorn = d.toAcorn := rfl

/-! `Dev.setL1` changes `core` alone. -/

@[simp] theorem Dev.setL1_regs (d : Dev) (core set way : Nat) (l : L1Line) : (Dev.setL1 d core set way l).regs = d.regs := rfl
@[simp] theorem Dev.setL1_latch (d : Dev) (core set way : Nat) (l : L1Line) : (Dev.setL1 d core set way l).latch = d.latch := rfl
@[simp] theorem Dev.setL1_written (d : Dev) (core set way : Nat) (l : L1Line) : (Dev.setL1 d core set way l).written = d.written := rfl
@[simp] theorem Dev.setL1_evq (d : Dev) (core set way : Nat) (l : L1Line) : (Dev.setL1 d core set way l).evq = d.evq := rfl
@[simp] theorem Dev.setL1_mem (d : Dev) (core set way : Nat) (l : L1Line) : (Dev.setL1 d core set way l).mem = d.mem := rfl
@[simp] theorem Dev.setL1_array (d : Dev) (core set way : Nat) (l : L1Line) : (Dev.setL1 d core set way l).array = d.array := rfl
@[simp] theorem Dev.setL1_ses (d : Dev) (core set way : Nat) (l : L1Line) : (Dev.setL1 d core set way l).ses = d.ses := rfl
@[simp] theorem Dev.setL1_dma (d : Dev) (core set way : Nat) (l : L1Line) : (Dev.setL1 d core set way l).dma = d.dma := rfl
@[simp] theorem Dev.setL1_rt (d : Dev) (core set way : Nat) (l : L1Line) : (Dev.setL1 d core set way l).rt = d.rt := rfl
@[simp] theorem Dev.setL1_fe (d : Dev) (core set way : Nat) (l : L1Line) : (Dev.setL1 d core set way l).fe = d.fe := rfl
@[simp] theorem Dev.setL1_edu (d : Dev) (core set way : Nat) (l : L1Line) : (Dev.setL1 d core set way l).edu = d.edu := rfl
@[simp] theorem Dev.setL1_fab (d : Dev) (core set way : Nat) (l : L1Line) : (Dev.setL1 d core set way l).fab = d.fab := rfl
@[simp] theorem Dev.setL1_host (d : Dev) (core set way : Nat) (l : L1Line) : (Dev.setL1 d core set way l).host = d.host := rfl
@[simp] theorem Dev.setL1_part (d : Dev) (core set way : Nat) (l : L1Line) : (Dev.setL1 d core set way l).part = d.part := rfl
@[simp] theorem Dev.setL1_mgmt (d : Dev) (core set way : Nat) (l : L1Line) : (Dev.setL1 d core set way l).mgmt = d.mgmt := rfl
@[simp] theorem Dev.setL1_cyc (d : Dev) (core set way : Nat) (l : L1Line) : (Dev.setL1 d core set way l).cyc = d.cyc := rfl
@[simp] theorem Dev.setL1_free (d : Dev) (core set way : Nat) (l : L1Line) : (Dev.setL1 d core set way l).free = d.free := rfl
@[simp] theorem Dev.setL1_out (d : Dev) (core set way : Nat) (l : L1Line) : (Dev.setL1 d core set way l).out = d.out := rfl
@[simp] theorem Dev.setL1_act (d : Dev) (core set way : Nat) (l : L1Line) : (Dev.setL1 d core set way l).act = d.act := rfl
@[simp] theorem Dev.setL1_toAcorn (d : Dev) (core set way : Nat) (l : L1Line) : (Dev.setL1 d core set way l).toAcorn = d.toAcorn := rfl

/-! `Dev.setHusk` changes `core` alone. -/

@[simp] theorem Dev.setHusk_regs (d : Dev) (core : Nat) (l : List L1Line) : (Dev.setHusk d core l).regs = d.regs := rfl
@[simp] theorem Dev.setHusk_latch (d : Dev) (core : Nat) (l : List L1Line) : (Dev.setHusk d core l).latch = d.latch := rfl
@[simp] theorem Dev.setHusk_written (d : Dev) (core : Nat) (l : List L1Line) : (Dev.setHusk d core l).written = d.written := rfl
@[simp] theorem Dev.setHusk_evq (d : Dev) (core : Nat) (l : List L1Line) : (Dev.setHusk d core l).evq = d.evq := rfl
@[simp] theorem Dev.setHusk_mem (d : Dev) (core : Nat) (l : List L1Line) : (Dev.setHusk d core l).mem = d.mem := rfl
@[simp] theorem Dev.setHusk_array (d : Dev) (core : Nat) (l : List L1Line) : (Dev.setHusk d core l).array = d.array := rfl
@[simp] theorem Dev.setHusk_ses (d : Dev) (core : Nat) (l : List L1Line) : (Dev.setHusk d core l).ses = d.ses := rfl
@[simp] theorem Dev.setHusk_dma (d : Dev) (core : Nat) (l : List L1Line) : (Dev.setHusk d core l).dma = d.dma := rfl
@[simp] theorem Dev.setHusk_rt (d : Dev) (core : Nat) (l : List L1Line) : (Dev.setHusk d core l).rt = d.rt := rfl
@[simp] theorem Dev.setHusk_fe (d : Dev) (core : Nat) (l : List L1Line) : (Dev.setHusk d core l).fe = d.fe := rfl
@[simp] theorem Dev.setHusk_edu (d : Dev) (core : Nat) (l : List L1Line) : (Dev.setHusk d core l).edu = d.edu := rfl
@[simp] theorem Dev.setHusk_fab (d : Dev) (core : Nat) (l : List L1Line) : (Dev.setHusk d core l).fab = d.fab := rfl
@[simp] theorem Dev.setHusk_host (d : Dev) (core : Nat) (l : List L1Line) : (Dev.setHusk d core l).host = d.host := rfl
@[simp] theorem Dev.setHusk_part (d : Dev) (core : Nat) (l : List L1Line) : (Dev.setHusk d core l).part = d.part := rfl
@[simp] theorem Dev.setHusk_mgmt (d : Dev) (core : Nat) (l : List L1Line) : (Dev.setHusk d core l).mgmt = d.mgmt := rfl
@[simp] theorem Dev.setHusk_cyc (d : Dev) (core : Nat) (l : List L1Line) : (Dev.setHusk d core l).cyc = d.cyc := rfl
@[simp] theorem Dev.setHusk_free (d : Dev) (core : Nat) (l : List L1Line) : (Dev.setHusk d core l).free = d.free := rfl
@[simp] theorem Dev.setHusk_out (d : Dev) (core : Nat) (l : List L1Line) : (Dev.setHusk d core l).out = d.out := rfl
@[simp] theorem Dev.setHusk_act (d : Dev) (core : Nat) (l : List L1Line) : (Dev.setHusk d core l).act = d.act := rfl
@[simp] theorem Dev.setHusk_toAcorn (d : Dev) (core : Nat) (l : List L1Line) : (Dev.setHusk d core l).toAcorn = d.toAcorn := rfl

/-! `Dev.mapQueue` changes `fe` alone. -/

@[simp] theorem Dev.mapQueue_regs (d : Dev) (q : Nat) (f : Queue → Queue) : (Dev.mapQueue d q f).regs = d.regs := rfl
@[simp] theorem Dev.mapQueue_latch (d : Dev) (q : Nat) (f : Queue → Queue) : (Dev.mapQueue d q f).latch = d.latch := rfl
@[simp] theorem Dev.mapQueue_written (d : Dev) (q : Nat) (f : Queue → Queue) : (Dev.mapQueue d q f).written = d.written := rfl
@[simp] theorem Dev.mapQueue_evq (d : Dev) (q : Nat) (f : Queue → Queue) : (Dev.mapQueue d q f).evq = d.evq := rfl
@[simp] theorem Dev.mapQueue_core (d : Dev) (q : Nat) (f : Queue → Queue) : (Dev.mapQueue d q f).core = d.core := rfl
@[simp] theorem Dev.mapQueue_mem (d : Dev) (q : Nat) (f : Queue → Queue) : (Dev.mapQueue d q f).mem = d.mem := rfl
@[simp] theorem Dev.mapQueue_array (d : Dev) (q : Nat) (f : Queue → Queue) : (Dev.mapQueue d q f).array = d.array := rfl
@[simp] theorem Dev.mapQueue_ses (d : Dev) (q : Nat) (f : Queue → Queue) : (Dev.mapQueue d q f).ses = d.ses := rfl
@[simp] theorem Dev.mapQueue_dma (d : Dev) (q : Nat) (f : Queue → Queue) : (Dev.mapQueue d q f).dma = d.dma := rfl
@[simp] theorem Dev.mapQueue_rt (d : Dev) (q : Nat) (f : Queue → Queue) : (Dev.mapQueue d q f).rt = d.rt := rfl
@[simp] theorem Dev.mapQueue_edu (d : Dev) (q : Nat) (f : Queue → Queue) : (Dev.mapQueue d q f).edu = d.edu := rfl
@[simp] theorem Dev.mapQueue_fab (d : Dev) (q : Nat) (f : Queue → Queue) : (Dev.mapQueue d q f).fab = d.fab := rfl
@[simp] theorem Dev.mapQueue_host (d : Dev) (q : Nat) (f : Queue → Queue) : (Dev.mapQueue d q f).host = d.host := rfl
@[simp] theorem Dev.mapQueue_part (d : Dev) (q : Nat) (f : Queue → Queue) : (Dev.mapQueue d q f).part = d.part := rfl
@[simp] theorem Dev.mapQueue_mgmt (d : Dev) (q : Nat) (f : Queue → Queue) : (Dev.mapQueue d q f).mgmt = d.mgmt := rfl
@[simp] theorem Dev.mapQueue_cyc (d : Dev) (q : Nat) (f : Queue → Queue) : (Dev.mapQueue d q f).cyc = d.cyc := rfl
@[simp] theorem Dev.mapQueue_free (d : Dev) (q : Nat) (f : Queue → Queue) : (Dev.mapQueue d q f).free = d.free := rfl
@[simp] theorem Dev.mapQueue_out (d : Dev) (q : Nat) (f : Queue → Queue) : (Dev.mapQueue d q f).out = d.out := rfl
@[simp] theorem Dev.mapQueue_act (d : Dev) (q : Nat) (f : Queue → Queue) : (Dev.mapQueue d q f).act = d.act := rfl
@[simp] theorem Dev.mapQueue_toAcorn (d : Dev) (q : Nat) (f : Queue → Queue) : (Dev.mapQueue d q f).toAcorn = d.toAcorn := rfl

/-! `Dev.setColl` changes `fab` alone. -/

@[simp] theorem Dev.setColl_regs (d : Dev) (c : Nat) (x : Coll) : (Dev.setColl d c x).regs = d.regs := rfl
@[simp] theorem Dev.setColl_latch (d : Dev) (c : Nat) (x : Coll) : (Dev.setColl d c x).latch = d.latch := rfl
@[simp] theorem Dev.setColl_written (d : Dev) (c : Nat) (x : Coll) : (Dev.setColl d c x).written = d.written := rfl
@[simp] theorem Dev.setColl_evq (d : Dev) (c : Nat) (x : Coll) : (Dev.setColl d c x).evq = d.evq := rfl
@[simp] theorem Dev.setColl_core (d : Dev) (c : Nat) (x : Coll) : (Dev.setColl d c x).core = d.core := rfl
@[simp] theorem Dev.setColl_mem (d : Dev) (c : Nat) (x : Coll) : (Dev.setColl d c x).mem = d.mem := rfl
@[simp] theorem Dev.setColl_array (d : Dev) (c : Nat) (x : Coll) : (Dev.setColl d c x).array = d.array := rfl
@[simp] theorem Dev.setColl_ses (d : Dev) (c : Nat) (x : Coll) : (Dev.setColl d c x).ses = d.ses := rfl
@[simp] theorem Dev.setColl_dma (d : Dev) (c : Nat) (x : Coll) : (Dev.setColl d c x).dma = d.dma := rfl
@[simp] theorem Dev.setColl_rt (d : Dev) (c : Nat) (x : Coll) : (Dev.setColl d c x).rt = d.rt := rfl
@[simp] theorem Dev.setColl_fe (d : Dev) (c : Nat) (x : Coll) : (Dev.setColl d c x).fe = d.fe := rfl
@[simp] theorem Dev.setColl_edu (d : Dev) (c : Nat) (x : Coll) : (Dev.setColl d c x).edu = d.edu := rfl
@[simp] theorem Dev.setColl_host (d : Dev) (c : Nat) (x : Coll) : (Dev.setColl d c x).host = d.host := rfl
@[simp] theorem Dev.setColl_part (d : Dev) (c : Nat) (x : Coll) : (Dev.setColl d c x).part = d.part := rfl
@[simp] theorem Dev.setColl_mgmt (d : Dev) (c : Nat) (x : Coll) : (Dev.setColl d c x).mgmt = d.mgmt := rfl
@[simp] theorem Dev.setColl_cyc (d : Dev) (c : Nat) (x : Coll) : (Dev.setColl d c x).cyc = d.cyc := rfl
@[simp] theorem Dev.setColl_free (d : Dev) (c : Nat) (x : Coll) : (Dev.setColl d c x).free = d.free := rfl
@[simp] theorem Dev.setColl_out (d : Dev) (c : Nat) (x : Coll) : (Dev.setColl d c x).out = d.out := rfl
@[simp] theorem Dev.setColl_act (d : Dev) (c : Nat) (x : Coll) : (Dev.setColl d c x).act = d.act := rfl
@[simp] theorem Dev.setColl_toAcorn (d : Dev) (c : Nat) (x : Coll) : (Dev.setColl d c x).toAcorn = d.toAcorn := rfl

/-! `Dev.unboard` changes `mem` alone. -/

@[simp] theorem Dev.unboard_regs (d : Dev) (p : Nat → Bool) : (Dev.unboard d p).regs = d.regs := rfl
@[simp] theorem Dev.unboard_latch (d : Dev) (p : Nat → Bool) : (Dev.unboard d p).latch = d.latch := rfl
@[simp] theorem Dev.unboard_written (d : Dev) (p : Nat → Bool) : (Dev.unboard d p).written = d.written := rfl
@[simp] theorem Dev.unboard_evq (d : Dev) (p : Nat → Bool) : (Dev.unboard d p).evq = d.evq := rfl
@[simp] theorem Dev.unboard_core (d : Dev) (p : Nat → Bool) : (Dev.unboard d p).core = d.core := rfl
@[simp] theorem Dev.unboard_array (d : Dev) (p : Nat → Bool) : (Dev.unboard d p).array = d.array := rfl
@[simp] theorem Dev.unboard_ses (d : Dev) (p : Nat → Bool) : (Dev.unboard d p).ses = d.ses := rfl
@[simp] theorem Dev.unboard_dma (d : Dev) (p : Nat → Bool) : (Dev.unboard d p).dma = d.dma := rfl
@[simp] theorem Dev.unboard_rt (d : Dev) (p : Nat → Bool) : (Dev.unboard d p).rt = d.rt := rfl
@[simp] theorem Dev.unboard_fe (d : Dev) (p : Nat → Bool) : (Dev.unboard d p).fe = d.fe := rfl
@[simp] theorem Dev.unboard_edu (d : Dev) (p : Nat → Bool) : (Dev.unboard d p).edu = d.edu := rfl
@[simp] theorem Dev.unboard_fab (d : Dev) (p : Nat → Bool) : (Dev.unboard d p).fab = d.fab := rfl
@[simp] theorem Dev.unboard_host (d : Dev) (p : Nat → Bool) : (Dev.unboard d p).host = d.host := rfl
@[simp] theorem Dev.unboard_part (d : Dev) (p : Nat → Bool) : (Dev.unboard d p).part = d.part := rfl
@[simp] theorem Dev.unboard_mgmt (d : Dev) (p : Nat → Bool) : (Dev.unboard d p).mgmt = d.mgmt := rfl
@[simp] theorem Dev.unboard_cyc (d : Dev) (p : Nat → Bool) : (Dev.unboard d p).cyc = d.cyc := rfl
@[simp] theorem Dev.unboard_free (d : Dev) (p : Nat → Bool) : (Dev.unboard d p).free = d.free := rfl
@[simp] theorem Dev.unboard_out (d : Dev) (p : Nat → Bool) : (Dev.unboard d p).out = d.out := rfl
@[simp] theorem Dev.unboard_act (d : Dev) (p : Nat → Bool) : (Dev.unboard d p).act = d.act := rfl
@[simp] theorem Dev.unboard_toAcorn (d : Dev) (p : Nat → Bool) : (Dev.unboard d p).toAcorn = d.toAcorn := rfl

/-! `Dev.setJobs` changes `edu` alone. -/

@[simp] theorem Dev.setJobs_regs (d : Dev) (u : Nat) (js : List EduJob) : (Dev.setJobs d u js).regs = d.regs := rfl
@[simp] theorem Dev.setJobs_latch (d : Dev) (u : Nat) (js : List EduJob) : (Dev.setJobs d u js).latch = d.latch := rfl
@[simp] theorem Dev.setJobs_written (d : Dev) (u : Nat) (js : List EduJob) : (Dev.setJobs d u js).written = d.written := rfl
@[simp] theorem Dev.setJobs_evq (d : Dev) (u : Nat) (js : List EduJob) : (Dev.setJobs d u js).evq = d.evq := rfl
@[simp] theorem Dev.setJobs_core (d : Dev) (u : Nat) (js : List EduJob) : (Dev.setJobs d u js).core = d.core := rfl
@[simp] theorem Dev.setJobs_mem (d : Dev) (u : Nat) (js : List EduJob) : (Dev.setJobs d u js).mem = d.mem := rfl
@[simp] theorem Dev.setJobs_array (d : Dev) (u : Nat) (js : List EduJob) : (Dev.setJobs d u js).array = d.array := rfl
@[simp] theorem Dev.setJobs_ses (d : Dev) (u : Nat) (js : List EduJob) : (Dev.setJobs d u js).ses = d.ses := rfl
@[simp] theorem Dev.setJobs_dma (d : Dev) (u : Nat) (js : List EduJob) : (Dev.setJobs d u js).dma = d.dma := rfl
@[simp] theorem Dev.setJobs_rt (d : Dev) (u : Nat) (js : List EduJob) : (Dev.setJobs d u js).rt = d.rt := rfl
@[simp] theorem Dev.setJobs_fe (d : Dev) (u : Nat) (js : List EduJob) : (Dev.setJobs d u js).fe = d.fe := rfl
@[simp] theorem Dev.setJobs_fab (d : Dev) (u : Nat) (js : List EduJob) : (Dev.setJobs d u js).fab = d.fab := rfl
@[simp] theorem Dev.setJobs_host (d : Dev) (u : Nat) (js : List EduJob) : (Dev.setJobs d u js).host = d.host := rfl
@[simp] theorem Dev.setJobs_part (d : Dev) (u : Nat) (js : List EduJob) : (Dev.setJobs d u js).part = d.part := rfl
@[simp] theorem Dev.setJobs_mgmt (d : Dev) (u : Nat) (js : List EduJob) : (Dev.setJobs d u js).mgmt = d.mgmt := rfl
@[simp] theorem Dev.setJobs_cyc (d : Dev) (u : Nat) (js : List EduJob) : (Dev.setJobs d u js).cyc = d.cyc := rfl
@[simp] theorem Dev.setJobs_free (d : Dev) (u : Nat) (js : List EduJob) : (Dev.setJobs d u js).free = d.free := rfl
@[simp] theorem Dev.setJobs_out (d : Dev) (u : Nat) (js : List EduJob) : (Dev.setJobs d u js).out = d.out := rfl
@[simp] theorem Dev.setJobs_act (d : Dev) (u : Nat) (js : List EduJob) : (Dev.setJobs d u js).act = d.act := rfl
@[simp] theorem Dev.setJobs_toAcorn (d : Dev) (u : Nat) (js : List EduJob) : (Dev.setJobs d u js).toAcorn = d.toAcorn := rfl

/-! `Dev.setEctx` changes `edu` alone. -/

@[simp] theorem Dev.setEctx_regs (d : Dev) (c : Nat) (x : EduCtx) : (Dev.setEctx d c x).regs = d.regs := rfl
@[simp] theorem Dev.setEctx_latch (d : Dev) (c : Nat) (x : EduCtx) : (Dev.setEctx d c x).latch = d.latch := rfl
@[simp] theorem Dev.setEctx_written (d : Dev) (c : Nat) (x : EduCtx) : (Dev.setEctx d c x).written = d.written := rfl
@[simp] theorem Dev.setEctx_evq (d : Dev) (c : Nat) (x : EduCtx) : (Dev.setEctx d c x).evq = d.evq := rfl
@[simp] theorem Dev.setEctx_core (d : Dev) (c : Nat) (x : EduCtx) : (Dev.setEctx d c x).core = d.core := rfl
@[simp] theorem Dev.setEctx_mem (d : Dev) (c : Nat) (x : EduCtx) : (Dev.setEctx d c x).mem = d.mem := rfl
@[simp] theorem Dev.setEctx_array (d : Dev) (c : Nat) (x : EduCtx) : (Dev.setEctx d c x).array = d.array := rfl
@[simp] theorem Dev.setEctx_ses (d : Dev) (c : Nat) (x : EduCtx) : (Dev.setEctx d c x).ses = d.ses := rfl
@[simp] theorem Dev.setEctx_dma (d : Dev) (c : Nat) (x : EduCtx) : (Dev.setEctx d c x).dma = d.dma := rfl
@[simp] theorem Dev.setEctx_rt (d : Dev) (c : Nat) (x : EduCtx) : (Dev.setEctx d c x).rt = d.rt := rfl
@[simp] theorem Dev.setEctx_fe (d : Dev) (c : Nat) (x : EduCtx) : (Dev.setEctx d c x).fe = d.fe := rfl
@[simp] theorem Dev.setEctx_fab (d : Dev) (c : Nat) (x : EduCtx) : (Dev.setEctx d c x).fab = d.fab := rfl
@[simp] theorem Dev.setEctx_host (d : Dev) (c : Nat) (x : EduCtx) : (Dev.setEctx d c x).host = d.host := rfl
@[simp] theorem Dev.setEctx_part (d : Dev) (c : Nat) (x : EduCtx) : (Dev.setEctx d c x).part = d.part := rfl
@[simp] theorem Dev.setEctx_mgmt (d : Dev) (c : Nat) (x : EduCtx) : (Dev.setEctx d c x).mgmt = d.mgmt := rfl
@[simp] theorem Dev.setEctx_cyc (d : Dev) (c : Nat) (x : EduCtx) : (Dev.setEctx d c x).cyc = d.cyc := rfl
@[simp] theorem Dev.setEctx_free (d : Dev) (c : Nat) (x : EduCtx) : (Dev.setEctx d c x).free = d.free := rfl
@[simp] theorem Dev.setEctx_out (d : Dev) (c : Nat) (x : EduCtx) : (Dev.setEctx d c x).out = d.out := rfl
@[simp] theorem Dev.setEctx_act (d : Dev) (c : Nat) (x : EduCtx) : (Dev.setEctx d c x).act = d.act := rfl
@[simp] theorem Dev.setEctx_toAcorn (d : Dev) (c : Nat) (x : EduCtx) : (Dev.setEctx d c x).toAcorn = d.toAcorn := rfl

/-! `Dev.remoteDrop` changes `ses` alone. -/

@[simp] theorem Dev.remoteDrop_regs (d : Dev) (op : Nat) : (Dev.remoteDrop d op).regs = d.regs := rfl
@[simp] theorem Dev.remoteDrop_latch (d : Dev) (op : Nat) : (Dev.remoteDrop d op).latch = d.latch := rfl
@[simp] theorem Dev.remoteDrop_written (d : Dev) (op : Nat) : (Dev.remoteDrop d op).written = d.written := rfl
@[simp] theorem Dev.remoteDrop_evq (d : Dev) (op : Nat) : (Dev.remoteDrop d op).evq = d.evq := rfl
@[simp] theorem Dev.remoteDrop_core (d : Dev) (op : Nat) : (Dev.remoteDrop d op).core = d.core := rfl
@[simp] theorem Dev.remoteDrop_mem (d : Dev) (op : Nat) : (Dev.remoteDrop d op).mem = d.mem := rfl
@[simp] theorem Dev.remoteDrop_array (d : Dev) (op : Nat) : (Dev.remoteDrop d op).array = d.array := rfl
@[simp] theorem Dev.remoteDrop_dma (d : Dev) (op : Nat) : (Dev.remoteDrop d op).dma = d.dma := rfl
@[simp] theorem Dev.remoteDrop_rt (d : Dev) (op : Nat) : (Dev.remoteDrop d op).rt = d.rt := rfl
@[simp] theorem Dev.remoteDrop_fe (d : Dev) (op : Nat) : (Dev.remoteDrop d op).fe = d.fe := rfl
@[simp] theorem Dev.remoteDrop_edu (d : Dev) (op : Nat) : (Dev.remoteDrop d op).edu = d.edu := rfl
@[simp] theorem Dev.remoteDrop_fab (d : Dev) (op : Nat) : (Dev.remoteDrop d op).fab = d.fab := rfl
@[simp] theorem Dev.remoteDrop_host (d : Dev) (op : Nat) : (Dev.remoteDrop d op).host = d.host := rfl
@[simp] theorem Dev.remoteDrop_part (d : Dev) (op : Nat) : (Dev.remoteDrop d op).part = d.part := rfl
@[simp] theorem Dev.remoteDrop_mgmt (d : Dev) (op : Nat) : (Dev.remoteDrop d op).mgmt = d.mgmt := rfl
@[simp] theorem Dev.remoteDrop_cyc (d : Dev) (op : Nat) : (Dev.remoteDrop d op).cyc = d.cyc := rfl
@[simp] theorem Dev.remoteDrop_free (d : Dev) (op : Nat) : (Dev.remoteDrop d op).free = d.free := rfl
@[simp] theorem Dev.remoteDrop_out (d : Dev) (op : Nat) : (Dev.remoteDrop d op).out = d.out := rfl
@[simp] theorem Dev.remoteDrop_act (d : Dev) (op : Nat) : (Dev.remoteDrop d op).act = d.act := rfl
@[simp] theorem Dev.remoteDrop_toAcorn (d : Dev) (op : Nat) : (Dev.remoteDrop d op).toAcorn = d.toAcorn := rfl

/-! `Dev.setPeer` changes `fab` alone. -/

@[simp] theorem Dev.setPeer_regs (d : Dev) (id : Nat) (x : Peer) : (Dev.setPeer d id x).regs = d.regs := rfl
@[simp] theorem Dev.setPeer_latch (d : Dev) (id : Nat) (x : Peer) : (Dev.setPeer d id x).latch = d.latch := rfl
@[simp] theorem Dev.setPeer_written (d : Dev) (id : Nat) (x : Peer) : (Dev.setPeer d id x).written = d.written := rfl
@[simp] theorem Dev.setPeer_evq (d : Dev) (id : Nat) (x : Peer) : (Dev.setPeer d id x).evq = d.evq := rfl
@[simp] theorem Dev.setPeer_core (d : Dev) (id : Nat) (x : Peer) : (Dev.setPeer d id x).core = d.core := rfl
@[simp] theorem Dev.setPeer_mem (d : Dev) (id : Nat) (x : Peer) : (Dev.setPeer d id x).mem = d.mem := rfl
@[simp] theorem Dev.setPeer_array (d : Dev) (id : Nat) (x : Peer) : (Dev.setPeer d id x).array = d.array := rfl
@[simp] theorem Dev.setPeer_ses (d : Dev) (id : Nat) (x : Peer) : (Dev.setPeer d id x).ses = d.ses := rfl
@[simp] theorem Dev.setPeer_dma (d : Dev) (id : Nat) (x : Peer) : (Dev.setPeer d id x).dma = d.dma := rfl
@[simp] theorem Dev.setPeer_rt (d : Dev) (id : Nat) (x : Peer) : (Dev.setPeer d id x).rt = d.rt := rfl
@[simp] theorem Dev.setPeer_fe (d : Dev) (id : Nat) (x : Peer) : (Dev.setPeer d id x).fe = d.fe := rfl
@[simp] theorem Dev.setPeer_edu (d : Dev) (id : Nat) (x : Peer) : (Dev.setPeer d id x).edu = d.edu := rfl
@[simp] theorem Dev.setPeer_host (d : Dev) (id : Nat) (x : Peer) : (Dev.setPeer d id x).host = d.host := rfl
@[simp] theorem Dev.setPeer_part (d : Dev) (id : Nat) (x : Peer) : (Dev.setPeer d id x).part = d.part := rfl
@[simp] theorem Dev.setPeer_mgmt (d : Dev) (id : Nat) (x : Peer) : (Dev.setPeer d id x).mgmt = d.mgmt := rfl
@[simp] theorem Dev.setPeer_cyc (d : Dev) (id : Nat) (x : Peer) : (Dev.setPeer d id x).cyc = d.cyc := rfl
@[simp] theorem Dev.setPeer_free (d : Dev) (id : Nat) (x : Peer) : (Dev.setPeer d id x).free = d.free := rfl
@[simp] theorem Dev.setPeer_out (d : Dev) (id : Nat) (x : Peer) : (Dev.setPeer d id x).out = d.out := rfl
@[simp] theorem Dev.setPeer_act (d : Dev) (id : Nat) (x : Peer) : (Dev.setPeer d id x).act = d.act := rfl
@[simp] theorem Dev.setPeer_toAcorn (d : Dev) (id : Nat) (x : Peer) : (Dev.setPeer d id x).toAcorn = d.toAcorn := rfl

/-! `Dev.setFlow` changes `fab` alone. -/

@[simp] theorem Dev.setFlow_regs (d : Dev) (peer : Nat) (f : SendFlow) : (Dev.setFlow d peer f).regs = d.regs := rfl
@[simp] theorem Dev.setFlow_latch (d : Dev) (peer : Nat) (f : SendFlow) : (Dev.setFlow d peer f).latch = d.latch := rfl
@[simp] theorem Dev.setFlow_written (d : Dev) (peer : Nat) (f : SendFlow) : (Dev.setFlow d peer f).written = d.written := rfl
@[simp] theorem Dev.setFlow_evq (d : Dev) (peer : Nat) (f : SendFlow) : (Dev.setFlow d peer f).evq = d.evq := rfl
@[simp] theorem Dev.setFlow_core (d : Dev) (peer : Nat) (f : SendFlow) : (Dev.setFlow d peer f).core = d.core := rfl
@[simp] theorem Dev.setFlow_mem (d : Dev) (peer : Nat) (f : SendFlow) : (Dev.setFlow d peer f).mem = d.mem := rfl
@[simp] theorem Dev.setFlow_array (d : Dev) (peer : Nat) (f : SendFlow) : (Dev.setFlow d peer f).array = d.array := rfl
@[simp] theorem Dev.setFlow_ses (d : Dev) (peer : Nat) (f : SendFlow) : (Dev.setFlow d peer f).ses = d.ses := rfl
@[simp] theorem Dev.setFlow_dma (d : Dev) (peer : Nat) (f : SendFlow) : (Dev.setFlow d peer f).dma = d.dma := rfl
@[simp] theorem Dev.setFlow_rt (d : Dev) (peer : Nat) (f : SendFlow) : (Dev.setFlow d peer f).rt = d.rt := rfl
@[simp] theorem Dev.setFlow_fe (d : Dev) (peer : Nat) (f : SendFlow) : (Dev.setFlow d peer f).fe = d.fe := rfl
@[simp] theorem Dev.setFlow_edu (d : Dev) (peer : Nat) (f : SendFlow) : (Dev.setFlow d peer f).edu = d.edu := rfl
@[simp] theorem Dev.setFlow_host (d : Dev) (peer : Nat) (f : SendFlow) : (Dev.setFlow d peer f).host = d.host := rfl
@[simp] theorem Dev.setFlow_part (d : Dev) (peer : Nat) (f : SendFlow) : (Dev.setFlow d peer f).part = d.part := rfl
@[simp] theorem Dev.setFlow_mgmt (d : Dev) (peer : Nat) (f : SendFlow) : (Dev.setFlow d peer f).mgmt = d.mgmt := rfl
@[simp] theorem Dev.setFlow_cyc (d : Dev) (peer : Nat) (f : SendFlow) : (Dev.setFlow d peer f).cyc = d.cyc := rfl
@[simp] theorem Dev.setFlow_free (d : Dev) (peer : Nat) (f : SendFlow) : (Dev.setFlow d peer f).free = d.free := rfl
@[simp] theorem Dev.setFlow_out (d : Dev) (peer : Nat) (f : SendFlow) : (Dev.setFlow d peer f).out = d.out := rfl
@[simp] theorem Dev.setFlow_act (d : Dev) (peer : Nat) (f : SendFlow) : (Dev.setFlow d peer f).act = d.act := rfl
@[simp] theorem Dev.setFlow_toAcorn (d : Dev) (peer : Nat) (f : SendFlow) : (Dev.setFlow d peer f).toAcorn = d.toAcorn := rfl

/-! `Dev.setRflow` changes `fab` alone. -/

@[simp] theorem Dev.setRflow_regs (d : Dev) (id : Nat) (f : RecvFlow) : (Dev.setRflow d id f).regs = d.regs := rfl
@[simp] theorem Dev.setRflow_latch (d : Dev) (id : Nat) (f : RecvFlow) : (Dev.setRflow d id f).latch = d.latch := rfl
@[simp] theorem Dev.setRflow_written (d : Dev) (id : Nat) (f : RecvFlow) : (Dev.setRflow d id f).written = d.written := rfl
@[simp] theorem Dev.setRflow_evq (d : Dev) (id : Nat) (f : RecvFlow) : (Dev.setRflow d id f).evq = d.evq := rfl
@[simp] theorem Dev.setRflow_core (d : Dev) (id : Nat) (f : RecvFlow) : (Dev.setRflow d id f).core = d.core := rfl
@[simp] theorem Dev.setRflow_mem (d : Dev) (id : Nat) (f : RecvFlow) : (Dev.setRflow d id f).mem = d.mem := rfl
@[simp] theorem Dev.setRflow_array (d : Dev) (id : Nat) (f : RecvFlow) : (Dev.setRflow d id f).array = d.array := rfl
@[simp] theorem Dev.setRflow_ses (d : Dev) (id : Nat) (f : RecvFlow) : (Dev.setRflow d id f).ses = d.ses := rfl
@[simp] theorem Dev.setRflow_dma (d : Dev) (id : Nat) (f : RecvFlow) : (Dev.setRflow d id f).dma = d.dma := rfl
@[simp] theorem Dev.setRflow_rt (d : Dev) (id : Nat) (f : RecvFlow) : (Dev.setRflow d id f).rt = d.rt := rfl
@[simp] theorem Dev.setRflow_fe (d : Dev) (id : Nat) (f : RecvFlow) : (Dev.setRflow d id f).fe = d.fe := rfl
@[simp] theorem Dev.setRflow_edu (d : Dev) (id : Nat) (f : RecvFlow) : (Dev.setRflow d id f).edu = d.edu := rfl
@[simp] theorem Dev.setRflow_host (d : Dev) (id : Nat) (f : RecvFlow) : (Dev.setRflow d id f).host = d.host := rfl
@[simp] theorem Dev.setRflow_part (d : Dev) (id : Nat) (f : RecvFlow) : (Dev.setRflow d id f).part = d.part := rfl
@[simp] theorem Dev.setRflow_mgmt (d : Dev) (id : Nat) (f : RecvFlow) : (Dev.setRflow d id f).mgmt = d.mgmt := rfl
@[simp] theorem Dev.setRflow_cyc (d : Dev) (id : Nat) (f : RecvFlow) : (Dev.setRflow d id f).cyc = d.cyc := rfl
@[simp] theorem Dev.setRflow_free (d : Dev) (id : Nat) (f : RecvFlow) : (Dev.setRflow d id f).free = d.free := rfl
@[simp] theorem Dev.setRflow_out (d : Dev) (id : Nat) (f : RecvFlow) : (Dev.setRflow d id f).out = d.out := rfl
@[simp] theorem Dev.setRflow_act (d : Dev) (id : Nat) (f : RecvFlow) : (Dev.setRflow d id f).act = d.act := rfl
@[simp] theorem Dev.setRflow_toAcorn (d : Dev) (id : Nat) (f : RecvFlow) : (Dev.setRflow d id f).toAcorn = d.toAcorn := rfl

/-! `Dev.setCtx` changes `fe` alone. -/

@[simp] theorem Dev.setCtx_regs (d : Dev) (c : Nat) (x : Ctx) : (Dev.setCtx d c x).regs = d.regs := rfl
@[simp] theorem Dev.setCtx_latch (d : Dev) (c : Nat) (x : Ctx) : (Dev.setCtx d c x).latch = d.latch := rfl
@[simp] theorem Dev.setCtx_written (d : Dev) (c : Nat) (x : Ctx) : (Dev.setCtx d c x).written = d.written := rfl
@[simp] theorem Dev.setCtx_evq (d : Dev) (c : Nat) (x : Ctx) : (Dev.setCtx d c x).evq = d.evq := rfl
@[simp] theorem Dev.setCtx_core (d : Dev) (c : Nat) (x : Ctx) : (Dev.setCtx d c x).core = d.core := rfl
@[simp] theorem Dev.setCtx_mem (d : Dev) (c : Nat) (x : Ctx) : (Dev.setCtx d c x).mem = d.mem := rfl
@[simp] theorem Dev.setCtx_array (d : Dev) (c : Nat) (x : Ctx) : (Dev.setCtx d c x).array = d.array := rfl
@[simp] theorem Dev.setCtx_ses (d : Dev) (c : Nat) (x : Ctx) : (Dev.setCtx d c x).ses = d.ses := rfl
@[simp] theorem Dev.setCtx_dma (d : Dev) (c : Nat) (x : Ctx) : (Dev.setCtx d c x).dma = d.dma := rfl
@[simp] theorem Dev.setCtx_rt (d : Dev) (c : Nat) (x : Ctx) : (Dev.setCtx d c x).rt = d.rt := rfl
@[simp] theorem Dev.setCtx_edu (d : Dev) (c : Nat) (x : Ctx) : (Dev.setCtx d c x).edu = d.edu := rfl
@[simp] theorem Dev.setCtx_fab (d : Dev) (c : Nat) (x : Ctx) : (Dev.setCtx d c x).fab = d.fab := rfl
@[simp] theorem Dev.setCtx_host (d : Dev) (c : Nat) (x : Ctx) : (Dev.setCtx d c x).host = d.host := rfl
@[simp] theorem Dev.setCtx_part (d : Dev) (c : Nat) (x : Ctx) : (Dev.setCtx d c x).part = d.part := rfl
@[simp] theorem Dev.setCtx_mgmt (d : Dev) (c : Nat) (x : Ctx) : (Dev.setCtx d c x).mgmt = d.mgmt := rfl
@[simp] theorem Dev.setCtx_cyc (d : Dev) (c : Nat) (x : Ctx) : (Dev.setCtx d c x).cyc = d.cyc := rfl
@[simp] theorem Dev.setCtx_free (d : Dev) (c : Nat) (x : Ctx) : (Dev.setCtx d c x).free = d.free := rfl
@[simp] theorem Dev.setCtx_out (d : Dev) (c : Nat) (x : Ctx) : (Dev.setCtx d c x).out = d.out := rfl
@[simp] theorem Dev.setCtx_act (d : Dev) (c : Nat) (x : Ctx) : (Dev.setCtx d c x).act = d.act := rfl
@[simp] theorem Dev.setCtx_toAcorn (d : Dev) (c : Nat) (x : Ctx) : (Dev.setCtx d c x).toAcorn = d.toAcorn := rfl

/-! `Dev.reclaim` changes `fe` alone. -/

@[simp] theorem Dev.reclaim_regs (d : Dev) : (Dev.reclaim d).regs = d.regs := rfl
@[simp] theorem Dev.reclaim_latch (d : Dev) : (Dev.reclaim d).latch = d.latch := rfl
@[simp] theorem Dev.reclaim_written (d : Dev) : (Dev.reclaim d).written = d.written := rfl
@[simp] theorem Dev.reclaim_evq (d : Dev) : (Dev.reclaim d).evq = d.evq := rfl
@[simp] theorem Dev.reclaim_core (d : Dev) : (Dev.reclaim d).core = d.core := rfl
@[simp] theorem Dev.reclaim_mem (d : Dev) : (Dev.reclaim d).mem = d.mem := rfl
@[simp] theorem Dev.reclaim_array (d : Dev) : (Dev.reclaim d).array = d.array := rfl
@[simp] theorem Dev.reclaim_ses (d : Dev) : (Dev.reclaim d).ses = d.ses := rfl
@[simp] theorem Dev.reclaim_dma (d : Dev) : (Dev.reclaim d).dma = d.dma := rfl
@[simp] theorem Dev.reclaim_rt (d : Dev) : (Dev.reclaim d).rt = d.rt := rfl
@[simp] theorem Dev.reclaim_edu (d : Dev) : (Dev.reclaim d).edu = d.edu := rfl
@[simp] theorem Dev.reclaim_fab (d : Dev) : (Dev.reclaim d).fab = d.fab := rfl
@[simp] theorem Dev.reclaim_host (d : Dev) : (Dev.reclaim d).host = d.host := rfl
@[simp] theorem Dev.reclaim_part (d : Dev) : (Dev.reclaim d).part = d.part := rfl
@[simp] theorem Dev.reclaim_mgmt (d : Dev) : (Dev.reclaim d).mgmt = d.mgmt := rfl
@[simp] theorem Dev.reclaim_cyc (d : Dev) : (Dev.reclaim d).cyc = d.cyc := rfl
@[simp] theorem Dev.reclaim_free (d : Dev) : (Dev.reclaim d).free = d.free := rfl
@[simp] theorem Dev.reclaim_out (d : Dev) : (Dev.reclaim d).out = d.out := rfl
@[simp] theorem Dev.reclaim_act (d : Dev) : (Dev.reclaim d).act = d.act := rfl
@[simp] theorem Dev.reclaim_toAcorn (d : Dev) : (Dev.reclaim d).toAcorn = d.toAcorn := rfl

/-! `Dev.setRun` changes `fe` alone. -/

@[simp] theorem Dev.setRun_regs (d : Dev) (r : GRun) : (Dev.setRun d r).regs = d.regs := rfl
@[simp] theorem Dev.setRun_latch (d : Dev) (r : GRun) : (Dev.setRun d r).latch = d.latch := rfl
@[simp] theorem Dev.setRun_written (d : Dev) (r : GRun) : (Dev.setRun d r).written = d.written := rfl
@[simp] theorem Dev.setRun_evq (d : Dev) (r : GRun) : (Dev.setRun d r).evq = d.evq := rfl
@[simp] theorem Dev.setRun_core (d : Dev) (r : GRun) : (Dev.setRun d r).core = d.core := rfl
@[simp] theorem Dev.setRun_mem (d : Dev) (r : GRun) : (Dev.setRun d r).mem = d.mem := rfl
@[simp] theorem Dev.setRun_array (d : Dev) (r : GRun) : (Dev.setRun d r).array = d.array := rfl
@[simp] theorem Dev.setRun_ses (d : Dev) (r : GRun) : (Dev.setRun d r).ses = d.ses := rfl
@[simp] theorem Dev.setRun_dma (d : Dev) (r : GRun) : (Dev.setRun d r).dma = d.dma := rfl
@[simp] theorem Dev.setRun_rt (d : Dev) (r : GRun) : (Dev.setRun d r).rt = d.rt := rfl
@[simp] theorem Dev.setRun_edu (d : Dev) (r : GRun) : (Dev.setRun d r).edu = d.edu := rfl
@[simp] theorem Dev.setRun_fab (d : Dev) (r : GRun) : (Dev.setRun d r).fab = d.fab := rfl
@[simp] theorem Dev.setRun_host (d : Dev) (r : GRun) : (Dev.setRun d r).host = d.host := rfl
@[simp] theorem Dev.setRun_part (d : Dev) (r : GRun) : (Dev.setRun d r).part = d.part := rfl
@[simp] theorem Dev.setRun_mgmt (d : Dev) (r : GRun) : (Dev.setRun d r).mgmt = d.mgmt := rfl
@[simp] theorem Dev.setRun_cyc (d : Dev) (r : GRun) : (Dev.setRun d r).cyc = d.cyc := rfl
@[simp] theorem Dev.setRun_free (d : Dev) (r : GRun) : (Dev.setRun d r).free = d.free := rfl
@[simp] theorem Dev.setRun_out (d : Dev) (r : GRun) : (Dev.setRun d r).out = d.out := rfl
@[simp] theorem Dev.setRun_act (d : Dev) (r : GRun) : (Dev.setRun d r).act = d.act := rfl
@[simp] theorem Dev.setRun_toAcorn (d : Dev) (r : GRun) : (Dev.setRun d r).toAcorn = d.toAcorn := rfl

/-! `Dev.msixReset` changes `host` alone. -/

@[simp] theorem Dev.msixReset_regs (d : Dev) (f : Nat) : (Dev.msixReset d f).regs = d.regs := rfl
@[simp] theorem Dev.msixReset_latch (d : Dev) (f : Nat) : (Dev.msixReset d f).latch = d.latch := rfl
@[simp] theorem Dev.msixReset_written (d : Dev) (f : Nat) : (Dev.msixReset d f).written = d.written := rfl
@[simp] theorem Dev.msixReset_evq (d : Dev) (f : Nat) : (Dev.msixReset d f).evq = d.evq := rfl
@[simp] theorem Dev.msixReset_core (d : Dev) (f : Nat) : (Dev.msixReset d f).core = d.core := rfl
@[simp] theorem Dev.msixReset_mem (d : Dev) (f : Nat) : (Dev.msixReset d f).mem = d.mem := rfl
@[simp] theorem Dev.msixReset_array (d : Dev) (f : Nat) : (Dev.msixReset d f).array = d.array := rfl
@[simp] theorem Dev.msixReset_ses (d : Dev) (f : Nat) : (Dev.msixReset d f).ses = d.ses := rfl
@[simp] theorem Dev.msixReset_dma (d : Dev) (f : Nat) : (Dev.msixReset d f).dma = d.dma := rfl
@[simp] theorem Dev.msixReset_rt (d : Dev) (f : Nat) : (Dev.msixReset d f).rt = d.rt := rfl
@[simp] theorem Dev.msixReset_fe (d : Dev) (f : Nat) : (Dev.msixReset d f).fe = d.fe := rfl
@[simp] theorem Dev.msixReset_edu (d : Dev) (f : Nat) : (Dev.msixReset d f).edu = d.edu := rfl
@[simp] theorem Dev.msixReset_fab (d : Dev) (f : Nat) : (Dev.msixReset d f).fab = d.fab := rfl
@[simp] theorem Dev.msixReset_part (d : Dev) (f : Nat) : (Dev.msixReset d f).part = d.part := rfl
@[simp] theorem Dev.msixReset_mgmt (d : Dev) (f : Nat) : (Dev.msixReset d f).mgmt = d.mgmt := rfl
@[simp] theorem Dev.msixReset_cyc (d : Dev) (f : Nat) : (Dev.msixReset d f).cyc = d.cyc := rfl
@[simp] theorem Dev.msixReset_free (d : Dev) (f : Nat) : (Dev.msixReset d f).free = d.free := rfl
@[simp] theorem Dev.msixReset_out (d : Dev) (f : Nat) : (Dev.msixReset d f).out = d.out := rfl
@[simp] theorem Dev.msixReset_act (d : Dev) (f : Nat) : (Dev.msixReset d f).act = d.act := rfl
@[simp] theorem Dev.msixReset_toAcorn (d : Dev) (f : Nat) : (Dev.msixReset d f).toAcorn = d.toAcorn := rfl

/-! `Dev.note` changes `written` alone. -/

@[simp] theorem Dev.note_regs (d : Dev) (off value : Nat) : (Dev.note d off value).regs = d.regs := rfl
@[simp] theorem Dev.note_latch (d : Dev) (off value : Nat) : (Dev.note d off value).latch = d.latch := rfl
@[simp] theorem Dev.note_evq (d : Dev) (off value : Nat) : (Dev.note d off value).evq = d.evq := rfl
@[simp] theorem Dev.note_core (d : Dev) (off value : Nat) : (Dev.note d off value).core = d.core := rfl
@[simp] theorem Dev.note_mem (d : Dev) (off value : Nat) : (Dev.note d off value).mem = d.mem := rfl
@[simp] theorem Dev.note_array (d : Dev) (off value : Nat) : (Dev.note d off value).array = d.array := rfl
@[simp] theorem Dev.note_ses (d : Dev) (off value : Nat) : (Dev.note d off value).ses = d.ses := rfl
@[simp] theorem Dev.note_dma (d : Dev) (off value : Nat) : (Dev.note d off value).dma = d.dma := rfl
@[simp] theorem Dev.note_rt (d : Dev) (off value : Nat) : (Dev.note d off value).rt = d.rt := rfl
@[simp] theorem Dev.note_fe (d : Dev) (off value : Nat) : (Dev.note d off value).fe = d.fe := rfl
@[simp] theorem Dev.note_edu (d : Dev) (off value : Nat) : (Dev.note d off value).edu = d.edu := rfl
@[simp] theorem Dev.note_fab (d : Dev) (off value : Nat) : (Dev.note d off value).fab = d.fab := rfl
@[simp] theorem Dev.note_host (d : Dev) (off value : Nat) : (Dev.note d off value).host = d.host := rfl
@[simp] theorem Dev.note_part (d : Dev) (off value : Nat) : (Dev.note d off value).part = d.part := rfl
@[simp] theorem Dev.note_mgmt (d : Dev) (off value : Nat) : (Dev.note d off value).mgmt = d.mgmt := rfl
@[simp] theorem Dev.note_cyc (d : Dev) (off value : Nat) : (Dev.note d off value).cyc = d.cyc := rfl
@[simp] theorem Dev.note_free (d : Dev) (off value : Nat) : (Dev.note d off value).free = d.free := rfl
@[simp] theorem Dev.note_out (d : Dev) (off value : Nat) : (Dev.note d off value).out = d.out := rfl
@[simp] theorem Dev.note_act (d : Dev) (off value : Nat) : (Dev.note d off value).act = d.act := rfl
@[simp] theorem Dev.note_toAcorn (d : Dev) (off value : Nat) : (Dev.note d off value).toAcorn = d.toAcorn := rfl

/-! `Dev.dropLaunch` changes `core` alone. -/

@[simp] theorem Dev.dropLaunch_regs (d : Dev) (id : Nat) : (Dev.dropLaunch d id).regs = d.regs := rfl
@[simp] theorem Dev.dropLaunch_latch (d : Dev) (id : Nat) : (Dev.dropLaunch d id).latch = d.latch := rfl
@[simp] theorem Dev.dropLaunch_written (d : Dev) (id : Nat) : (Dev.dropLaunch d id).written = d.written := rfl
@[simp] theorem Dev.dropLaunch_evq (d : Dev) (id : Nat) : (Dev.dropLaunch d id).evq = d.evq := rfl
@[simp] theorem Dev.dropLaunch_mem (d : Dev) (id : Nat) : (Dev.dropLaunch d id).mem = d.mem := rfl
@[simp] theorem Dev.dropLaunch_array (d : Dev) (id : Nat) : (Dev.dropLaunch d id).array = d.array := rfl
@[simp] theorem Dev.dropLaunch_ses (d : Dev) (id : Nat) : (Dev.dropLaunch d id).ses = d.ses := rfl
@[simp] theorem Dev.dropLaunch_dma (d : Dev) (id : Nat) : (Dev.dropLaunch d id).dma = d.dma := rfl
@[simp] theorem Dev.dropLaunch_rt (d : Dev) (id : Nat) : (Dev.dropLaunch d id).rt = d.rt := rfl
@[simp] theorem Dev.dropLaunch_fe (d : Dev) (id : Nat) : (Dev.dropLaunch d id).fe = d.fe := rfl
@[simp] theorem Dev.dropLaunch_edu (d : Dev) (id : Nat) : (Dev.dropLaunch d id).edu = d.edu := rfl
@[simp] theorem Dev.dropLaunch_fab (d : Dev) (id : Nat) : (Dev.dropLaunch d id).fab = d.fab := rfl
@[simp] theorem Dev.dropLaunch_host (d : Dev) (id : Nat) : (Dev.dropLaunch d id).host = d.host := rfl
@[simp] theorem Dev.dropLaunch_part (d : Dev) (id : Nat) : (Dev.dropLaunch d id).part = d.part := rfl
@[simp] theorem Dev.dropLaunch_mgmt (d : Dev) (id : Nat) : (Dev.dropLaunch d id).mgmt = d.mgmt := rfl
@[simp] theorem Dev.dropLaunch_cyc (d : Dev) (id : Nat) : (Dev.dropLaunch d id).cyc = d.cyc := rfl
@[simp] theorem Dev.dropLaunch_free (d : Dev) (id : Nat) : (Dev.dropLaunch d id).free = d.free := rfl
@[simp] theorem Dev.dropLaunch_out (d : Dev) (id : Nat) : (Dev.dropLaunch d id).out = d.out := rfl
@[simp] theorem Dev.dropLaunch_act (d : Dev) (id : Nat) : (Dev.dropLaunch d id).act = d.act := rfl
@[simp] theorem Dev.dropLaunch_toAcorn (d : Dev) (id : Nat) : (Dev.dropLaunch d id).toAcorn = d.toAcorn := rfl

/-! `Dev.setCredit` changes `mem` alone. -/

@[simp] theorem Dev.setCredit_regs (d : Dev) (s r : Nat) (c : Credit) : (Dev.setCredit d s r c).regs = d.regs := rfl
@[simp] theorem Dev.setCredit_latch (d : Dev) (s r : Nat) (c : Credit) : (Dev.setCredit d s r c).latch = d.latch := rfl
@[simp] theorem Dev.setCredit_written (d : Dev) (s r : Nat) (c : Credit) : (Dev.setCredit d s r c).written = d.written := rfl
@[simp] theorem Dev.setCredit_evq (d : Dev) (s r : Nat) (c : Credit) : (Dev.setCredit d s r c).evq = d.evq := rfl
@[simp] theorem Dev.setCredit_core (d : Dev) (s r : Nat) (c : Credit) : (Dev.setCredit d s r c).core = d.core := rfl
@[simp] theorem Dev.setCredit_array (d : Dev) (s r : Nat) (c : Credit) : (Dev.setCredit d s r c).array = d.array := rfl
@[simp] theorem Dev.setCredit_ses (d : Dev) (s r : Nat) (c : Credit) : (Dev.setCredit d s r c).ses = d.ses := rfl
@[simp] theorem Dev.setCredit_dma (d : Dev) (s r : Nat) (c : Credit) : (Dev.setCredit d s r c).dma = d.dma := rfl
@[simp] theorem Dev.setCredit_rt (d : Dev) (s r : Nat) (c : Credit) : (Dev.setCredit d s r c).rt = d.rt := rfl
@[simp] theorem Dev.setCredit_fe (d : Dev) (s r : Nat) (c : Credit) : (Dev.setCredit d s r c).fe = d.fe := rfl
@[simp] theorem Dev.setCredit_edu (d : Dev) (s r : Nat) (c : Credit) : (Dev.setCredit d s r c).edu = d.edu := rfl
@[simp] theorem Dev.setCredit_fab (d : Dev) (s r : Nat) (c : Credit) : (Dev.setCredit d s r c).fab = d.fab := rfl
@[simp] theorem Dev.setCredit_host (d : Dev) (s r : Nat) (c : Credit) : (Dev.setCredit d s r c).host = d.host := rfl
@[simp] theorem Dev.setCredit_part (d : Dev) (s r : Nat) (c : Credit) : (Dev.setCredit d s r c).part = d.part := rfl
@[simp] theorem Dev.setCredit_mgmt (d : Dev) (s r : Nat) (c : Credit) : (Dev.setCredit d s r c).mgmt = d.mgmt := rfl
@[simp] theorem Dev.setCredit_cyc (d : Dev) (s r : Nat) (c : Credit) : (Dev.setCredit d s r c).cyc = d.cyc := rfl
@[simp] theorem Dev.setCredit_free (d : Dev) (s r : Nat) (c : Credit) : (Dev.setCredit d s r c).free = d.free := rfl
@[simp] theorem Dev.setCredit_out (d : Dev) (s r : Nat) (c : Credit) : (Dev.setCredit d s r c).out = d.out := rfl
@[simp] theorem Dev.setCredit_act (d : Dev) (s r : Nat) (c : Credit) : (Dev.setCredit d s r c).act = d.act := rfl
@[simp] theorem Dev.setCredit_toAcorn (d : Dev) (s r : Nat) (c : Credit) : (Dev.setCredit d s r c).toAcorn = d.toAcorn := rfl

/-! `Dev.setBuddy` changes `fab` alone. -/

@[simp] theorem Dev.setBuddy_regs (d : Dev) (b : Buddy) : (Dev.setBuddy d b).regs = d.regs := rfl
@[simp] theorem Dev.setBuddy_latch (d : Dev) (b : Buddy) : (Dev.setBuddy d b).latch = d.latch := rfl
@[simp] theorem Dev.setBuddy_written (d : Dev) (b : Buddy) : (Dev.setBuddy d b).written = d.written := rfl
@[simp] theorem Dev.setBuddy_evq (d : Dev) (b : Buddy) : (Dev.setBuddy d b).evq = d.evq := rfl
@[simp] theorem Dev.setBuddy_core (d : Dev) (b : Buddy) : (Dev.setBuddy d b).core = d.core := rfl
@[simp] theorem Dev.setBuddy_mem (d : Dev) (b : Buddy) : (Dev.setBuddy d b).mem = d.mem := rfl
@[simp] theorem Dev.setBuddy_array (d : Dev) (b : Buddy) : (Dev.setBuddy d b).array = d.array := rfl
@[simp] theorem Dev.setBuddy_ses (d : Dev) (b : Buddy) : (Dev.setBuddy d b).ses = d.ses := rfl
@[simp] theorem Dev.setBuddy_dma (d : Dev) (b : Buddy) : (Dev.setBuddy d b).dma = d.dma := rfl
@[simp] theorem Dev.setBuddy_rt (d : Dev) (b : Buddy) : (Dev.setBuddy d b).rt = d.rt := rfl
@[simp] theorem Dev.setBuddy_fe (d : Dev) (b : Buddy) : (Dev.setBuddy d b).fe = d.fe := rfl
@[simp] theorem Dev.setBuddy_edu (d : Dev) (b : Buddy) : (Dev.setBuddy d b).edu = d.edu := rfl
@[simp] theorem Dev.setBuddy_host (d : Dev) (b : Buddy) : (Dev.setBuddy d b).host = d.host := rfl
@[simp] theorem Dev.setBuddy_part (d : Dev) (b : Buddy) : (Dev.setBuddy d b).part = d.part := rfl
@[simp] theorem Dev.setBuddy_mgmt (d : Dev) (b : Buddy) : (Dev.setBuddy d b).mgmt = d.mgmt := rfl
@[simp] theorem Dev.setBuddy_cyc (d : Dev) (b : Buddy) : (Dev.setBuddy d b).cyc = d.cyc := rfl
@[simp] theorem Dev.setBuddy_free (d : Dev) (b : Buddy) : (Dev.setBuddy d b).free = d.free := rfl
@[simp] theorem Dev.setBuddy_out (d : Dev) (b : Buddy) : (Dev.setBuddy d b).out = d.out := rfl
@[simp] theorem Dev.setBuddy_act (d : Dev) (b : Buddy) : (Dev.setBuddy d b).act = d.act := rfl
@[simp] theorem Dev.setBuddy_toAcorn (d : Dev) (b : Buddy) : (Dev.setBuddy d b).toAcorn = d.toAcorn := rfl

/-! `Dev.setL2` changes `mem` alone. -/

@[simp] theorem Dev.setL2_regs (d : Dev) (s : Nat) (l : L2Sector) : (Dev.setL2 d s l).regs = d.regs := rfl
@[simp] theorem Dev.setL2_latch (d : Dev) (s : Nat) (l : L2Sector) : (Dev.setL2 d s l).latch = d.latch := rfl
@[simp] theorem Dev.setL2_written (d : Dev) (s : Nat) (l : L2Sector) : (Dev.setL2 d s l).written = d.written := rfl
@[simp] theorem Dev.setL2_evq (d : Dev) (s : Nat) (l : L2Sector) : (Dev.setL2 d s l).evq = d.evq := rfl
@[simp] theorem Dev.setL2_core (d : Dev) (s : Nat) (l : L2Sector) : (Dev.setL2 d s l).core = d.core := rfl
@[simp] theorem Dev.setL2_array (d : Dev) (s : Nat) (l : L2Sector) : (Dev.setL2 d s l).array = d.array := rfl
@[simp] theorem Dev.setL2_ses (d : Dev) (s : Nat) (l : L2Sector) : (Dev.setL2 d s l).ses = d.ses := rfl
@[simp] theorem Dev.setL2_dma (d : Dev) (s : Nat) (l : L2Sector) : (Dev.setL2 d s l).dma = d.dma := rfl
@[simp] theorem Dev.setL2_rt (d : Dev) (s : Nat) (l : L2Sector) : (Dev.setL2 d s l).rt = d.rt := rfl
@[simp] theorem Dev.setL2_fe (d : Dev) (s : Nat) (l : L2Sector) : (Dev.setL2 d s l).fe = d.fe := rfl
@[simp] theorem Dev.setL2_edu (d : Dev) (s : Nat) (l : L2Sector) : (Dev.setL2 d s l).edu = d.edu := rfl
@[simp] theorem Dev.setL2_fab (d : Dev) (s : Nat) (l : L2Sector) : (Dev.setL2 d s l).fab = d.fab := rfl
@[simp] theorem Dev.setL2_host (d : Dev) (s : Nat) (l : L2Sector) : (Dev.setL2 d s l).host = d.host := rfl
@[simp] theorem Dev.setL2_part (d : Dev) (s : Nat) (l : L2Sector) : (Dev.setL2 d s l).part = d.part := rfl
@[simp] theorem Dev.setL2_mgmt (d : Dev) (s : Nat) (l : L2Sector) : (Dev.setL2 d s l).mgmt = d.mgmt := rfl
@[simp] theorem Dev.setL2_cyc (d : Dev) (s : Nat) (l : L2Sector) : (Dev.setL2 d s l).cyc = d.cyc := rfl
@[simp] theorem Dev.setL2_free (d : Dev) (s : Nat) (l : L2Sector) : (Dev.setL2 d s l).free = d.free := rfl
@[simp] theorem Dev.setL2_out (d : Dev) (s : Nat) (l : L2Sector) : (Dev.setL2 d s l).out = d.out := rfl
@[simp] theorem Dev.setL2_act (d : Dev) (s : Nat) (l : L2Sector) : (Dev.setL2 d s l).act = d.act := rfl
@[simp] theorem Dev.setL2_toAcorn (d : Dev) (s : Nat) (l : L2Sector) : (Dev.setL2 d s l).toAcorn = d.toAcorn := rfl

/-! `Dev.l2Seat` changes `mem` alone. -/

@[simp] theorem Dev.l2Seat_regs (d : Dev) (line way : Nat) (bulk : Bool) : (Dev.l2Seat d line way bulk).regs = d.regs := rfl
@[simp] theorem Dev.l2Seat_latch (d : Dev) (line way : Nat) (bulk : Bool) : (Dev.l2Seat d line way bulk).latch = d.latch := rfl
@[simp] theorem Dev.l2Seat_written (d : Dev) (line way : Nat) (bulk : Bool) : (Dev.l2Seat d line way bulk).written = d.written := rfl
@[simp] theorem Dev.l2Seat_evq (d : Dev) (line way : Nat) (bulk : Bool) : (Dev.l2Seat d line way bulk).evq = d.evq := rfl
@[simp] theorem Dev.l2Seat_core (d : Dev) (line way : Nat) (bulk : Bool) : (Dev.l2Seat d line way bulk).core = d.core := rfl
@[simp] theorem Dev.l2Seat_array (d : Dev) (line way : Nat) (bulk : Bool) : (Dev.l2Seat d line way bulk).array = d.array := rfl
@[simp] theorem Dev.l2Seat_ses (d : Dev) (line way : Nat) (bulk : Bool) : (Dev.l2Seat d line way bulk).ses = d.ses := rfl
@[simp] theorem Dev.l2Seat_dma (d : Dev) (line way : Nat) (bulk : Bool) : (Dev.l2Seat d line way bulk).dma = d.dma := rfl
@[simp] theorem Dev.l2Seat_rt (d : Dev) (line way : Nat) (bulk : Bool) : (Dev.l2Seat d line way bulk).rt = d.rt := rfl
@[simp] theorem Dev.l2Seat_fe (d : Dev) (line way : Nat) (bulk : Bool) : (Dev.l2Seat d line way bulk).fe = d.fe := rfl
@[simp] theorem Dev.l2Seat_edu (d : Dev) (line way : Nat) (bulk : Bool) : (Dev.l2Seat d line way bulk).edu = d.edu := rfl
@[simp] theorem Dev.l2Seat_fab (d : Dev) (line way : Nat) (bulk : Bool) : (Dev.l2Seat d line way bulk).fab = d.fab := rfl
@[simp] theorem Dev.l2Seat_host (d : Dev) (line way : Nat) (bulk : Bool) : (Dev.l2Seat d line way bulk).host = d.host := rfl
@[simp] theorem Dev.l2Seat_part (d : Dev) (line way : Nat) (bulk : Bool) : (Dev.l2Seat d line way bulk).part = d.part := rfl
@[simp] theorem Dev.l2Seat_mgmt (d : Dev) (line way : Nat) (bulk : Bool) : (Dev.l2Seat d line way bulk).mgmt = d.mgmt := rfl
@[simp] theorem Dev.l2Seat_cyc (d : Dev) (line way : Nat) (bulk : Bool) : (Dev.l2Seat d line way bulk).cyc = d.cyc := rfl
@[simp] theorem Dev.l2Seat_free (d : Dev) (line way : Nat) (bulk : Bool) : (Dev.l2Seat d line way bulk).free = d.free := rfl
@[simp] theorem Dev.l2Seat_out (d : Dev) (line way : Nat) (bulk : Bool) : (Dev.l2Seat d line way bulk).out = d.out := rfl
@[simp] theorem Dev.l2Seat_act (d : Dev) (line way : Nat) (bulk : Bool) : (Dev.l2Seat d line way bulk).act = d.act := rfl
@[simp] theorem Dev.l2Seat_toAcorn (d : Dev) (line way : Nat) (bulk : Bool) : (Dev.l2Seat d line way bulk).toAcorn = d.toAcorn := rfl

/-! `Dev.setSes` changes `ses` alone. -/

@[simp] theorem Dev.setSes_regs (d : Dev) (a v : Nat) : (Dev.setSes d a v).regs = d.regs := rfl
@[simp] theorem Dev.setSes_latch (d : Dev) (a v : Nat) : (Dev.setSes d a v).latch = d.latch := rfl
@[simp] theorem Dev.setSes_written (d : Dev) (a v : Nat) : (Dev.setSes d a v).written = d.written := rfl
@[simp] theorem Dev.setSes_evq (d : Dev) (a v : Nat) : (Dev.setSes d a v).evq = d.evq := rfl
@[simp] theorem Dev.setSes_core (d : Dev) (a v : Nat) : (Dev.setSes d a v).core = d.core := rfl
@[simp] theorem Dev.setSes_mem (d : Dev) (a v : Nat) : (Dev.setSes d a v).mem = d.mem := rfl
@[simp] theorem Dev.setSes_array (d : Dev) (a v : Nat) : (Dev.setSes d a v).array = d.array := rfl
@[simp] theorem Dev.setSes_dma (d : Dev) (a v : Nat) : (Dev.setSes d a v).dma = d.dma := rfl
@[simp] theorem Dev.setSes_rt (d : Dev) (a v : Nat) : (Dev.setSes d a v).rt = d.rt := rfl
@[simp] theorem Dev.setSes_fe (d : Dev) (a v : Nat) : (Dev.setSes d a v).fe = d.fe := rfl
@[simp] theorem Dev.setSes_edu (d : Dev) (a v : Nat) : (Dev.setSes d a v).edu = d.edu := rfl
@[simp] theorem Dev.setSes_fab (d : Dev) (a v : Nat) : (Dev.setSes d a v).fab = d.fab := rfl
@[simp] theorem Dev.setSes_host (d : Dev) (a v : Nat) : (Dev.setSes d a v).host = d.host := rfl
@[simp] theorem Dev.setSes_part (d : Dev) (a v : Nat) : (Dev.setSes d a v).part = d.part := rfl
@[simp] theorem Dev.setSes_mgmt (d : Dev) (a v : Nat) : (Dev.setSes d a v).mgmt = d.mgmt := rfl
@[simp] theorem Dev.setSes_cyc (d : Dev) (a v : Nat) : (Dev.setSes d a v).cyc = d.cyc := rfl
@[simp] theorem Dev.setSes_free (d : Dev) (a v : Nat) : (Dev.setSes d a v).free = d.free := rfl
@[simp] theorem Dev.setSes_out (d : Dev) (a v : Nat) : (Dev.setSes d a v).out = d.out := rfl
@[simp] theorem Dev.setSes_act (d : Dev) (a v : Nat) : (Dev.setSes d a v).act = d.act := rfl
@[simp] theorem Dev.setSes_toAcorn (d : Dev) (a v : Nat) : (Dev.setSes d a v).toAcorn = d.toAcorn := rfl

/-! `Dev.mg` changes `mgmt` alone. -/

@[simp] theorem Dev.mg_regs (d : Dev) (f : MgmtSys → MgmtSys) : (Dev.mg d f).regs = d.regs := rfl
@[simp] theorem Dev.mg_latch (d : Dev) (f : MgmtSys → MgmtSys) : (Dev.mg d f).latch = d.latch := rfl
@[simp] theorem Dev.mg_written (d : Dev) (f : MgmtSys → MgmtSys) : (Dev.mg d f).written = d.written := rfl
@[simp] theorem Dev.mg_evq (d : Dev) (f : MgmtSys → MgmtSys) : (Dev.mg d f).evq = d.evq := rfl
@[simp] theorem Dev.mg_core (d : Dev) (f : MgmtSys → MgmtSys) : (Dev.mg d f).core = d.core := rfl
@[simp] theorem Dev.mg_mem (d : Dev) (f : MgmtSys → MgmtSys) : (Dev.mg d f).mem = d.mem := rfl
@[simp] theorem Dev.mg_array (d : Dev) (f : MgmtSys → MgmtSys) : (Dev.mg d f).array = d.array := rfl
@[simp] theorem Dev.mg_ses (d : Dev) (f : MgmtSys → MgmtSys) : (Dev.mg d f).ses = d.ses := rfl
@[simp] theorem Dev.mg_dma (d : Dev) (f : MgmtSys → MgmtSys) : (Dev.mg d f).dma = d.dma := rfl
@[simp] theorem Dev.mg_rt (d : Dev) (f : MgmtSys → MgmtSys) : (Dev.mg d f).rt = d.rt := rfl
@[simp] theorem Dev.mg_fe (d : Dev) (f : MgmtSys → MgmtSys) : (Dev.mg d f).fe = d.fe := rfl
@[simp] theorem Dev.mg_edu (d : Dev) (f : MgmtSys → MgmtSys) : (Dev.mg d f).edu = d.edu := rfl
@[simp] theorem Dev.mg_fab (d : Dev) (f : MgmtSys → MgmtSys) : (Dev.mg d f).fab = d.fab := rfl
@[simp] theorem Dev.mg_host (d : Dev) (f : MgmtSys → MgmtSys) : (Dev.mg d f).host = d.host := rfl
@[simp] theorem Dev.mg_part (d : Dev) (f : MgmtSys → MgmtSys) : (Dev.mg d f).part = d.part := rfl
@[simp] theorem Dev.mg_cyc (d : Dev) (f : MgmtSys → MgmtSys) : (Dev.mg d f).cyc = d.cyc := rfl
@[simp] theorem Dev.mg_free (d : Dev) (f : MgmtSys → MgmtSys) : (Dev.mg d f).free = d.free := rfl
@[simp] theorem Dev.mg_out (d : Dev) (f : MgmtSys → MgmtSys) : (Dev.mg d f).out = d.out := rfl
@[simp] theorem Dev.mg_act (d : Dev) (f : MgmtSys → MgmtSys) : (Dev.mg d f).act = d.act := rfl
@[simp] theorem Dev.mg_toAcorn (d : Dev) (f : MgmtSys → MgmtSys) : (Dev.mg d f).toAcorn = d.toAcorn := rfl

/-! `Dev.setReg` changes `regs` alone. -/

@[simp] theorem Dev.setReg_latch (d : Dev) (off v : Nat) : (Dev.setReg d off v).latch = d.latch := rfl
@[simp] theorem Dev.setReg_written (d : Dev) (off v : Nat) : (Dev.setReg d off v).written = d.written := rfl
@[simp] theorem Dev.setReg_evq (d : Dev) (off v : Nat) : (Dev.setReg d off v).evq = d.evq := rfl
@[simp] theorem Dev.setReg_core (d : Dev) (off v : Nat) : (Dev.setReg d off v).core = d.core := rfl
@[simp] theorem Dev.setReg_mem (d : Dev) (off v : Nat) : (Dev.setReg d off v).mem = d.mem := rfl
@[simp] theorem Dev.setReg_array (d : Dev) (off v : Nat) : (Dev.setReg d off v).array = d.array := rfl
@[simp] theorem Dev.setReg_ses (d : Dev) (off v : Nat) : (Dev.setReg d off v).ses = d.ses := rfl
@[simp] theorem Dev.setReg_dma (d : Dev) (off v : Nat) : (Dev.setReg d off v).dma = d.dma := rfl
@[simp] theorem Dev.setReg_rt (d : Dev) (off v : Nat) : (Dev.setReg d off v).rt = d.rt := rfl
@[simp] theorem Dev.setReg_fe (d : Dev) (off v : Nat) : (Dev.setReg d off v).fe = d.fe := rfl
@[simp] theorem Dev.setReg_edu (d : Dev) (off v : Nat) : (Dev.setReg d off v).edu = d.edu := rfl
@[simp] theorem Dev.setReg_fab (d : Dev) (off v : Nat) : (Dev.setReg d off v).fab = d.fab := rfl
@[simp] theorem Dev.setReg_host (d : Dev) (off v : Nat) : (Dev.setReg d off v).host = d.host := rfl
@[simp] theorem Dev.setReg_part (d : Dev) (off v : Nat) : (Dev.setReg d off v).part = d.part := rfl
@[simp] theorem Dev.setReg_mgmt (d : Dev) (off v : Nat) : (Dev.setReg d off v).mgmt = d.mgmt := rfl
@[simp] theorem Dev.setReg_cyc (d : Dev) (off v : Nat) : (Dev.setReg d off v).cyc = d.cyc := rfl
@[simp] theorem Dev.setReg_free (d : Dev) (off v : Nat) : (Dev.setReg d off v).free = d.free := rfl
@[simp] theorem Dev.setReg_out (d : Dev) (off v : Nat) : (Dev.setReg d off v).out = d.out := rfl
@[simp] theorem Dev.setReg_act (d : Dev) (off v : Nat) : (Dev.setReg d off v).act = d.act := rfl
@[simp] theorem Dev.setReg_toAcorn (d : Dev) (off v : Nat) : (Dev.setReg d off v).toAcorn = d.toAcorn := rfl

/-! `Dev.put` changes `regs` alone. -/

@[simp] theorem Dev.put_latch (d : Dev) (f : Fld) (v : Nat) : (Dev.put d f v).latch = d.latch := rfl
@[simp] theorem Dev.put_written (d : Dev) (f : Fld) (v : Nat) : (Dev.put d f v).written = d.written := rfl
@[simp] theorem Dev.put_evq (d : Dev) (f : Fld) (v : Nat) : (Dev.put d f v).evq = d.evq := rfl
@[simp] theorem Dev.put_core (d : Dev) (f : Fld) (v : Nat) : (Dev.put d f v).core = d.core := rfl
@[simp] theorem Dev.put_mem (d : Dev) (f : Fld) (v : Nat) : (Dev.put d f v).mem = d.mem := rfl
@[simp] theorem Dev.put_array (d : Dev) (f : Fld) (v : Nat) : (Dev.put d f v).array = d.array := rfl
@[simp] theorem Dev.put_ses (d : Dev) (f : Fld) (v : Nat) : (Dev.put d f v).ses = d.ses := rfl
@[simp] theorem Dev.put_dma (d : Dev) (f : Fld) (v : Nat) : (Dev.put d f v).dma = d.dma := rfl
@[simp] theorem Dev.put_rt (d : Dev) (f : Fld) (v : Nat) : (Dev.put d f v).rt = d.rt := rfl
@[simp] theorem Dev.put_fe (d : Dev) (f : Fld) (v : Nat) : (Dev.put d f v).fe = d.fe := rfl
@[simp] theorem Dev.put_edu (d : Dev) (f : Fld) (v : Nat) : (Dev.put d f v).edu = d.edu := rfl
@[simp] theorem Dev.put_fab (d : Dev) (f : Fld) (v : Nat) : (Dev.put d f v).fab = d.fab := rfl
@[simp] theorem Dev.put_host (d : Dev) (f : Fld) (v : Nat) : (Dev.put d f v).host = d.host := rfl
@[simp] theorem Dev.put_part (d : Dev) (f : Fld) (v : Nat) : (Dev.put d f v).part = d.part := rfl
@[simp] theorem Dev.put_mgmt (d : Dev) (f : Fld) (v : Nat) : (Dev.put d f v).mgmt = d.mgmt := rfl
@[simp] theorem Dev.put_cyc (d : Dev) (f : Fld) (v : Nat) : (Dev.put d f v).cyc = d.cyc := rfl
@[simp] theorem Dev.put_free (d : Dev) (f : Fld) (v : Nat) : (Dev.put d f v).free = d.free := rfl
@[simp] theorem Dev.put_out (d : Dev) (f : Fld) (v : Nat) : (Dev.put d f v).out = d.out := rfl
@[simp] theorem Dev.put_act (d : Dev) (f : Fld) (v : Nat) : (Dev.put d f v).act = d.act := rfl
@[simp] theorem Dev.put_toAcorn (d : Dev) (f : Fld) (v : Nat) : (Dev.put d f v).toAcorn = d.toAcorn := rfl

/-! `Dev.bump` changes `regs` alone. -/

@[simp] theorem Dev.bump_latch (d : Dev) (f : Fld) (n : Nat) : (Dev.bump d f n).latch = d.latch := rfl
@[simp] theorem Dev.bump_written (d : Dev) (f : Fld) (n : Nat) : (Dev.bump d f n).written = d.written := rfl
@[simp] theorem Dev.bump_evq (d : Dev) (f : Fld) (n : Nat) : (Dev.bump d f n).evq = d.evq := rfl
@[simp] theorem Dev.bump_core (d : Dev) (f : Fld) (n : Nat) : (Dev.bump d f n).core = d.core := rfl
@[simp] theorem Dev.bump_mem (d : Dev) (f : Fld) (n : Nat) : (Dev.bump d f n).mem = d.mem := rfl
@[simp] theorem Dev.bump_array (d : Dev) (f : Fld) (n : Nat) : (Dev.bump d f n).array = d.array := rfl
@[simp] theorem Dev.bump_ses (d : Dev) (f : Fld) (n : Nat) : (Dev.bump d f n).ses = d.ses := rfl
@[simp] theorem Dev.bump_dma (d : Dev) (f : Fld) (n : Nat) : (Dev.bump d f n).dma = d.dma := rfl
@[simp] theorem Dev.bump_rt (d : Dev) (f : Fld) (n : Nat) : (Dev.bump d f n).rt = d.rt := rfl
@[simp] theorem Dev.bump_fe (d : Dev) (f : Fld) (n : Nat) : (Dev.bump d f n).fe = d.fe := rfl
@[simp] theorem Dev.bump_edu (d : Dev) (f : Fld) (n : Nat) : (Dev.bump d f n).edu = d.edu := rfl
@[simp] theorem Dev.bump_fab (d : Dev) (f : Fld) (n : Nat) : (Dev.bump d f n).fab = d.fab := rfl
@[simp] theorem Dev.bump_host (d : Dev) (f : Fld) (n : Nat) : (Dev.bump d f n).host = d.host := rfl
@[simp] theorem Dev.bump_part (d : Dev) (f : Fld) (n : Nat) : (Dev.bump d f n).part = d.part := rfl
@[simp] theorem Dev.bump_mgmt (d : Dev) (f : Fld) (n : Nat) : (Dev.bump d f n).mgmt = d.mgmt := rfl
@[simp] theorem Dev.bump_cyc (d : Dev) (f : Fld) (n : Nat) : (Dev.bump d f n).cyc = d.cyc := rfl
@[simp] theorem Dev.bump_free (d : Dev) (f : Fld) (n : Nat) : (Dev.bump d f n).free = d.free := rfl
@[simp] theorem Dev.bump_out (d : Dev) (f : Fld) (n : Nat) : (Dev.bump d f n).out = d.out := rfl
@[simp] theorem Dev.bump_act (d : Dev) (f : Fld) (n : Nat) : (Dev.bump d f n).act = d.act := rfl
@[simp] theorem Dev.bump_toAcorn (d : Dev) (f : Fld) (n : Nat) : (Dev.bump d f n).toAcorn = d.toAcorn := rfl

/-! `Dev.incr` changes `regs` alone. -/

@[simp] theorem Dev.incr_latch (d : Dev) (f : Fld) : (Dev.incr d f).latch = d.latch := rfl
@[simp] theorem Dev.incr_written (d : Dev) (f : Fld) : (Dev.incr d f).written = d.written := rfl
@[simp] theorem Dev.incr_evq (d : Dev) (f : Fld) : (Dev.incr d f).evq = d.evq := rfl
@[simp] theorem Dev.incr_core (d : Dev) (f : Fld) : (Dev.incr d f).core = d.core := rfl
@[simp] theorem Dev.incr_mem (d : Dev) (f : Fld) : (Dev.incr d f).mem = d.mem := rfl
@[simp] theorem Dev.incr_array (d : Dev) (f : Fld) : (Dev.incr d f).array = d.array := rfl
@[simp] theorem Dev.incr_ses (d : Dev) (f : Fld) : (Dev.incr d f).ses = d.ses := rfl
@[simp] theorem Dev.incr_dma (d : Dev) (f : Fld) : (Dev.incr d f).dma = d.dma := rfl
@[simp] theorem Dev.incr_rt (d : Dev) (f : Fld) : (Dev.incr d f).rt = d.rt := rfl
@[simp] theorem Dev.incr_fe (d : Dev) (f : Fld) : (Dev.incr d f).fe = d.fe := rfl
@[simp] theorem Dev.incr_edu (d : Dev) (f : Fld) : (Dev.incr d f).edu = d.edu := rfl
@[simp] theorem Dev.incr_fab (d : Dev) (f : Fld) : (Dev.incr d f).fab = d.fab := rfl
@[simp] theorem Dev.incr_host (d : Dev) (f : Fld) : (Dev.incr d f).host = d.host := rfl
@[simp] theorem Dev.incr_part (d : Dev) (f : Fld) : (Dev.incr d f).part = d.part := rfl
@[simp] theorem Dev.incr_mgmt (d : Dev) (f : Fld) : (Dev.incr d f).mgmt = d.mgmt := rfl
@[simp] theorem Dev.incr_cyc (d : Dev) (f : Fld) : (Dev.incr d f).cyc = d.cyc := rfl
@[simp] theorem Dev.incr_free (d : Dev) (f : Fld) : (Dev.incr d f).free = d.free := rfl
@[simp] theorem Dev.incr_out (d : Dev) (f : Fld) : (Dev.incr d f).out = d.out := rfl
@[simp] theorem Dev.incr_act (d : Dev) (f : Fld) : (Dev.incr d f).act = d.act := rfl
@[simp] theorem Dev.incr_toAcorn (d : Dev) (f : Fld) : (Dev.incr d f).toAcorn = d.toAcorn := rfl

/-! `Dev.emit` changes `out` alone. -/

@[simp] theorem Dev.emit_regs (d : Dev) (o : Out) : (Dev.emit d o).regs = d.regs := rfl
@[simp] theorem Dev.emit_latch (d : Dev) (o : Out) : (Dev.emit d o).latch = d.latch := rfl
@[simp] theorem Dev.emit_written (d : Dev) (o : Out) : (Dev.emit d o).written = d.written := rfl
@[simp] theorem Dev.emit_evq (d : Dev) (o : Out) : (Dev.emit d o).evq = d.evq := rfl
@[simp] theorem Dev.emit_core (d : Dev) (o : Out) : (Dev.emit d o).core = d.core := rfl
@[simp] theorem Dev.emit_mem (d : Dev) (o : Out) : (Dev.emit d o).mem = d.mem := rfl
@[simp] theorem Dev.emit_array (d : Dev) (o : Out) : (Dev.emit d o).array = d.array := rfl
@[simp] theorem Dev.emit_ses (d : Dev) (o : Out) : (Dev.emit d o).ses = d.ses := rfl
@[simp] theorem Dev.emit_dma (d : Dev) (o : Out) : (Dev.emit d o).dma = d.dma := rfl
@[simp] theorem Dev.emit_rt (d : Dev) (o : Out) : (Dev.emit d o).rt = d.rt := rfl
@[simp] theorem Dev.emit_fe (d : Dev) (o : Out) : (Dev.emit d o).fe = d.fe := rfl
@[simp] theorem Dev.emit_edu (d : Dev) (o : Out) : (Dev.emit d o).edu = d.edu := rfl
@[simp] theorem Dev.emit_fab (d : Dev) (o : Out) : (Dev.emit d o).fab = d.fab := rfl
@[simp] theorem Dev.emit_host (d : Dev) (o : Out) : (Dev.emit d o).host = d.host := rfl
@[simp] theorem Dev.emit_part (d : Dev) (o : Out) : (Dev.emit d o).part = d.part := rfl
@[simp] theorem Dev.emit_mgmt (d : Dev) (o : Out) : (Dev.emit d o).mgmt = d.mgmt := rfl
@[simp] theorem Dev.emit_cyc (d : Dev) (o : Out) : (Dev.emit d o).cyc = d.cyc := rfl
@[simp] theorem Dev.emit_free (d : Dev) (o : Out) : (Dev.emit d o).free = d.free := rfl
@[simp] theorem Dev.emit_act (d : Dev) (o : Out) : (Dev.emit d o).act = d.act := rfl
@[simp] theorem Dev.emit_toAcorn (d : Dev) (o : Out) : (Dev.emit d o).toAcorn = d.toAcorn := rfl

/-! `Dev.setFifo` changes `evq` alone. -/

@[simp] theorem Dev.setFifo_regs (d : Dev) (i : Nat) (q : Evq) : (Dev.setFifo d i q).regs = d.regs := rfl
@[simp] theorem Dev.setFifo_latch (d : Dev) (i : Nat) (q : Evq) : (Dev.setFifo d i q).latch = d.latch := rfl
@[simp] theorem Dev.setFifo_written (d : Dev) (i : Nat) (q : Evq) : (Dev.setFifo d i q).written = d.written := rfl
@[simp] theorem Dev.setFifo_core (d : Dev) (i : Nat) (q : Evq) : (Dev.setFifo d i q).core = d.core := rfl
@[simp] theorem Dev.setFifo_mem (d : Dev) (i : Nat) (q : Evq) : (Dev.setFifo d i q).mem = d.mem := rfl
@[simp] theorem Dev.setFifo_array (d : Dev) (i : Nat) (q : Evq) : (Dev.setFifo d i q).array = d.array := rfl
@[simp] theorem Dev.setFifo_ses (d : Dev) (i : Nat) (q : Evq) : (Dev.setFifo d i q).ses = d.ses := rfl
@[simp] theorem Dev.setFifo_dma (d : Dev) (i : Nat) (q : Evq) : (Dev.setFifo d i q).dma = d.dma := rfl
@[simp] theorem Dev.setFifo_rt (d : Dev) (i : Nat) (q : Evq) : (Dev.setFifo d i q).rt = d.rt := rfl
@[simp] theorem Dev.setFifo_fe (d : Dev) (i : Nat) (q : Evq) : (Dev.setFifo d i q).fe = d.fe := rfl
@[simp] theorem Dev.setFifo_edu (d : Dev) (i : Nat) (q : Evq) : (Dev.setFifo d i q).edu = d.edu := rfl
@[simp] theorem Dev.setFifo_fab (d : Dev) (i : Nat) (q : Evq) : (Dev.setFifo d i q).fab = d.fab := rfl
@[simp] theorem Dev.setFifo_host (d : Dev) (i : Nat) (q : Evq) : (Dev.setFifo d i q).host = d.host := rfl
@[simp] theorem Dev.setFifo_part (d : Dev) (i : Nat) (q : Evq) : (Dev.setFifo d i q).part = d.part := rfl
@[simp] theorem Dev.setFifo_mgmt (d : Dev) (i : Nat) (q : Evq) : (Dev.setFifo d i q).mgmt = d.mgmt := rfl
@[simp] theorem Dev.setFifo_cyc (d : Dev) (i : Nat) (q : Evq) : (Dev.setFifo d i q).cyc = d.cyc := rfl
@[simp] theorem Dev.setFifo_free (d : Dev) (i : Nat) (q : Evq) : (Dev.setFifo d i q).free = d.free := rfl
@[simp] theorem Dev.setFifo_out (d : Dev) (i : Nat) (q : Evq) : (Dev.setFifo d i q).out = d.out := rfl
@[simp] theorem Dev.setFifo_act (d : Dev) (i : Nat) (q : Evq) : (Dev.setFifo d i q).act = d.act := rfl
@[simp] theorem Dev.setFifo_toAcorn (d : Dev) (i : Nat) (q : Evq) : (Dev.setFifo d i q).toAcorn = d.toAcorn := rfl

/-! `Dev.sendAcorn` changes `toAcorn` alone. -/

@[simp] theorem Dev.sendAcorn_regs (d : Dev) (i : AcornFrame) : (Dev.sendAcorn d i).regs = d.regs := rfl
@[simp] theorem Dev.sendAcorn_latch (d : Dev) (i : AcornFrame) : (Dev.sendAcorn d i).latch = d.latch := rfl
@[simp] theorem Dev.sendAcorn_written (d : Dev) (i : AcornFrame) : (Dev.sendAcorn d i).written = d.written := rfl
@[simp] theorem Dev.sendAcorn_evq (d : Dev) (i : AcornFrame) : (Dev.sendAcorn d i).evq = d.evq := rfl
@[simp] theorem Dev.sendAcorn_core (d : Dev) (i : AcornFrame) : (Dev.sendAcorn d i).core = d.core := rfl
@[simp] theorem Dev.sendAcorn_mem (d : Dev) (i : AcornFrame) : (Dev.sendAcorn d i).mem = d.mem := rfl
@[simp] theorem Dev.sendAcorn_array (d : Dev) (i : AcornFrame) : (Dev.sendAcorn d i).array = d.array := rfl
@[simp] theorem Dev.sendAcorn_ses (d : Dev) (i : AcornFrame) : (Dev.sendAcorn d i).ses = d.ses := rfl
@[simp] theorem Dev.sendAcorn_dma (d : Dev) (i : AcornFrame) : (Dev.sendAcorn d i).dma = d.dma := rfl
@[simp] theorem Dev.sendAcorn_rt (d : Dev) (i : AcornFrame) : (Dev.sendAcorn d i).rt = d.rt := rfl
@[simp] theorem Dev.sendAcorn_fe (d : Dev) (i : AcornFrame) : (Dev.sendAcorn d i).fe = d.fe := rfl
@[simp] theorem Dev.sendAcorn_edu (d : Dev) (i : AcornFrame) : (Dev.sendAcorn d i).edu = d.edu := rfl
@[simp] theorem Dev.sendAcorn_fab (d : Dev) (i : AcornFrame) : (Dev.sendAcorn d i).fab = d.fab := rfl
@[simp] theorem Dev.sendAcorn_host (d : Dev) (i : AcornFrame) : (Dev.sendAcorn d i).host = d.host := rfl
@[simp] theorem Dev.sendAcorn_part (d : Dev) (i : AcornFrame) : (Dev.sendAcorn d i).part = d.part := rfl
@[simp] theorem Dev.sendAcorn_mgmt (d : Dev) (i : AcornFrame) : (Dev.sendAcorn d i).mgmt = d.mgmt := rfl
@[simp] theorem Dev.sendAcorn_cyc (d : Dev) (i : AcornFrame) : (Dev.sendAcorn d i).cyc = d.cyc := rfl
@[simp] theorem Dev.sendAcorn_free (d : Dev) (i : AcornFrame) : (Dev.sendAcorn d i).free = d.free := rfl
@[simp] theorem Dev.sendAcorn_out (d : Dev) (i : AcornFrame) : (Dev.sendAcorn d i).out = d.out := rfl
@[simp] theorem Dev.sendAcorn_act (d : Dev) (i : AcornFrame) : (Dev.sendAcorn d i).act = d.act := rfl

/-! `Dev.report` changes `toAcorn` alone. -/

@[simp] theorem Dev.report_regs (e : Env) (d : Dev) (m : AcornMsg) : (Dev.report e d m).regs = d.regs := rfl
@[simp] theorem Dev.report_latch (e : Env) (d : Dev) (m : AcornMsg) : (Dev.report e d m).latch = d.latch := rfl
@[simp] theorem Dev.report_written (e : Env) (d : Dev) (m : AcornMsg) : (Dev.report e d m).written = d.written := rfl
@[simp] theorem Dev.report_evq (e : Env) (d : Dev) (m : AcornMsg) : (Dev.report e d m).evq = d.evq := rfl
@[simp] theorem Dev.report_core (e : Env) (d : Dev) (m : AcornMsg) : (Dev.report e d m).core = d.core := rfl
@[simp] theorem Dev.report_mem (e : Env) (d : Dev) (m : AcornMsg) : (Dev.report e d m).mem = d.mem := rfl
@[simp] theorem Dev.report_array (e : Env) (d : Dev) (m : AcornMsg) : (Dev.report e d m).array = d.array := rfl
@[simp] theorem Dev.report_ses (e : Env) (d : Dev) (m : AcornMsg) : (Dev.report e d m).ses = d.ses := rfl
@[simp] theorem Dev.report_dma (e : Env) (d : Dev) (m : AcornMsg) : (Dev.report e d m).dma = d.dma := rfl
@[simp] theorem Dev.report_rt (e : Env) (d : Dev) (m : AcornMsg) : (Dev.report e d m).rt = d.rt := rfl
@[simp] theorem Dev.report_fe (e : Env) (d : Dev) (m : AcornMsg) : (Dev.report e d m).fe = d.fe := rfl
@[simp] theorem Dev.report_edu (e : Env) (d : Dev) (m : AcornMsg) : (Dev.report e d m).edu = d.edu := rfl
@[simp] theorem Dev.report_fab (e : Env) (d : Dev) (m : AcornMsg) : (Dev.report e d m).fab = d.fab := rfl
@[simp] theorem Dev.report_host (e : Env) (d : Dev) (m : AcornMsg) : (Dev.report e d m).host = d.host := rfl
@[simp] theorem Dev.report_part (e : Env) (d : Dev) (m : AcornMsg) : (Dev.report e d m).part = d.part := rfl
@[simp] theorem Dev.report_mgmt (e : Env) (d : Dev) (m : AcornMsg) : (Dev.report e d m).mgmt = d.mgmt := rfl
@[simp] theorem Dev.report_cyc (e : Env) (d : Dev) (m : AcornMsg) : (Dev.report e d m).cyc = d.cyc := rfl
@[simp] theorem Dev.report_free (e : Env) (d : Dev) (m : AcornMsg) : (Dev.report e d m).free = d.free := rfl
@[simp] theorem Dev.report_out (e : Env) (d : Dev) (m : AcornMsg) : (Dev.report e d m).out = d.out := rfl
@[simp] theorem Dev.report_act (e : Env) (d : Dev) (m : AcornMsg) : (Dev.report e d m).act = d.act := rfl

/-! `Dev.charge` changes `act` alone. -/

@[simp] theorem Dev.charge_regs (d : Dev) (part : Nat) (f : ActivityRow → ActivityRow) : (Dev.charge d part f).regs = d.regs := rfl
@[simp] theorem Dev.charge_latch (d : Dev) (part : Nat) (f : ActivityRow → ActivityRow) : (Dev.charge d part f).latch = d.latch := rfl
@[simp] theorem Dev.charge_written (d : Dev) (part : Nat) (f : ActivityRow → ActivityRow) : (Dev.charge d part f).written = d.written := rfl
@[simp] theorem Dev.charge_evq (d : Dev) (part : Nat) (f : ActivityRow → ActivityRow) : (Dev.charge d part f).evq = d.evq := rfl
@[simp] theorem Dev.charge_core (d : Dev) (part : Nat) (f : ActivityRow → ActivityRow) : (Dev.charge d part f).core = d.core := rfl
@[simp] theorem Dev.charge_mem (d : Dev) (part : Nat) (f : ActivityRow → ActivityRow) : (Dev.charge d part f).mem = d.mem := rfl
@[simp] theorem Dev.charge_array (d : Dev) (part : Nat) (f : ActivityRow → ActivityRow) : (Dev.charge d part f).array = d.array := rfl
@[simp] theorem Dev.charge_ses (d : Dev) (part : Nat) (f : ActivityRow → ActivityRow) : (Dev.charge d part f).ses = d.ses := rfl
@[simp] theorem Dev.charge_dma (d : Dev) (part : Nat) (f : ActivityRow → ActivityRow) : (Dev.charge d part f).dma = d.dma := rfl
@[simp] theorem Dev.charge_rt (d : Dev) (part : Nat) (f : ActivityRow → ActivityRow) : (Dev.charge d part f).rt = d.rt := rfl
@[simp] theorem Dev.charge_fe (d : Dev) (part : Nat) (f : ActivityRow → ActivityRow) : (Dev.charge d part f).fe = d.fe := rfl
@[simp] theorem Dev.charge_edu (d : Dev) (part : Nat) (f : ActivityRow → ActivityRow) : (Dev.charge d part f).edu = d.edu := rfl
@[simp] theorem Dev.charge_fab (d : Dev) (part : Nat) (f : ActivityRow → ActivityRow) : (Dev.charge d part f).fab = d.fab := rfl
@[simp] theorem Dev.charge_host (d : Dev) (part : Nat) (f : ActivityRow → ActivityRow) : (Dev.charge d part f).host = d.host := rfl
@[simp] theorem Dev.charge_part (d : Dev) (part : Nat) (f : ActivityRow → ActivityRow) : (Dev.charge d part f).part = d.part := rfl
@[simp] theorem Dev.charge_mgmt (d : Dev) (part : Nat) (f : ActivityRow → ActivityRow) : (Dev.charge d part f).mgmt = d.mgmt := rfl
@[simp] theorem Dev.charge_cyc (d : Dev) (part : Nat) (f : ActivityRow → ActivityRow) : (Dev.charge d part f).cyc = d.cyc := rfl
@[simp] theorem Dev.charge_free (d : Dev) (part : Nat) (f : ActivityRow → ActivityRow) : (Dev.charge d part f).free = d.free := rfl
@[simp] theorem Dev.charge_out (d : Dev) (part : Nat) (f : ActivityRow → ActivityRow) : (Dev.charge d part f).out = d.out := rfl
@[simp] theorem Dev.charge_toAcorn (d : Dev) (part : Nat) (f : ActivityRow → ActivityRow) : (Dev.charge d part f).toAcorn = d.toAcorn := rfl

/-! `Dev.moved` changes `act` alone. -/

@[simp] theorem Dev.moved_regs (d : Dev) (part n : Nat) : (Dev.moved d part n).regs = d.regs := rfl
@[simp] theorem Dev.moved_latch (d : Dev) (part n : Nat) : (Dev.moved d part n).latch = d.latch := rfl
@[simp] theorem Dev.moved_written (d : Dev) (part n : Nat) : (Dev.moved d part n).written = d.written := rfl
@[simp] theorem Dev.moved_evq (d : Dev) (part n : Nat) : (Dev.moved d part n).evq = d.evq := rfl
@[simp] theorem Dev.moved_core (d : Dev) (part n : Nat) : (Dev.moved d part n).core = d.core := rfl
@[simp] theorem Dev.moved_mem (d : Dev) (part n : Nat) : (Dev.moved d part n).mem = d.mem := rfl
@[simp] theorem Dev.moved_array (d : Dev) (part n : Nat) : (Dev.moved d part n).array = d.array := rfl
@[simp] theorem Dev.moved_ses (d : Dev) (part n : Nat) : (Dev.moved d part n).ses = d.ses := rfl
@[simp] theorem Dev.moved_dma (d : Dev) (part n : Nat) : (Dev.moved d part n).dma = d.dma := rfl
@[simp] theorem Dev.moved_rt (d : Dev) (part n : Nat) : (Dev.moved d part n).rt = d.rt := rfl
@[simp] theorem Dev.moved_fe (d : Dev) (part n : Nat) : (Dev.moved d part n).fe = d.fe := rfl
@[simp] theorem Dev.moved_edu (d : Dev) (part n : Nat) : (Dev.moved d part n).edu = d.edu := rfl
@[simp] theorem Dev.moved_fab (d : Dev) (part n : Nat) : (Dev.moved d part n).fab = d.fab := rfl
@[simp] theorem Dev.moved_host (d : Dev) (part n : Nat) : (Dev.moved d part n).host = d.host := rfl
@[simp] theorem Dev.moved_part (d : Dev) (part n : Nat) : (Dev.moved d part n).part = d.part := rfl
@[simp] theorem Dev.moved_mgmt (d : Dev) (part n : Nat) : (Dev.moved d part n).mgmt = d.mgmt := rfl
@[simp] theorem Dev.moved_cyc (d : Dev) (part n : Nat) : (Dev.moved d part n).cyc = d.cyc := rfl
@[simp] theorem Dev.moved_free (d : Dev) (part n : Nat) : (Dev.moved d part n).free = d.free := rfl
@[simp] theorem Dev.moved_out (d : Dev) (part n : Nat) : (Dev.moved d part n).out = d.out := rfl
@[simp] theorem Dev.moved_toAcorn (d : Dev) (part n : Nat) : (Dev.moved d part n).toAcorn = d.toAcorn := rfl

/-! `Dev.sectors` changes `act` alone. -/

@[simp] theorem Dev.sectors_regs (d : Dev) (part n : Nat) : (Dev.sectors d part n).regs = d.regs := rfl
@[simp] theorem Dev.sectors_latch (d : Dev) (part n : Nat) : (Dev.sectors d part n).latch = d.latch := rfl
@[simp] theorem Dev.sectors_written (d : Dev) (part n : Nat) : (Dev.sectors d part n).written = d.written := rfl
@[simp] theorem Dev.sectors_evq (d : Dev) (part n : Nat) : (Dev.sectors d part n).evq = d.evq := rfl
@[simp] theorem Dev.sectors_core (d : Dev) (part n : Nat) : (Dev.sectors d part n).core = d.core := rfl
@[simp] theorem Dev.sectors_mem (d : Dev) (part n : Nat) : (Dev.sectors d part n).mem = d.mem := rfl
@[simp] theorem Dev.sectors_array (d : Dev) (part n : Nat) : (Dev.sectors d part n).array = d.array := rfl
@[simp] theorem Dev.sectors_ses (d : Dev) (part n : Nat) : (Dev.sectors d part n).ses = d.ses := rfl
@[simp] theorem Dev.sectors_dma (d : Dev) (part n : Nat) : (Dev.sectors d part n).dma = d.dma := rfl
@[simp] theorem Dev.sectors_rt (d : Dev) (part n : Nat) : (Dev.sectors d part n).rt = d.rt := rfl
@[simp] theorem Dev.sectors_fe (d : Dev) (part n : Nat) : (Dev.sectors d part n).fe = d.fe := rfl
@[simp] theorem Dev.sectors_edu (d : Dev) (part n : Nat) : (Dev.sectors d part n).edu = d.edu := rfl
@[simp] theorem Dev.sectors_fab (d : Dev) (part n : Nat) : (Dev.sectors d part n).fab = d.fab := rfl
@[simp] theorem Dev.sectors_host (d : Dev) (part n : Nat) : (Dev.sectors d part n).host = d.host := rfl
@[simp] theorem Dev.sectors_part (d : Dev) (part n : Nat) : (Dev.sectors d part n).part = d.part := rfl
@[simp] theorem Dev.sectors_mgmt (d : Dev) (part n : Nat) : (Dev.sectors d part n).mgmt = d.mgmt := rfl
@[simp] theorem Dev.sectors_cyc (d : Dev) (part n : Nat) : (Dev.sectors d part n).cyc = d.cyc := rfl
@[simp] theorem Dev.sectors_free (d : Dev) (part n : Nat) : (Dev.sectors d part n).free = d.free := rfl
@[simp] theorem Dev.sectors_out (d : Dev) (part n : Nat) : (Dev.sectors d part n).out = d.out := rfl
@[simp] theorem Dev.sectors_toAcorn (d : Dev) (part n : Nat) : (Dev.sectors d part n).toAcorn = d.toAcorn := rfl

/-! `Dev.fabMoved` changes `act` alone. -/

@[simp] theorem Dev.fabMoved_regs (d : Dev) (part n : Nat) : (Dev.fabMoved d part n).regs = d.regs := rfl
@[simp] theorem Dev.fabMoved_latch (d : Dev) (part n : Nat) : (Dev.fabMoved d part n).latch = d.latch := rfl
@[simp] theorem Dev.fabMoved_written (d : Dev) (part n : Nat) : (Dev.fabMoved d part n).written = d.written := rfl
@[simp] theorem Dev.fabMoved_evq (d : Dev) (part n : Nat) : (Dev.fabMoved d part n).evq = d.evq := rfl
@[simp] theorem Dev.fabMoved_core (d : Dev) (part n : Nat) : (Dev.fabMoved d part n).core = d.core := rfl
@[simp] theorem Dev.fabMoved_mem (d : Dev) (part n : Nat) : (Dev.fabMoved d part n).mem = d.mem := rfl
@[simp] theorem Dev.fabMoved_array (d : Dev) (part n : Nat) : (Dev.fabMoved d part n).array = d.array := rfl
@[simp] theorem Dev.fabMoved_ses (d : Dev) (part n : Nat) : (Dev.fabMoved d part n).ses = d.ses := rfl
@[simp] theorem Dev.fabMoved_dma (d : Dev) (part n : Nat) : (Dev.fabMoved d part n).dma = d.dma := rfl
@[simp] theorem Dev.fabMoved_rt (d : Dev) (part n : Nat) : (Dev.fabMoved d part n).rt = d.rt := rfl
@[simp] theorem Dev.fabMoved_fe (d : Dev) (part n : Nat) : (Dev.fabMoved d part n).fe = d.fe := rfl
@[simp] theorem Dev.fabMoved_edu (d : Dev) (part n : Nat) : (Dev.fabMoved d part n).edu = d.edu := rfl
@[simp] theorem Dev.fabMoved_fab (d : Dev) (part n : Nat) : (Dev.fabMoved d part n).fab = d.fab := rfl
@[simp] theorem Dev.fabMoved_host (d : Dev) (part n : Nat) : (Dev.fabMoved d part n).host = d.host := rfl
@[simp] theorem Dev.fabMoved_part (d : Dev) (part n : Nat) : (Dev.fabMoved d part n).part = d.part := rfl
@[simp] theorem Dev.fabMoved_mgmt (d : Dev) (part n : Nat) : (Dev.fabMoved d part n).mgmt = d.mgmt := rfl
@[simp] theorem Dev.fabMoved_cyc (d : Dev) (part n : Nat) : (Dev.fabMoved d part n).cyc = d.cyc := rfl
@[simp] theorem Dev.fabMoved_free (d : Dev) (part n : Nat) : (Dev.fabMoved d part n).free = d.free := rfl
@[simp] theorem Dev.fabMoved_out (d : Dev) (part n : Nat) : (Dev.fabMoved d part n).out = d.out := rfl
@[simp] theorem Dev.fabMoved_toAcorn (d : Dev) (part n : Nat) : (Dev.fabMoved d part n).toAcorn = d.toAcorn := rfl

/-! `Dev.setGrp` changes `core` alone. -/

@[simp] theorem Dev.setGrp_regs (d : Dev) (g : Gid) (x : Group) : (Dev.setGrp d g x).regs = d.regs := rfl
@[simp] theorem Dev.setGrp_latch (d : Dev) (g : Gid) (x : Group) : (Dev.setGrp d g x).latch = d.latch := rfl
@[simp] theorem Dev.setGrp_written (d : Dev) (g : Gid) (x : Group) : (Dev.setGrp d g x).written = d.written := rfl
@[simp] theorem Dev.setGrp_evq (d : Dev) (g : Gid) (x : Group) : (Dev.setGrp d g x).evq = d.evq := rfl
@[simp] theorem Dev.setGrp_mem (d : Dev) (g : Gid) (x : Group) : (Dev.setGrp d g x).mem = d.mem := rfl
@[simp] theorem Dev.setGrp_array (d : Dev) (g : Gid) (x : Group) : (Dev.setGrp d g x).array = d.array := rfl
@[simp] theorem Dev.setGrp_ses (d : Dev) (g : Gid) (x : Group) : (Dev.setGrp d g x).ses = d.ses := rfl
@[simp] theorem Dev.setGrp_dma (d : Dev) (g : Gid) (x : Group) : (Dev.setGrp d g x).dma = d.dma := rfl
@[simp] theorem Dev.setGrp_rt (d : Dev) (g : Gid) (x : Group) : (Dev.setGrp d g x).rt = d.rt := rfl
@[simp] theorem Dev.setGrp_fe (d : Dev) (g : Gid) (x : Group) : (Dev.setGrp d g x).fe = d.fe := rfl
@[simp] theorem Dev.setGrp_edu (d : Dev) (g : Gid) (x : Group) : (Dev.setGrp d g x).edu = d.edu := rfl
@[simp] theorem Dev.setGrp_fab (d : Dev) (g : Gid) (x : Group) : (Dev.setGrp d g x).fab = d.fab := rfl
@[simp] theorem Dev.setGrp_host (d : Dev) (g : Gid) (x : Group) : (Dev.setGrp d g x).host = d.host := rfl
@[simp] theorem Dev.setGrp_part (d : Dev) (g : Gid) (x : Group) : (Dev.setGrp d g x).part = d.part := rfl
@[simp] theorem Dev.setGrp_mgmt (d : Dev) (g : Gid) (x : Group) : (Dev.setGrp d g x).mgmt = d.mgmt := rfl
@[simp] theorem Dev.setGrp_cyc (d : Dev) (g : Gid) (x : Group) : (Dev.setGrp d g x).cyc = d.cyc := rfl
@[simp] theorem Dev.setGrp_free (d : Dev) (g : Gid) (x : Group) : (Dev.setGrp d g x).free = d.free := rfl
@[simp] theorem Dev.setGrp_out (d : Dev) (g : Gid) (x : Group) : (Dev.setGrp d g x).out = d.out := rfl
@[simp] theorem Dev.setGrp_act (d : Dev) (g : Gid) (x : Group) : (Dev.setGrp d g x).act = d.act := rfl
@[simp] theorem Dev.setGrp_toAcorn (d : Dev) (g : Gid) (x : Group) : (Dev.setGrp d g x).toAcorn = d.toAcorn := rfl

/-! `Dev.setLaunch` changes `core` alone. -/

@[simp] theorem Dev.setLaunch_regs (d : Dev) (l : Launch) : (Dev.setLaunch d l).regs = d.regs := rfl
@[simp] theorem Dev.setLaunch_latch (d : Dev) (l : Launch) : (Dev.setLaunch d l).latch = d.latch := rfl
@[simp] theorem Dev.setLaunch_written (d : Dev) (l : Launch) : (Dev.setLaunch d l).written = d.written := rfl
@[simp] theorem Dev.setLaunch_evq (d : Dev) (l : Launch) : (Dev.setLaunch d l).evq = d.evq := rfl
@[simp] theorem Dev.setLaunch_mem (d : Dev) (l : Launch) : (Dev.setLaunch d l).mem = d.mem := rfl
@[simp] theorem Dev.setLaunch_array (d : Dev) (l : Launch) : (Dev.setLaunch d l).array = d.array := rfl
@[simp] theorem Dev.setLaunch_ses (d : Dev) (l : Launch) : (Dev.setLaunch d l).ses = d.ses := rfl
@[simp] theorem Dev.setLaunch_dma (d : Dev) (l : Launch) : (Dev.setLaunch d l).dma = d.dma := rfl
@[simp] theorem Dev.setLaunch_rt (d : Dev) (l : Launch) : (Dev.setLaunch d l).rt = d.rt := rfl
@[simp] theorem Dev.setLaunch_fe (d : Dev) (l : Launch) : (Dev.setLaunch d l).fe = d.fe := rfl
@[simp] theorem Dev.setLaunch_edu (d : Dev) (l : Launch) : (Dev.setLaunch d l).edu = d.edu := rfl
@[simp] theorem Dev.setLaunch_fab (d : Dev) (l : Launch) : (Dev.setLaunch d l).fab = d.fab := rfl
@[simp] theorem Dev.setLaunch_host (d : Dev) (l : Launch) : (Dev.setLaunch d l).host = d.host := rfl
@[simp] theorem Dev.setLaunch_part (d : Dev) (l : Launch) : (Dev.setLaunch d l).part = d.part := rfl
@[simp] theorem Dev.setLaunch_mgmt (d : Dev) (l : Launch) : (Dev.setLaunch d l).mgmt = d.mgmt := rfl
@[simp] theorem Dev.setLaunch_cyc (d : Dev) (l : Launch) : (Dev.setLaunch d l).cyc = d.cyc := rfl
@[simp] theorem Dev.setLaunch_free (d : Dev) (l : Launch) : (Dev.setLaunch d l).free = d.free := rfl
@[simp] theorem Dev.setLaunch_out (d : Dev) (l : Launch) : (Dev.setLaunch d l).out = d.out := rfl
@[simp] theorem Dev.setLaunch_act (d : Dev) (l : Launch) : (Dev.setLaunch d l).act = d.act := rfl
@[simp] theorem Dev.setLaunch_toAcorn (d : Dev) (l : Launch) : (Dev.setLaunch d l).toAcorn = d.toAcorn := rfl

/-! `Dev.setTd` changes `part` alone. -/

@[simp] theorem Dev.setTd_regs (d : Dev) (t : Option Teardown) : (Dev.setTd d t).regs = d.regs := rfl
@[simp] theorem Dev.setTd_latch (d : Dev) (t : Option Teardown) : (Dev.setTd d t).latch = d.latch := rfl
@[simp] theorem Dev.setTd_written (d : Dev) (t : Option Teardown) : (Dev.setTd d t).written = d.written := rfl
@[simp] theorem Dev.setTd_evq (d : Dev) (t : Option Teardown) : (Dev.setTd d t).evq = d.evq := rfl
@[simp] theorem Dev.setTd_core (d : Dev) (t : Option Teardown) : (Dev.setTd d t).core = d.core := rfl
@[simp] theorem Dev.setTd_mem (d : Dev) (t : Option Teardown) : (Dev.setTd d t).mem = d.mem := rfl
@[simp] theorem Dev.setTd_array (d : Dev) (t : Option Teardown) : (Dev.setTd d t).array = d.array := rfl
@[simp] theorem Dev.setTd_ses (d : Dev) (t : Option Teardown) : (Dev.setTd d t).ses = d.ses := rfl
@[simp] theorem Dev.setTd_dma (d : Dev) (t : Option Teardown) : (Dev.setTd d t).dma = d.dma := rfl
@[simp] theorem Dev.setTd_rt (d : Dev) (t : Option Teardown) : (Dev.setTd d t).rt = d.rt := rfl
@[simp] theorem Dev.setTd_fe (d : Dev) (t : Option Teardown) : (Dev.setTd d t).fe = d.fe := rfl
@[simp] theorem Dev.setTd_edu (d : Dev) (t : Option Teardown) : (Dev.setTd d t).edu = d.edu := rfl
@[simp] theorem Dev.setTd_fab (d : Dev) (t : Option Teardown) : (Dev.setTd d t).fab = d.fab := rfl
@[simp] theorem Dev.setTd_host (d : Dev) (t : Option Teardown) : (Dev.setTd d t).host = d.host := rfl
@[simp] theorem Dev.setTd_mgmt (d : Dev) (t : Option Teardown) : (Dev.setTd d t).mgmt = d.mgmt := rfl
@[simp] theorem Dev.setTd_cyc (d : Dev) (t : Option Teardown) : (Dev.setTd d t).cyc = d.cyc := rfl
@[simp] theorem Dev.setTd_free (d : Dev) (t : Option Teardown) : (Dev.setTd d t).free = d.free := rfl
@[simp] theorem Dev.setTd_out (d : Dev) (t : Option Teardown) : (Dev.setTd d t).out = d.out := rfl
@[simp] theorem Dev.setTd_act (d : Dev) (t : Option Teardown) : (Dev.setTd d t).act = d.act := rfl
@[simp] theorem Dev.setTd_toAcorn (d : Dev) (t : Option Teardown) : (Dev.setTd d t).toAcorn = d.toAcorn := rfl

/-! `Dev.mapReq` changes `rt` alone. -/

@[simp] theorem Dev.mapReq_regs (d : Dev) (id : Nat) (g : RangeReq → RangeReq) : (Dev.mapReq d id g).regs = d.regs := rfl
@[simp] theorem Dev.mapReq_latch (d : Dev) (id : Nat) (g : RangeReq → RangeReq) : (Dev.mapReq d id g).latch = d.latch := rfl
@[simp] theorem Dev.mapReq_written (d : Dev) (id : Nat) (g : RangeReq → RangeReq) : (Dev.mapReq d id g).written = d.written := rfl
@[simp] theorem Dev.mapReq_evq (d : Dev) (id : Nat) (g : RangeReq → RangeReq) : (Dev.mapReq d id g).evq = d.evq := rfl
@[simp] theorem Dev.mapReq_core (d : Dev) (id : Nat) (g : RangeReq → RangeReq) : (Dev.mapReq d id g).core = d.core := rfl
@[simp] theorem Dev.mapReq_mem (d : Dev) (id : Nat) (g : RangeReq → RangeReq) : (Dev.mapReq d id g).mem = d.mem := rfl
@[simp] theorem Dev.mapReq_array (d : Dev) (id : Nat) (g : RangeReq → RangeReq) : (Dev.mapReq d id g).array = d.array := rfl
@[simp] theorem Dev.mapReq_ses (d : Dev) (id : Nat) (g : RangeReq → RangeReq) : (Dev.mapReq d id g).ses = d.ses := rfl
@[simp] theorem Dev.mapReq_dma (d : Dev) (id : Nat) (g : RangeReq → RangeReq) : (Dev.mapReq d id g).dma = d.dma := rfl
@[simp] theorem Dev.mapReq_fe (d : Dev) (id : Nat) (g : RangeReq → RangeReq) : (Dev.mapReq d id g).fe = d.fe := rfl
@[simp] theorem Dev.mapReq_edu (d : Dev) (id : Nat) (g : RangeReq → RangeReq) : (Dev.mapReq d id g).edu = d.edu := rfl
@[simp] theorem Dev.mapReq_fab (d : Dev) (id : Nat) (g : RangeReq → RangeReq) : (Dev.mapReq d id g).fab = d.fab := rfl
@[simp] theorem Dev.mapReq_host (d : Dev) (id : Nat) (g : RangeReq → RangeReq) : (Dev.mapReq d id g).host = d.host := rfl
@[simp] theorem Dev.mapReq_part (d : Dev) (id : Nat) (g : RangeReq → RangeReq) : (Dev.mapReq d id g).part = d.part := rfl
@[simp] theorem Dev.mapReq_mgmt (d : Dev) (id : Nat) (g : RangeReq → RangeReq) : (Dev.mapReq d id g).mgmt = d.mgmt := rfl
@[simp] theorem Dev.mapReq_cyc (d : Dev) (id : Nat) (g : RangeReq → RangeReq) : (Dev.mapReq d id g).cyc = d.cyc := rfl
@[simp] theorem Dev.mapReq_free (d : Dev) (id : Nat) (g : RangeReq → RangeReq) : (Dev.mapReq d id g).free = d.free := rfl
@[simp] theorem Dev.mapReq_out (d : Dev) (id : Nat) (g : RangeReq → RangeReq) : (Dev.mapReq d id g).out = d.out := rfl
@[simp] theorem Dev.mapReq_act (d : Dev) (id : Nat) (g : RangeReq → RangeReq) : (Dev.mapReq d id g).act = d.act := rfl
@[simp] theorem Dev.mapReq_toAcorn (d : Dev) (id : Nat) (g : RangeReq → RangeReq) : (Dev.mapReq d id g).toAcorn = d.toAcorn := rfl

/-! `Dev.sesPush` changes `ses` alone. -/

@[simp] theorem Dev.sesPush_regs (d : Dev) (o : SesOp) : (Dev.sesPush d o).regs = d.regs := rfl
@[simp] theorem Dev.sesPush_latch (d : Dev) (o : SesOp) : (Dev.sesPush d o).latch = d.latch := rfl
@[simp] theorem Dev.sesPush_written (d : Dev) (o : SesOp) : (Dev.sesPush d o).written = d.written := rfl
@[simp] theorem Dev.sesPush_evq (d : Dev) (o : SesOp) : (Dev.sesPush d o).evq = d.evq := rfl
@[simp] theorem Dev.sesPush_core (d : Dev) (o : SesOp) : (Dev.sesPush d o).core = d.core := rfl
@[simp] theorem Dev.sesPush_mem (d : Dev) (o : SesOp) : (Dev.sesPush d o).mem = d.mem := rfl
@[simp] theorem Dev.sesPush_array (d : Dev) (o : SesOp) : (Dev.sesPush d o).array = d.array := rfl
@[simp] theorem Dev.sesPush_dma (d : Dev) (o : SesOp) : (Dev.sesPush d o).dma = d.dma := rfl
@[simp] theorem Dev.sesPush_rt (d : Dev) (o : SesOp) : (Dev.sesPush d o).rt = d.rt := rfl
@[simp] theorem Dev.sesPush_fe (d : Dev) (o : SesOp) : (Dev.sesPush d o).fe = d.fe := rfl
@[simp] theorem Dev.sesPush_edu (d : Dev) (o : SesOp) : (Dev.sesPush d o).edu = d.edu := rfl
@[simp] theorem Dev.sesPush_fab (d : Dev) (o : SesOp) : (Dev.sesPush d o).fab = d.fab := rfl
@[simp] theorem Dev.sesPush_host (d : Dev) (o : SesOp) : (Dev.sesPush d o).host = d.host := rfl
@[simp] theorem Dev.sesPush_part (d : Dev) (o : SesOp) : (Dev.sesPush d o).part = d.part := rfl
@[simp] theorem Dev.sesPush_mgmt (d : Dev) (o : SesOp) : (Dev.sesPush d o).mgmt = d.mgmt := rfl
@[simp] theorem Dev.sesPush_cyc (d : Dev) (o : SesOp) : (Dev.sesPush d o).cyc = d.cyc := rfl
@[simp] theorem Dev.sesPush_free (d : Dev) (o : SesOp) : (Dev.sesPush d o).free = d.free := rfl
@[simp] theorem Dev.sesPush_out (d : Dev) (o : SesOp) : (Dev.sesPush d o).out = d.out := rfl
@[simp] theorem Dev.sesPush_act (d : Dev) (o : SesOp) : (Dev.sesPush d o).act = d.act := rfl
@[simp] theorem Dev.sesPush_toAcorn (d : Dev) (o : SesOp) : (Dev.sesPush d o).toAcorn = d.toAcorn := rfl

/-! `Dev.setLock` changes `ses` alone. -/

@[simp] theorem Dev.setLock_regs (d : Dev) (g : Gid) (w : Option LockWait) : (Dev.setLock d g w).regs = d.regs := rfl
@[simp] theorem Dev.setLock_latch (d : Dev) (g : Gid) (w : Option LockWait) : (Dev.setLock d g w).latch = d.latch := rfl
@[simp] theorem Dev.setLock_written (d : Dev) (g : Gid) (w : Option LockWait) : (Dev.setLock d g w).written = d.written := rfl
@[simp] theorem Dev.setLock_evq (d : Dev) (g : Gid) (w : Option LockWait) : (Dev.setLock d g w).evq = d.evq := rfl
@[simp] theorem Dev.setLock_core (d : Dev) (g : Gid) (w : Option LockWait) : (Dev.setLock d g w).core = d.core := rfl
@[simp] theorem Dev.setLock_mem (d : Dev) (g : Gid) (w : Option LockWait) : (Dev.setLock d g w).mem = d.mem := rfl
@[simp] theorem Dev.setLock_array (d : Dev) (g : Gid) (w : Option LockWait) : (Dev.setLock d g w).array = d.array := rfl
@[simp] theorem Dev.setLock_dma (d : Dev) (g : Gid) (w : Option LockWait) : (Dev.setLock d g w).dma = d.dma := rfl
@[simp] theorem Dev.setLock_rt (d : Dev) (g : Gid) (w : Option LockWait) : (Dev.setLock d g w).rt = d.rt := rfl
@[simp] theorem Dev.setLock_fe (d : Dev) (g : Gid) (w : Option LockWait) : (Dev.setLock d g w).fe = d.fe := rfl
@[simp] theorem Dev.setLock_edu (d : Dev) (g : Gid) (w : Option LockWait) : (Dev.setLock d g w).edu = d.edu := rfl
@[simp] theorem Dev.setLock_fab (d : Dev) (g : Gid) (w : Option LockWait) : (Dev.setLock d g w).fab = d.fab := rfl
@[simp] theorem Dev.setLock_host (d : Dev) (g : Gid) (w : Option LockWait) : (Dev.setLock d g w).host = d.host := rfl
@[simp] theorem Dev.setLock_part (d : Dev) (g : Gid) (w : Option LockWait) : (Dev.setLock d g w).part = d.part := rfl
@[simp] theorem Dev.setLock_mgmt (d : Dev) (g : Gid) (w : Option LockWait) : (Dev.setLock d g w).mgmt = d.mgmt := rfl
@[simp] theorem Dev.setLock_cyc (d : Dev) (g : Gid) (w : Option LockWait) : (Dev.setLock d g w).cyc = d.cyc := rfl
@[simp] theorem Dev.setLock_free (d : Dev) (g : Gid) (w : Option LockWait) : (Dev.setLock d g w).free = d.free := rfl
@[simp] theorem Dev.setLock_out (d : Dev) (g : Gid) (w : Option LockWait) : (Dev.setLock d g w).out = d.out := rfl
@[simp] theorem Dev.setLock_act (d : Dev) (g : Gid) (w : Option LockWait) : (Dev.setLock d g w).act = d.act := rfl
@[simp] theorem Dev.setLock_toAcorn (d : Dev) (g : Gid) (w : Option LockWait) : (Dev.setLock d g w).toAcorn = d.toAcorn := rfl

/-! `Dev.sesTake` changes `ses` alone. -/

@[simp] theorem Dev.sesTake_regs (d : Dev) (o : SesOp) : (Dev.sesTake d o).regs = d.regs := rfl
@[simp] theorem Dev.sesTake_latch (d : Dev) (o : SesOp) : (Dev.sesTake d o).latch = d.latch := rfl
@[simp] theorem Dev.sesTake_written (d : Dev) (o : SesOp) : (Dev.sesTake d o).written = d.written := rfl
@[simp] theorem Dev.sesTake_evq (d : Dev) (o : SesOp) : (Dev.sesTake d o).evq = d.evq := rfl
@[simp] theorem Dev.sesTake_core (d : Dev) (o : SesOp) : (Dev.sesTake d o).core = d.core := rfl
@[simp] theorem Dev.sesTake_mem (d : Dev) (o : SesOp) : (Dev.sesTake d o).mem = d.mem := rfl
@[simp] theorem Dev.sesTake_array (d : Dev) (o : SesOp) : (Dev.sesTake d o).array = d.array := rfl
@[simp] theorem Dev.sesTake_dma (d : Dev) (o : SesOp) : (Dev.sesTake d o).dma = d.dma := rfl
@[simp] theorem Dev.sesTake_rt (d : Dev) (o : SesOp) : (Dev.sesTake d o).rt = d.rt := rfl
@[simp] theorem Dev.sesTake_fe (d : Dev) (o : SesOp) : (Dev.sesTake d o).fe = d.fe := rfl
@[simp] theorem Dev.sesTake_edu (d : Dev) (o : SesOp) : (Dev.sesTake d o).edu = d.edu := rfl
@[simp] theorem Dev.sesTake_fab (d : Dev) (o : SesOp) : (Dev.sesTake d o).fab = d.fab := rfl
@[simp] theorem Dev.sesTake_host (d : Dev) (o : SesOp) : (Dev.sesTake d o).host = d.host := rfl
@[simp] theorem Dev.sesTake_part (d : Dev) (o : SesOp) : (Dev.sesTake d o).part = d.part := rfl
@[simp] theorem Dev.sesTake_mgmt (d : Dev) (o : SesOp) : (Dev.sesTake d o).mgmt = d.mgmt := rfl
@[simp] theorem Dev.sesTake_cyc (d : Dev) (o : SesOp) : (Dev.sesTake d o).cyc = d.cyc := rfl
@[simp] theorem Dev.sesTake_free (d : Dev) (o : SesOp) : (Dev.sesTake d o).free = d.free := rfl
@[simp] theorem Dev.sesTake_out (d : Dev) (o : SesOp) : (Dev.sesTake d o).out = d.out := rfl
@[simp] theorem Dev.sesTake_act (d : Dev) (o : SesOp) : (Dev.sesTake d o).act = d.act := rfl
@[simp] theorem Dev.sesTake_toAcorn (d : Dev) (o : SesOp) : (Dev.sesTake d o).toAcorn = d.toAcorn := rfl

end Sys2Proof.Machine
end

