-- ==== Sys2Proof/WellFormed.lean ====
section
/-! DEFINITION. Well-formed commands: their operands name what the device has (R12, R14, R332, R339, R373). -/

namespace Sys2Proof

/-- A place of a group (R12, R38). -/
def gidOk (g : Gid) : Bool := decide (g.core < 128) && decide (g.quarter < 4) && decide (g.slot < 16)

/-- A function of a port, a queue, or Bassoon. -/
def srcOk : Src → Bool
  | .host f => decide (f < 32)
  | .queue q => decide (q < 4096)
  | .bassoon => true

/-- A bank and a row of a scratchpad (R194). -/
def bankRowOk (x : Nat × Nat) : Bool := decide (x.1 < 256) && decide (x.2 < 192)

/-- Step counts of a margin scan are bytes of its record (R252). -/
def scanFindOk (x : ScanFind) : Bool := (x.pc0 ++ x.pc1).all (fun n => decide (n < 256)) && decide (x.temp < 256)

/-- What boot finds names cores, banks, rows and channels. -/
def bootFindOk (x : BootFind) : Bool :=
  x.marchFails.all (fun m => decide (m.1 < 128) && bankRowOk m.2) && x.failedChannels.all (fun c => decide (c < 128)) &&
  x.repaired.all (fun r => decide (r.1 < 128)) && x.scans.all (fun s => decide (s.1 < 128) && scanFindOk s.2)

/-- The header fields of a packet have their widths (R389). -/
def packetOk (p : Packet) : Bool :=
  decide (p.type < 256) && decide (p.cls < 4) && decide (p.dst < 2 ^ 20) && decide (p.src < 2 ^ 20) && decide (p.epoch < 2 ^ 16) &&
  decide (p.tenant < 2 ^ 16) && decide (p.psn < 2 ^ 32) && decide (p.length < 2 ^ 14) && decide (p.subop < 256) &&
  decide (p.status < 256) && decide (p.addr < 2 ^ 64)

/-- The operands of a command are in range. -/
def Instr.wellFormed : Instr → Bool
  | .nop g _ | .bra g _ | .call g _ | .ret g _ | .jmpu g _ | .exit g _ | .bar g _ | .barClu g _ | .trap g _ | .bkpt g _
  | .fadd g _ | .fsub g _ | .ffma g _ | .fmul g _ | .fmin g _ | .fmax g _ | .fabs g _ | .fneg g _ | .iadd g _
  | .isub g _ | .imul g _ | .imad g _ | .imin g _ | .imax g _ | .and g _ | .or g _ | .xor g _ | .not g _ | .shl g _
  | .shr g _ | .sar g _ | .popc g _ | .clz g _ | .mov g _ | .sel g _ | .cvt g _ | .shfl g _ | .rdlane g _ | .vote g _
  | .bcast g _ | .fsetp g _ | .isetp g _ | .plop g _ | .ftabEv g _ | .ftabLd g _ | .rcp g _ | .rsq g _ | .exp2 g _
  | .log2 g _ | .dadd g _ | .dmul g _ | .dfma g _ | .dmin g _ | .dmax g _ | .ld g _ | .lds g _ | .st g _ | .pref g _
  | .atom g _ | .fenceLd g _ | .fenceSt g _ | .fenceAll g _ | .mxMode g _ | .mxTile g _ | .mxDrain g _ | .mxWait g _
  | .dspSubmit g _ | .dspStatus g _ | .semWait g _ | .semTake g _ | .semAdd g _ | .semSub g _ | .semSet g _
  | .semLock g _ | .semUnlock g _ | .semArrive g _ | .semProd g _ | .semCons g _ | .sysId g _ | .sysTime g _
  | .sysCycle g _ | .sysFlags g _ | .sysMark g _ | .accessResponse g _ => gidOk g
  | .ftabLoadComplete core slot => decide (core < 128) && decide (slot < 4)
  | .mxTileComplete r => decide (r.core < 128)
  | .mxDrainComplete core | .arrayRampDown core | .arrayOff core | .arrayFreezeIdle core | .arrayPoisonReport core
  | .l1Fill core _ | .blockBarrierRelease core _ _ | .landingZoneWrite core _ | .intakeTokenGrant core | .pcSample core => decide (core < 128)
  | .l2Access slice _ _ _ => decide (slice < 8)
  | .patrolScrub _ _ | .clusterBarrierRelease _ _ _ | .spHandoverDrained | .spHandoverComplete | .spHandoverTimeout
  | .rangeRequestRecord _ | .rangeRequestTimeout _ | .rtInvalComplete | .nopCmd _ | .launch _ | .dma _ | .graphLaunch _
  | .semWaitCmd _ | .semAddCmd _ | .writeValue _ | .graphStore _ | .graphPatch _ | .graphFree _ | .semSetCmd _
  | .regWrite _ | .selftest _ | .blockDispatch _ | .kernelAbort _ | .graphNodeEnd _ | .commandComplete _ | .mirrorBatch
  | .ptpStateTimer | .teardownStepComplete | .teardownTimeout | .shareHandoverComplete | .powerOn _ _ | .powerOff
  | .buddyResumeTimeout | .stageCommitDone _ | .powerFastCheck _ | .powerSlowStep _ | .powerCalibrate _
  | .powerWindow _ | .watchdog _ | .fatalError _ _ | .selftestStart _ | .selftestTimeout _ | .autoSummary
  | .ledgerWrite | .ledgerCheckpoint | .pldmRequest _ _ _ | .setBmcCap _ | .readLedger _ | .provisionKey _ _ _
  | .revokeKey _ _ | .getVersion | .getCapabilities | .negotiateAlgorithms _ _ | .getDigests | .getCertificate _ _ _
  | .countCollectorTick | .requestedReading | .acornNvWrite | .acornPowerUp | .refLost | .refRestored => true
  | .hbmChannelDown ch | .hbmLiveScan ch => decide (ch < 128)
  | .hbmScanComplete ch find => decide (ch < 128) && scanFindOk find
  | .spHandover src _ | .syncHandover src _ | .collArm src _ | .collDisarm src _ | .routeEntryRead src _
  | .routeEntryWrite src _ | .buddyRecovery src _ | .warmReset src _ | .assign src _ | .teardown src _
  | .shareHandover src _ | .maintEnter src _ | .maintLeave src _ | .stageBegin src _ | .stageCommit src _
  | .stageAbort src _ | .recorderEnable src _ | .counterClear src _ => srcOk src
  | .creditGrant receiver => decide (receiver < 128)
  | .creditIdleReturn sender receiver => decide (sender < 128) && decide (receiver < 128)
  | .marchDone core find => decide (core < 128) && find.failing.all bankRowOk && find.lost.all (fun o => decide (o < 0x600000))
  | .sesameOperation store _ | .groupWake store | .semTimeout store _ | .semRetry store _ => decide (store < 2)
  | .dmaStart engine | .dmaComplete engine => decide (engine < 64)
  | .rtReplyCommit f _ | .claim f _ _ | .release f _ | .flr f | .stageWindowWrite f _ _ | .ledgerIndexWrite f _
  | .meterRequest f _ => decide (f < 32)
  | .rtInval src f _ | .hostFuncBind src f _ => srcOk src && decide (f < 32)
  | .rtAsidWrite src a _ => srcOk src && decide (a < 65536)
  | .doorbell f q _ size _ => decide (f < 32) && decide (q < 4096) && decide (size ≤ 8)
  | .queueVisit q => decide (q < 4096)
  | .queueEnable f q _ | .queueDisable f q _ | .queueResume f q _ => decide (f < 32) && decide (q < 4096)
  | .queueAbort src q _ => srcOk src && decide (q < 4096)
  | .evqPop f i | .rearm f i _ | .flush f i _ | .evqIrqEnable f i _ => decide (f < 32) && decide (i < 35)
  | .evqPtrFault i => decide (i < 35)
  | .route u | .scores u | .return u | .abort u | .scoreIntake u | .returnedRow u => decide (u < 2)
  | .expertClose c e => decide (c < 64) && decide (e < 1024)
  | .contextComplete c => decide (c < 64)
  | .write l p | .read l p | .readResp l p | .atomic l p | .atomicResp l p | .sem l p | .semResp l p | .semWithdraw l p
  | .dspWrite l p | .dspReturn l p | .coll l p | .ack l p | .nak l p | .probe l p | .probeAck l p | .flowReset l p
  | .mirror l p | .resumeReq l p | .resumeResp l p | .resendReq l p => decide (l < 192) && packetOk p
  | .hello l _ | .lldpReceive l _ | .lldpTransmit l | .helloTransmit l | .linkDown l | .linkUp l | .pfcFrame l _ _
  | .ptpMessage l _ | .portRetrain l | .malformedPacket l _ => decide (l < 192)
  | .ackTimer peer | .probeTimer peer | .peerDead peer => decide (peer < 2 ^ 20)
  | .retransmitTimeout peer psn => decide (peer < 2 ^ 20) && decide (psn < 2 ^ 32)
  | .collRoundSend c => decide (c < 256)
  | .breakoutChange src p _ => srcOk src && decide (p < 48)
  | .portReset n _ | .pcieLinkDown n | .perstDeassertion n => decide (n < 2)
  | .pcieLinkUp n rate width => decide (n < 2) && decide (1 ≤ rate) && decide (rate ≤ 3) && decide (width ≤ 2)
  | .configRequest f reg _ => decide (f < 32) && decide (reg < 1024)
  | .bar4Access f r _ => decide (f < 32) && decide (1 ≤ r.size) && decide (r.size ≤ 8)
  | .registerWrite src _ size _ => srcOk src && decide (size ≤ 8)
  | .rcRead f _ size => decide (f < 32) && decide (size ≤ 8)
  | .crRegister src r _ | .crWithdraw src r _ => srcOk src && decide (r < 16)
  | .bootStepComplete find => bootFindOk find
  | .thermalSample sect _ | .thermtrip sect _ | .clockSwitchRequest sect _ | .clockSwitchBegin sect
  | .clockSwitchEnd sect | .sectionGate sect | .sectionUngate sect | .gatingDrainLimit sect => decide (sect < 16)
  | .hbmThermalSample stack _ => decide (stack < 8)
  | .laneRetune r => decide (r.port < 192)
  | .vrTimeout half => decide (half < 2)
  | .railFault rail => decide (rail < 16)
  | .setEndpointId eid => decide (eid < 256)
  | .challenge _ nonce => decide (nonce < 2 ^ 256)
  | .getMeasurements index nonce _ => decide (index < 256) && decide (nonce < 2 ^ 256)
  | .activity h rows => decide (h.seq < 2 ^ 32) && decide (rows.length = 17)
  | .acornReport h _ => decide (h.seq < 2 ^ 32)
  | .acornInterval energy | .acornSupplyLoss _ energy _ => decide (energy.length = 16)
  | .request h f account nonce => decide (h.seq < 2 ^ 32) && decide (f < 32) && decide (account < 32) && decide (nonce < 2 ^ 128)
  | .traceDrainBurst half core => decide (half < 2) && decide (core < 128)
  | .pmcSelect src core i _ => srcOk src && decide (core < 128) && decide (i < 8)

end Sys2Proof
end

