-- ==== Sys2Proof/Tests/Slice0.lean ====
section
/-! SUPPORT. The model's own tests: ill-formed commands that the checks refuse, and, for the statements, small states that meet all
their hypotheses together, with the results worked out by hand from the rules cited. -/

open Sys2Proof Sys2Proof.Machine

namespace Sys2Proof.Tests

set_option Elab.async false

/-! Small states. -/

/-- The state after a command. -/
def after (i : Instr) (s : State) : State :=
  match exec i s with
  | .next t => t
  | _ => s

/-- A launch from a kernel queue, with physical addresses. -/
def launch : Launch :=
  { (default : Launch) with
    id := 1, live := true, kernel := true, phys := true, part := 31, gridX := 1, gridY := 1, gridZ := 1,
    threads := 32, cluster := 1, regs := 64, tables := 15, array := true }

/-- A running group with every lane active whose code starts at the front of core 0's scratchpad. -/
def group : Group :=
  { (default : Group) with
    live := true, launch := 1, block := 1, pc := 0xC000000000, mask := 0xFFFFFFFF, alloc := 64, st := .run }

/-- The same value in every lane of a v register. -/
def fill (r v : Nat) : Sparse Word := (List.range 32).map (fun l => (32 * r + l, BitVec.ofNat 32 v))

/-- The bank sets of core 0 are without owner. -/
def unowned : Sparse DWord := (List.range 4).map (fun i => (SP_OWN.off 0 i, 0x001F001F001F001F))

/-- The bank sets of cores 0 and 1 belong to DMA. -/
def dmaOwn : Sparse DWord := (List.range 8).map (fun i => (SP_OWN.off (i / 4) (i % 4), 0x0010001000100010))

/-- A device whose first group stands at the given words, which its core's instruction cache holds. -/
def dev (code : List Nat) (x : Group := group) : Dev :=
  { Dev.reset with
    regs := unowned,
    core := { CoreSys.reset with
      groups := [(0, x)], launches := [launch],
      icache := code.zipIdx.map (fun p => (icKey 1 0 (0xC000000000 + 8 * p.2), BitVec.ofNat 64 p.1)),
      blocks := [{ (default : Block) with id := 1, launch := 1, groups := [(0, 0)] }] },
    mem := { MemSys.reset with cells := writeBytes [] 0xC000000000 (code.flatMap (fun v => leBytes 8 v)) } }

/-- A state with this device. -/
def st (d : Dev) : State := { State.reset with dev := d }

/-- The first group. -/
def g0 : Gid := ⟨0, 0, 0⟩

/-- An instruction's fields. -/
def wd (a b c d : Nat) (mod : Nat := 0) (guard : Nat := 0) (pd : Nat := 0) : AWord :=
  { (default : AWord) with
    a := BitVec.ofNat 9 a, b := BitVec.ofNat 9 b, c := BitVec.ofNat 9 c, d := BitVec.ofNat 9 d, mod := BitVec.ofNat 8 mod,
    guard := BitVec.ofNat 5 guard, pd := BitVec.ofNat 3 pd }

/-- The same in the 128-bit form. -/
def AWord.long (w : AWord) (imm : Nat) (ext : Nat := 0) : AWord :=
  { w with x := true, imm := BitVec.ofNat 32 imm, ext := BitVec.ofNat 32 ext }

/-- An instruction's words. -/
def code (w : AWord) (cls op : Nat) : List Nat := wordLo w cls op :: if w.x then [wordHi w] else []

/-- The first group at an instruction. -/
def at' (w : AWord) (cls op : Nat) (x : Group := group) : State := st (dev (code w cls op) x)

/-- A kernel queue: queue 0. -/
def kq (d : Dev) : Dev := d.put (QUEUE_CFG.KERNEL 0) 1

/-- One channel of HBM, served by stack 0. -/
def withHbm (d : Dev) : Dev := { d.put HBM_CAPACITY.CHANNELS 1 with mem := { d.mem with chanMap := [0] } }

/-- The device is in service. -/
def serve (d : Dev) : Dev := d.put GLOBAL_STATUS.READY 1

/-- A command in the first context, of queue 0, whose port owns control. -/
def cmd (ws : List Nat) (d : Dev) : Dev :=
  let c : Ctx := { (default : Ctx) with live := true, seq := 1, bytes := ws.flatMap (leBytes 8), st := .fetched }
  { kq (d.put GLOBAL_OWNER.OWNER 0) with fe := { d.fe with ctxs := [(0, c)] } }


/-! Ill-formed commands: each check of WellFormed refuses one. -/

def refused (l : List Instr) : Bool := l.all (fun i => !i.wellFormed)

def pkt : Packet := default

def scan0 : ScanFind := ⟨[], [], 0, 0, 0, false⟩

theorem test_wf_groups : refused [.nop ⟨128, 0, 0⟩ default, .nop ⟨0, 4, 0⟩ default, .ld ⟨0, 0, 16⟩ default] = true ∧
    Instr.wellFormed (.nop ⟨127, 3, 15⟩ default) = true := by decide +kernel

theorem test_wf_cores :
    refused [.ftabLoadComplete 128 0, .ftabLoadComplete 0 4, .mxTileComplete ⟨128, 0⟩, .l2Access 8 0 none .clean, .creditGrant 128,
      .creditIdleReturn 128 0, .creditIdleReturn 0 128, .hbmChannelDown 128, .hbmScanComplete 128 scan0, .traceDrainBurst 2 0,
      .traceDrainBurst 0 128, .pmcSelect (.queue 0) 128 0 0, .pmcSelect (.queue 0) 0 8 0, .pmcSelect (.queue 4096) 0 0 0,
      .marchDone 128 ⟨[], []⟩, .marchDone 0 ⟨[(256, 0)], []⟩,
      .marchDone 0 ⟨[(0, 192)], []⟩, .hbmScanComplete 0 { scan0 with pc0 := [256] },
      .hbmScanComplete 0 { scan0 with pc1 := [256] }, .hbmScanComplete 0 { scan0 with temp := 256 }] = true ∧
    Instr.wellFormed (.hbmScanComplete 127 { scan0 with pc0 := [255], temp := 255 }) = true := by decide +kernel

theorem test_wf_units :
    refused [.sesameOperation 2 [], .dmaStart 64, .route 2, .expertClose 64 0, .expertClose 0 1024, .contextComplete 64,
      .spHandover (.queue 4096) 0, .spHandover (.host 32) 0, .rtInval (.queue 0) 32 0, .rtAsidWrite (.queue 0) 65536 0,
      .crRegister (.queue 0) 16 0, .thermalSample 16 0, .hbmThermalSample 8 0, .vrTimeout 2, .railFault 16, .setEndpointId 256,
      .challenge 0 (2 ^ 256), .getMeasurements 256 0 false, .getMeasurements 0 (2 ^ 256) false, .bootStepComplete ⟨[(128, 0, 0)], [], [], []⟩,
      .bootStepComplete ⟨[], [128], [], []⟩, .bootStepComplete ⟨[], [], [(128, 0, 0)], []⟩, .bootStepComplete ⟨[], [], [], [(128, scan0)]⟩] = true := by
  decide +kernel

theorem test_wf_queues :
    refused [.claim 32 0 true, .doorbell 32 0 0 8 0, .doorbell 0 4096 0 8 0, .doorbell 0 0 0 9 0, .queueVisit 4096, .queueEnable 0 4096 0,
      .queueEnable 32 0 0, .queueAbort (.queue 0) 4096 0, .evqPop 0 35, .evqPop 32 0, .evqPtrFault 35, .hostFuncBind (.queue 0) 32 0,
      .portReset 2 true, .pcieLinkUp 0 0 0, .pcieLinkUp 0 4 0, .pcieLinkUp 0 1 3, .pcieLinkUp 2 1 0, .configRequest 0 1024 none,
      .configRequest 32 0 none, .bar4Access 0 ⟨0, 0, none⟩ none, .bar4Access 0 ⟨0, 9, none⟩ none, .registerWrite (.queue 0) 0 9 0, .rcRead 0 0 9,
      .rcRead 32 0 8] = true ∧ Instr.wellFormed (.evqPop 31 34) = true := by decide +kernel

theorem test_wf_fabric :
    refused [.write 192 pkt, .write 0 { pkt with type := 256 }, .write 0 { pkt with cls := 4 }, .write 0 { pkt with dst := 2 ^ 20 },
      .write 0 { pkt with src := 2 ^ 20 }, .write 0 { pkt with epoch := 2 ^ 16 }, .write 0 { pkt with tenant := 2 ^ 16 },
      .write 0 { pkt with psn := 2 ^ 32 }, .write 0 { pkt with length := 2 ^ 14 }, .write 0 { pkt with subop := 256 },
      .write 0 { pkt with status := 256 }, .write 0 { pkt with addr := 2 ^ 64 }, .linkUp 192, .ackTimer (2 ^ 20),
      .retransmitTimeout 0 (2 ^ 32), .collRoundSend 256, .breakoutChange (.queue 0) 48 0] = true ∧ Instr.wellFormed (.write 191 pkt) = true := by
  decide +kernel

theorem test_wf_acorn :
    refused [.activity ⟨2 ^ 32, true, 0⟩ (List.replicate 17 default), .activity ⟨0, true, 0⟩ [], .acornReport ⟨2 ^ 32, true, 0⟩ (.teardownStart 0),
      .acornInterval [], .acornSupplyLoss 0 [] true, .request ⟨2 ^ 32, true, 0⟩ 0 0 0, .request ⟨0, true, 0⟩ 32 0 0, .request ⟨0, true, 0⟩ 0 32 0,
      .request ⟨0, true, 0⟩ 0 0 (2 ^ 128)] = true := by decide +kernel
/-! Arithmetic: FP32 encodings of 1.0, 2.0, 3.0 and so on, by hand from the format (R148). -/

/-- v2 = 3.0, v3 = 2.0, v4 = -1.0. -/
def fx : Group := { group with v := fill 2 0x40400000 ++ fill 3 0x40000000 ++ fill 4 0xBF800000 }

theorem test_falu : ∀ r ∈ faluRows.zip [0x40A00000, 0x3F800000, 0x40A00000, 0x40C00000, 0x40000000, 0x40400000, 0x40400000, 0xC0400000],
    (at' (wd 2 3 4 1) 1 r.1.2.1 fx).dev.Ready g0 (wd 2 3 4 1) { cls := 1, op := r.1.2.1 } true (arithOps (wd 2 3 4 1) 1 1 r.1.2.2.2) fx ∧
    ((after (r.1.1 g0 (wd 2 3 4 1)) (at' (wd 2 3 4 1) 1 r.1.2.1 fx)).dev.grp g0).rv 1 31 = r.2 := by decide +kernel

/-- v2 = 12, v3 = 5, v4 = 7. -/
def ix : Group := { group with v := fill 2 12 ++ fill 3 5 ++ fill 4 7 }

theorem test_ialu : ∀ r ∈ ialuRows.zip [17, 7, 60, 67, 5, 12, 4, 13, 9, 0xFFFFFFF3, 384, 0, 0, 2, 28],
    (at' (wd 2 3 4 1) 2 r.1.2.1 ix).dev.Ready g0 (wd 2 3 4 1) { cls := 2, op := r.1.2.1 } true (arithOps (wd 2 3 4 1) 1 1 r.1.2.2.2) ix ∧
    ((after (r.1.1 g0 (wd 2 3 4 1)) (at' (wd 2 3 4 1) 2 r.1.2.1 ix)).dev.grp g0).rv 1 31 = r.2 := by decide +kernel

/-- v2:v3 = 3.0, v4:v5 = 2.0, v6:v7 = -1.0 (FP64). -/
def dx : Group := { group with v := fill 3 0x40080000 ++ fill 5 0x40000000 ++ fill 7 0xBFF00000 }

theorem test_f64 : ∀ r ∈ f64Rows.zip [0x40140000, 0x40180000, 0x40140000, 0x40000000, 0x40080000],
    (at' (wd 2 4 6 8) 6 r.1.2.1 dx).dev.Ready g0 (wd 2 4 6 8) { cls := 6, op := r.1.2.1 } true (arithOps (wd 2 4 6 8) 2 2 r.1.2.2.2) dx ∧
    ((after (r.1.1 g0 (wd 2 4 6 8)) (at' (wd 2 4 6 8) 6 r.1.2.1 dx)).dev.grp g0).rv 9 0 = r.2 := by decide +kernel

/-- IADD wraps (R151). -/
theorem test_iadd_wraps : ((after (.iadd g0 (wd 2 3 0xFF 1)) (at' (wd 2 3 0xFF 1) 2 0 { ix with v := fill 2 0xFFFFFFFF ++ fill 3 5 })).dev.grp g0).rv 1 0
    = 4 := by decide +kernel

/-- CONV: an exchange of lanes 0 and 1 (SHFL mode 3, B = 1), lane 5 to a u register, the vote of P1 = lanes 0-3. -/
def cx : Group := { group with v := (List.range 32).map (fun l => (64 + l, BitVec.ofNat 32 l)) ++ fill 3 1, u := [(0, 5)], p := [(1, 0xF)] }

theorem test_mov : (at' (wd 2 0 0 1) 3 0 cx).dev.Ready g0 (wd 2 0 0 1) (conv 0) true [dst 1, src 2] cx ∧
    ((after (.mov g0 (wd 2 0 0 1)) (at' (wd 2 0 0 1) 3 0 cx)).dev.grp g0).rv 1 9 = 9 := by decide +kernel

theorem test_sel : (at' (wd 2 3 1 1) 3 1 cx).dev.Ready g0 (wd 2 3 1 1) (conv 1) true [dst 1, src 2, src 3, psrc 1] cx ∧
    ((after (.sel g0 (wd 2 3 1 1)) (at' (wd 2 3 1 1) 3 1 cx)).dev.grp g0).rv 1 3 = 3 ∧
    ((after (.sel g0 (wd 2 3 1 1)) (at' (wd 2 3 1 1) 3 1 cx)).dev.grp g0).rv 1 4 = 1 := by decide +kernel

/-- CVT from FP32 (code 9, in B) to FP16 (code 8): 3.0 is 0x4200. -/
theorem test_cvt : (at' (wd 2 9 0 1 8) 3 2 fx).dev.Ready g0 (wd 2 9 0 1 8) (conv 2) (cvtLegal 9 8) [dst 1, src 2] fx ∧
    ((after (.cvt g0 (wd 2 9 0 1 8)) (at' (wd 2 9 0 1 8) 3 2 fx)).dev.grp g0).rv 1 0 = 0x4200 := by decide +kernel

theorem test_shfl : (at' (wd 2 3 0 1 3) 3 3 cx).dev.Ready g0 (wd 2 3 0 1 3) (conv 3) true [dst 1, src 2, src 3] cx ∧
    ((after (.shfl g0 (wd 2 3 0 1 3)) (at' (wd 2 3 0 1 3) 3 3 cx)).dev.grp g0).rv 1 30 = 31 := by decide +kernel

theorem test_rdlane : (at' (wd 2 0x100 0 0x101) 3 4 cx).dev.Ready g0 (wd 2 0x100 0 0x101) (conv 4) true [udst 0x101, src 2, usrc 0x100] cx ∧
    ((after (.rdlane g0 (wd 2 0x100 0 0x101)) (at' (wd 2 0x100 0 0x101) 3 4 cx)).dev.grp g0).ru 1 = 5 := by decide +kernel

theorem test_vote : (at' (wd 1 0 0 0x101) 3 5 cx).dev.Ready g0 (wd 1 0 0 0x101) (conv 5) true [udst 0x101, psrc 1] cx ∧
    ((after (.vote g0 (wd 1 0 0 0x101)) (at' (wd 1 0 0 0x101) 3 5 cx)).dev.grp g0).ru 1 = 15 := by decide +kernel

theorem test_bcast : (at' (wd 2 0 0 1) 3 6 cx).dev.Ready g0 (wd 2 0 0 1) (conv 6) true [dst 1, src 2] cx ∧
    ((after (.bcast g0 (wd 2 0 0 1)) (at' (wd 2 0 0 1) 3 6 cx)).dev.grp g0).rv 1 9 = 0 := by decide +kernel

/-- CMP: 3.0 > 2.0 (operation 4), 12 < 5 (operation 2), P1 and not P0 (truth table 0x10 on A = P1, B = P0, C = P0). -/
theorem test_fsetp : (at' (wd 2 3 0xFF 0 0x40 0 2) 4 0 fx).dev.Ready g0 (wd 2 3 0xFF 0 0x40 0 2) { cls := 4, op := 0 } true
      [src 2, src 3, vzero 0xFF] fx ∧
    ((after (.fsetp g0 (wd 2 3 0xFF 0 0x40 0 2)) (at' (wd 2 3 0xFF 0 0x40 0 2) 4 0 fx)).dev.grp g0).predMask 2 = 2 ^ 32 - 1 := by
  decide +kernel

theorem test_isetp : (at' (wd 2 3 0xFF 0 0x20 0 2) 4 1 ix).dev.Ready g0 (wd 2 3 0xFF 0 0x20 0 2) { cls := 4, op := 1 } true
      [src 2, src 3, vzero 0xFF] ix ∧
    ((after (.isetp g0 (wd 2 3 0xFF 0 0x20 0 2)) (at' (wd 2 3 0xFF 0 0x20 0 2) 4 1 ix)).dev.grp g0).predMask 2 = 0 := by decide +kernel

theorem test_plop : (at' (wd 1 0 0 0 0x10 0 2) 4 2 cx).dev.Ready g0 (wd 1 0 0 0 0x10 0 2) { cls := 4, op := 2 } true
      [psrc 1, psrc 0, psrc 0] cx ∧
    ((after (.plop g0 (wd 1 0 0 0 0x10 0 2)) (at' (wd 1 0 0 0 0x10 0 2) 4 2 cx)).dev.grp g0).predMask 2 = 15 := by decide +kernel

/-! The function-table unit: a loaded table; a table to load from 0x1000; a load that ends. -/

theorem test_tables : ∀ r ∈ tableRows,
    (at' (wd 2 0 0 1) 5 r.2.1 fx).dev.Ready g0 (wd 2 0 0 1) { cls := 5, op := r.2.1, form := .short } true [dst 1, src 2] fx := by
  decide +kernel

/-- Group 0 at an FTAB instruction, slot 0 loaded. -/
def tabDev (w : AWord) (op : Nat) (x : Group) (t : FTab) : Dev := (dev (code w 5 op) x).setFtab 0 0 t

theorem test_ftabEv : (tabDev (wd 2 0 0 1) 0 fx { (default : FTab) with loaded := true }).Ready g0 (wd 2 0 0 1)
      { cls := 5, op := 0, form := .short } true [dst 1, src 2] fx ∧
    fx.execMask (wd 2 0 0 1).guard ≠ 0 ∧ bit (launch.tables) (AWord.slot (wd 2 0 0 1)) = true ∧
    ((after (.ftabEv g0 (wd 2 0 0 1)) (st (tabDev (wd 2 0 0 1) 0 fx { (default : FTab) with loaded := true }))).dev.grp g0).pc = 0xC000000008 := by
  decide +kernel

/-- u0 = 0x1000. -/
def ux : Group := { group with u := [(0, 0x1000)] }

theorem test_ftabLd : (tabDev (wd 0x100 0 0 0) 1 ux default).Ready g0 (wd 0x100 0 0 0) { cls := 5, op := 1, form := .short } true [usrc 0x100] ux ∧
    ux.rd 0 0x100 0 = 0x1000 ∧ (tabDev (wd 0x100 0 0 0) 1 ux default).get (SP_STATUS.FAILED 0) = 0 ∧
    (tabDev (wd 0x100 0 0 0) 1 ux default).spAdmits { kernel := true, part := 31, dma := false, march := false } 0 0x1000 4096 = true ∧
    (tabDev (wd 0x100 0 0 0) 1 ux default).sbOverlaps 0 0x1000 4096 false = false ∧
    ((after (.ftabLd g0 (wd 0x100 0 0 0)) (st (tabDev (wd 0x100 0 0 0) 1 ux default))).dev.ftabOf 0 0).busy = true := by decide +kernel

theorem test_ftabLoadComplete : ((after (.ftabLoadComplete 127 3) (st (Dev.reset.setFtab 127 3 { (default : FTab) with busy := true, next := [7] }))).dev.ftabOf
    127 3).coef = [7] := by decide +kernel

/-! SYS. -/

theorem test_sysId : (at' (wd 0 0 0 1 0) 13 0).dev.Ready g0 (wd 0 0 0 1 0) (sys 0) true [dst 1] group ∧
    (∀ l, (at' (wd 0 0 0 1 0) 13 0).dev.identity g0 group launch 0 l = some l) ∧
    ((after (.sysId g0 (wd 0 0 0 1 0)) (at' (wd 0 0 0 1 0) 13 0)).dev.grp g0).rv 1 31 = 31 := by
  refine ⟨by decide +kernel, fun l => rfl, by decide +kernel⟩

theorem test_sysTime : (at' (wd 0 0 0 0x102 0) 13 1).dev.Ready g0 (wd 0 0 0 0x102 0) (sys 1) true [udst 0x102 2] group ∧
    group.execMask (wd 0 0 0 0x102 0).guard ≠ 0 ∧
    ((after (.sysTime g0 (wd 0 0 0 0x102 0)) { at' (wd 0 0 0 0x102 0) 13 1 with time := 0x500000007 }).dev.grp g0).ru 3 = 5 := by decide +kernel

theorem test_sysCycle : (at' (wd 0 0 0 0x102 0) 13 2).dev.Ready g0 (wd 0 0 0 0x102 0) (sys 2) true [udst 0x102 2] group ∧
    ((after (.sysCycle g0 (wd 0 0 0 0x102 0)) (at' (wd 0 0 0 0x102 0) 13 2)).dev.grp g0).ru 2 = 0 := by decide +kernel

theorem test_sysFlags : (at' (wd 0 0 0 0x102 0) 13 3 { group with flags := 9 }).dev.Ready g0 (wd 0 0 0 0x102 0) (sys 3) true [udst 0x102]
      { group with flags := 9 } ∧
    ((after (.sysFlags g0 (wd 0 0 0 0x102 0)) (at' (wd 0 0 0 0x102 0) 13 3 { group with flags := 9 })).dev.grp g0).ru 2 = 9 ∧
    ((after (.sysFlags g0 (wd 0 0 0 0x102 0)) (at' (wd 0 0 0 0x102 0) 13 3 { group with flags := 9 })).dev.grp g0).flags = 0 := by decide +kernel

/-- The recorder runs and takes every kind of every account. -/
def recDev (d : Dev) : Dev :=
  ((d.put REC_CTL.ENABLE 1).put REC_CTL.KIND_MASK 255).put REC_CTL.PART_MASK 0x1FFFF

theorem test_sysMark : (recDev (dev (code (wd 2 0 0 0) 13 4) ix)).Ready g0 (wd 2 0 0 0) (sys 4) true [src 2] ix ∧
    (recDev (dev (code (wd 2 0 0 0) 13 4) ix)).get REC_CTL.ENABLE = 1 ∧
    bit ((recDev (dev (code (wd 2 0 0 0) 13 4) ix)).get REC_CTL.KIND_MASK) 0 = true ∧
    bit ((recDev (dev (code (wd 2 0 0 0) 13 4) ix)).get REC_CTL.PART_MASK) 16 = true ∧
    ((after (.sysMark g0 (wd 2 0 0 0)) (st (recDev (dev (code (wd 2 0 0 0) 13 4) ix)))).dev.core.trace.look 0).packets.length = 1 := by
  decide +kernel

/-! Control. -/

/-- u2:u3 = 0xC000000100. -/
def jx : Group := { group with u := [(2, 0x100), (3, 0xC0)] }

theorem test_nop : (at' (wd 0 0 0 0) 0 0).dev.Ready g0 (wd 0 0 0 0) (ctrl 0) true [] group ∧
    ((after (.nop g0 (wd 0 0 0 0)) (at' (wd 0 0 0 0) 0 0)).dev.grp g0).pc = 0xC000000008 := by decide +kernel

/-- CALL by -2 words: the return address is past both words of the call (R95). -/
theorem test_call : (at' (AWord.long (wd 0 0 0 0x104) 0xFFFFFFFE) 0 2).dev.Ready g0 (AWord.long (wd 0 0 0 0x104) 0xFFFFFFFE) (ctrl 2 .long) true
      [udst 0x104 2] group ∧
    ((after (.call g0 (AWord.long (wd 0 0 0 0x104) 0xFFFFFFFE)) (at' (AWord.long (wd 0 0 0 0x104) 0xFFFFFFFE) 0 2)).dev.grp g0).pc =
      0xBFFFFFFFF0 ∧
    ((after (.call g0 (AWord.long (wd 0 0 0 0x104) 0xFFFFFFFE)) (at' (AWord.long (wd 0 0 0 0x104) 0xFFFFFFFE) 0 2)).dev.grp g0).ru 4 = 0x10 := by
  decide +kernel

theorem test_ret_jmpu : (at' (wd 0x102 0 0 0) 0 3 jx).dev.Ready g0 (wd 0x102 0 0 0) (ctrl 3) true [usrc 0x102 2] jx ∧
    (at' (wd 0x102 0 0 0) 0 4 jx).dev.Ready g0 (wd 0x102 0 0 0) (ctrl 4) true [usrc 0x102 2] jx ∧
    ((after (.ret g0 (wd 0x102 0 0 0)) (at' (wd 0x102 0 0 0) 0 3 jx)).dev.grp g0).pc = 0xC000000100 ∧
    ((after (.jmpu g0 (wd 0x102 0 0 0)) (at' (wd 0x102 0 0 0) 0 4 jx)).dev.grp g0).pc = 0xC000000100 := by decide +kernel

/-- A branch by 4 words, to meet again at 8 words, of the lanes where P1 is true: none, all, lanes 0-3. -/
def bw : AWord := AWord.long (wd 0 0 0 0 0 0x11) 4 8

theorem test_bra : ∀ m ∈ [(0, 0xC000000010, 0xFFFFFFFF, 0), (0xFFFFFFFF, 0xC000000020, 0xFFFFFFFF, 0), (0xF, 0xC000000010, 0xFFFFFFF0, 1)],
    (at' bw 0 1 { group with p := [(1, m.1)] }).dev.Ready g0 bw (ctrl 1 .long true) true [] { group with p := [(1, m.1)] } ∧
    ((after (.bra g0 bw) (at' bw 0 1 { group with p := [(1, m.1)] })).dev.grp g0).pc = m.2.1 ∧
    ((after (.bra g0 bw) (at' bw 0 1 { group with p := [(1, m.1)] })).dev.grp g0).mask = m.2.2.1 ∧
    ((after (.bra g0 bw) (at' bw 0 1 { group with p := [(1, m.1)] })).dev.grp g0).stack.length = m.2.2.2 := by decide +kernel

/-- A group whose stack is full, with a branch that diverges. -/
def full : Group := { group with p := [(1, 0xF)], stack := List.replicate 32 { (default : RecEntry) with rpc := 1 } }

theorem test_bra_overflow : (at' bw 0 1 full).dev.Ready g0 bw (ctrl 1 .long true) true [] full ∧ full.execMask bw.guard = 0xF ∧
    full.stack.length = 32 ∧ ((after (.bra g0 bw) (at' bw 0 1 full)).dev.grp g0).st = .halted ∧
    ((after (.bra g0 bw) (at' bw 0 1 full)).dev.launchOf 1).exc.map (fun c => (c.code, c.depth)) = some (0x10, 32) := by decide +kernel

theorem test_trap_bkpt : (at' (wd 0 0 0 0 0x55) 0 8).dev.Ready g0 (wd 0 0 0 0 0x55) (ctrl 8) true [] group ∧
    (at' (wd 0 0 0 0) 0 9).dev.Ready g0 (wd 0 0 0 0) (ctrl 9) true [] group ∧ group.execMask 0 ≠ 0 ∧
    ((after (.trap g0 (wd 0 0 0 0 0x55)) (at' (wd 0 0 0 0 0x55) 0 8)).dev.launchOf 1).exc.map (fun c => (c.code, c.trap)) = some (0x20, 0x55) ∧
    ((after (.bkpt g0 (wd 0 0 0 0)) (at' (wd 0 0 0 0) 0 9)).dev.launchOf 1).exc.map (fun c => c.code) = some 0x21 := by decide +kernel

/-- EXIT of lanes 0-3, and of every lane. -/
theorem test_exit : (at' (wd 0 0 0 0 0 0x11) 0 5 { group with p := [(1, 0xF)] }).dev.Ready g0 (wd 0 0 0 0 0 0x11) (ctrl 5) true []
      { group with p := [(1, 0xF)] } ∧
    ((after (.exit g0 (wd 0 0 0 0 0 0x11)) (at' (wd 0 0 0 0 0 0x11) 0 5 { group with p := [(1, 0xF)] })).dev.grp g0).exited = 0xF ∧
    (at' (wd 0 0 0 0) 0 5).dev.Ready g0 (wd 0 0 0 0) (ctrl 5) true [] group ∧
    ((after (.exit g0 (wd 0 0 0 0)) (at' (wd 0 0 0 0) 0 5)).dev.grp g0).live = false := by decide +kernel

/-! Barriers: a full arrival, a partial one. -/

/-- Half of the lanes wait on the stack. -/
def half : Group := { group with mask := 0xFFFF, stack := [{ (default : RecEntry) with rpc := 1, pendPc := 0xC000000100, pendMask := 0xFFFF0000 }] }

theorem test_bar : ∀ r ∈ [(Instr.bar g0 (wd 0 0 0 0 3), 6, false, 2), (Instr.barClu g0 (wd 0 0 0 0 3), 7, true, 3)],
    (at' (wd 0 0 0 0 3) 0 r.2.1).dev.Ready g0 (wd 0 0 0 0 3) (ctrl r.2.1) true [] group ∧
    (at' (wd 0 0 0 0 3) 0 r.2.1).dev.releaseReady g0 group r.2.2.2 = true ∧ group.mask = ~~~group.exited ∧
    ((after r.1 (at' (wd 0 0 0 0 3) 0 r.2.1)).dev.grp g0).st = .barrier r.2.2.1 3 ∧
    (at' (wd 0 0 0 0 3) 0 r.2.1 half).dev.Ready g0 (wd 0 0 0 0 3) (ctrl r.2.1) true [] half ∧ half.mask ≠ ~~~half.exited ∧
    ((after r.1 (at' (wd 0 0 0 0 3) 0 r.2.1 half)).dev.grp g0).pc = 0xC000000100 := by decide +kernel

/-- The block's one group has arrived at barrier 3. -/
def parked (clu : Bool) : Dev := dev [] { group with st := .barrier clu 3 }

theorem test_barrier_releases :
    (parked false).core.blocks.find? (fun c => c.id == 1 && c.core == 0) = some { (default : Block) with id := 1, launch := 1, groups := [(0, 0)] } ∧
    (∀ b ∈ (parked false).core.blocks, (parked false).arrivedAll b false 3 = true) ∧
    (∀ b ∈ (parked true).core.blocks, b.launch = 1 → b.cluster = 0 → (parked true).arrivedAll b true 3 = true) ∧
    ((after (.blockBarrierRelease 0 1 3) (st (parked false))).dev.grp g0).st = .run ∧
    ((after (.clusterBarrierRelease 1 0 3) (st (parked true))).dev.grp g0).st = .run := by decide +kernel

/-! Illegal words: type code 9 of IALU; a source of no register. -/

theorem test_illegal : ∀ r ∈ ialuRows,
    (at' (wd 2 3 4 1 9) 2 r.2.1).dev.atIssue g0 = some group ∧ (at' (wd 2 3 4 1 9) 2 r.2.1).dev.fetches g0 (wd 2 3 4 1 9) { cls := 2, op := r.2.1 } group = true ∧
    ialuType (AWord.type (wd 2 3 4 1 9)) = none := by decide +kernel

theorem test_illegal_operand : ∀ r ∈ ialuRows,
    (at' (wd 0x150 3 4 1) 2 r.2.1).dev.atIssue g0 = some group ∧
    (at' (wd 0x150 3 4 1) 2 r.2.1).dev.fetches g0 (wd 0x150 3 4 1) { cls := 2, op := r.2.1 } group = true ∧
    operandsOk group (wd 0x150 3 4 1) { cls := 2, op := r.2.1 } (arithOps (wd 0x150 3 4 1) 1 1 r.2.2.2) = false := by decide +kernel

theorem test_illegal_codes :
    ((after (.iadd g0 (wd 2 3 0xFF 1 9)) (at' (wd 2 3 0xFF 1 9) 2 0)).dev.launchOf 1).exc.map (fun c => c.code) = some 1 ∧
    ((after (.iadd g0 (wd 0x150 3 0xFF 1)) (at' (wd 0x150 3 0xFF 1) 2 0)).dev.launchOf 1).exc.map (fun c => c.code) = some 2 := by decide +kernel

/-! Memory. One lane; v2:v3 = 0xC000001000 of the core's own scratchpad, or 0x1000 of HBM with one channel. -/

/-- One active lane. -/
def lane1 : Group := { group with mask := 1, v := [(64, 0x1000), (96, 0xC0), (128, 0xDDCCBBAA)] }

/-- The same with an address of HBM. -/
def laneH : Group := { lane1 with v := [(64, 0x1000), (128, 0xDDCCBBAA)] }

/-- The piece of its one lane, and where it lies. -/
def piece : Piece := ⟨0, 0xC000001000, 0, 4⟩
def ts : List Target := [(piece, .sp 0 0x1000, 1)]
def pieceH : Piece := ⟨0, 0x1000, 0, 4⟩
def tsH : List Target := [(pieceH, .hbm 0x1000, 1)]

/-- MOD: 4 bytes, physical, relaxed. -/
def mw : AWord := wd 2 0xFF 0xFF 1 0x0A
def sw : AWord := wd 2 0xFF 4 0xFF 0x0A

/-- A device with four bytes at the address. -/
def atMem (w : AWord) (cls op : Nat) (x : Group) : Dev :=
  let d := withHbm (dev (code w cls op) x)
  { d with mem := { d.mem with cells := writeBytes d.mem.cells 0xC000001000 [0x11, 0x22, 0x33, 0x84] } }

/-- What the checks of the address unit find. -/
def found (d : Dev) (w : AWord) (x : Group) (kinds : Nat) (extra : Piece → Place → Option Nat) : List (Piece × Chk) :=
  d.checkPieces (d.issueOf g0 w x) (AWord.phys w) kinds (lanePieces (x.execMask w.guard) (AWord.size w) ((d.issueOf g0 w x).laneAddr true)) extra
    (fun _ => none)

/-- SEM_ACCESS for a word of Sesame. -/
def noSes (_ : Piece) (pl : Place) : Option Nat := if pl.isSes then some xSem else none

theorem test_loads : ∀ r ∈ [(Instr.ld g0 mw, 0), (Instr.lds g0 mw, 1)],
    (atMem mw 7 r.2 lane1).Ready g0 mw { cls := 7, op := r.2 } (AWord.memLegal mw) [dst 1, src 2 2, src 0xFF] lane1 ∧
    found (atMem mw 7 r.2 lane1) mw lane1 kRead (loadExtra 4) = ts.map (fun t => (t.1, .ok t.2.1 t.2.2)) ∧
    (atMem mw 7 r.2 lane1).boardHolds 0 false ts = false ∧ (∀ t ∈ ts, (atMem mw 7 r.2 lane1).spanHeld g0 false t = false) ∧ lane1.missing = false ∧
    (atMem mw 7 r.2 lane1).mem.upsets = [] ∧
    (((after r.1 (st (atMem mw 7 r.2 lane1))).dev.grp g0).accs.map (fun a => (a.waits.length, Sparse.look a.bytes 3))) = [(0, 0x84)] := by
  decide +kernel

/-- A load of HBM misses: a fill is asked of its slice. -/
theorem test_load_hbm : (atMem mw 7 0 laneH).Ready g0 mw { cls := 7, op := 0 } (AWord.memLegal mw) [dst 1, src 2 2, src 0xFF] laneH ∧
    found (atMem mw 7 0 laneH) mw laneH kRead (loadExtra 4) = tsH.map (fun t => (t.1, .ok t.2.1 t.2.2)) ∧
    (after (.ld g0 mw) (st (atMem mw 7 0 laneH))).dev.mem.l2q.map (fun r => (r.sector, r.op)) = [(0x80, .fill)] := by decide +kernel

/-- An access in flight whose byte 0 is 0x80, for v1 of lane 0. -/
def acc (acq : Nat) (poison : BitVec 32 := 0) : Access :=
  { id := 9, pc := 0xC000000000, kind := .signExt, size := 1, d := 1, lanes := [(0, 0xC000001000)], bytes := [(0, 0x80)], waits := [],
    poison := poison, acq := acq, host := [] }

def accDev (acq : Nat) (poison : BitVec 32 := 0) : Dev :=
  dev [] { group with accs := [acc acq poison], st := if acq = 0 then .run else .acquire 9 }

theorem test_answers : ∀ q ∈ [0, 2, 5],
    ((accDev q).grp g0).live = true ∧ ((accDev q).grp g0).accs.find? (fun b => b.id == 9) = some (acc q) ∧ (acc q).waits = [] ∧
    (acc q).poison = 0 ∧ (q ≠ 0 → ((accDev q).grp g0).st = .acquire 9) ∧
    ((after (.accessResponse g0 9) (st (accDev q))).dev.grp g0).rv 1 0 = 0xFFFFFF80 ∧
    ((after (.accessResponse g0 9) (st (accDev q))).dev.grp g0).st = .run := by decide +kernel

theorem test_poisoned : (acc 0 1).poison ≠ 0 ∧ ((accDev 0 1).grp g0).st = .run ∧
    ((after (.accessResponse g0 9) (st (accDev 0 1))).dev.launchOf 1).exc.map (fun c => (c.code, c.lanes, c.addr)) =
      some (0x0E, 1, 0xC000001000) := by decide +kernel

theorem test_store : Memory.wf (atMem sw 7 2 lane1).mem.cells = true ∧
    (atMem sw 7 2 lane1).Ready g0 sw { cls := 7, op := 2 } (AWord.memLegal sw) [vzero 0xFF, src 2 2, src 0xFF, src 4] lane1 ∧
    found (atMem sw 7 2 lane1) sw lane1 kWrite noSes = ts.map (fun t => (t.1, .ok t.2.1 t.2.2)) ∧
    (atMem sw 7 2 lane1).boardHolds 0 true ts = false ∧ (∀ t ∈ ts, (atMem sw 7 2 lane1).spanHeld g0 true t = false) ∧
    (atMem sw 7 2 lane1).mem.upsets = [] ∧
    (after (.st g0 sw) (st (atMem sw 7 2 lane1))).dev.spRead 0 0x1000 4 = [0xAA, 0xBB, 0xCC, 0xDD] := by decide +kernel

theorem test_store_hbm : (atMem sw 7 2 laneH).Ready g0 sw { cls := 7, op := 2 } (AWord.memLegal sw) [vzero 0xFF, src 2 2, src 0xFF, src 4] laneH ∧
    found (atMem sw 7 2 laneH) sw laneH kWrite noSes = tsH.map (fun t => (t.1, .ok t.2.1 t.2.2)) ∧
    (atMem sw 7 2 laneH).boardHolds 0 true tsH = false ∧ (∀ t ∈ tsH, (atMem sw 7 2 laneH).spanHeld g0 true t = false) ∧
    (atMem sw 7 2 laneH).mem.upsets = [] ∧
    (after (.st g0 sw) (st (atMem sw 7 2 laneH))).dev.mem.l2q.map (fun r => (r.sector, r.op)) =
      [(0x80, .write [(0, 0xAA), (1, 0xBB), (2, 0xCC), (3, 0xDD)])] := by decide +kernel

theorem test_pref : (atMem { sw with c := 0 } 7 3 laneH).Ready g0 { sw with c := 0 } { cls := 7, op := 3 } true [vzero 0xFF, src 2 2, src 0xFF] laneH ∧
    found (atMem { sw with c := 0 } 7 3 laneH) { sw with c := 0 } laneH kRead noSes = tsH.map (fun t => (t.1, .ok t.2.1 t.2.2)) ∧
    sectorsOf tsH = [(0x80, 1)] ∧ (atMem { sw with c := 0 } 7 3 laneH).l1Misses 0 0x80 [] = true ∧
    (after (.pref g0 { sw with c := 0 }) (st (atMem { sw with c := 0 } 7 3 laneH))).dev.core.fills.map (fun f => f.sector) = [0x80] := by
  decide +kernel

/-- ATOM ADD, 4 bytes, physical, into v1. -/
def aw : AWord := AWord.long (wd 2 4 0xFF 1 0x0A) 0

theorem test_atom : (atMem aw 8 0 lane1).Ready g0 aw { cls := 8, op := 0, form := .long, ext := true } (AWord.atomLegal aw) [dst 1, src 2 2, src 4] lane1 ∧
    (atMem aw 8 0 lane1).checkPieces ((atMem aw 8 0 lane1).issueOf g0 aw lane1) true (kRead + kWrite)
      (lanePieces 1 4 (((atMem aw 8 0 lane1).issueOf g0 aw lane1).laneAddr false)) (fun _ pl => atomExtra 0 pl)
      (fun q => if ((atMem aw 8 0 lane1).issueOf g0 aw lane1).laneAddr false q.lane % 4 = 0 then none else some xMisaligned) =
      [(piece, .ok (.sp 0 0x1000) 1)] ∧ (atMem aw 8 0 lane1).spanHeld g0 true (piece, .sp 0 0x1000, 1) = false ∧ (atMem aw 8 0 lane1).mem.upsets = [] ∧
    (after (.atom g0 aw) (st (atMem aw 8 0 lane1))).dev.spRead 0 0x1000 4 = [0xBB, 0xDD, 0xFF, 0x61] ∧
    ((after (.atom g0 aw) (st (atMem aw 8 0 lane1))).dev.grp g0).accs.map (fun a => Sparse.look a.bytes 3) = [0x84] := by decide +kernel

/-! The L2 and the L1: a fill and a write at slice 0 whose sector is held; a fill that comes back. -/

def l2Dev (op : L2Op) : Dev :=
  let d := withHbm (dev [])
  { d with
    mem := { d.mem with
      l2 := [(0x80, { held := true, dirty := false, poison := false, data := 0x11 })],
      l2q := [{ id := 5, returns := false, src := .core 0, gid := none, part := 31, sector := 0x80, op := op, lc := 1 }] },
    core := { d.core with fills := [{ id := 5, core := 0, sector := 0x80, install := true, attach := true, stores := [], data := none }] } }

theorem test_l2 : (l2Dev .fill).sliceOf 0x80 = 0 ∧ (l2Dev .fill).upset (.l2 0x80) = .clean ∧ ((l2Dev .fill).mem.l2.look 0x80).held = true ∧
    (after (.l2Access 0 0 none .clean) (st (l2Dev .fill))).dev.core.fills.map (fun f => f.data) = [some (0x11, false)] ∧
    ((after (.l2Access 0 0 none .clean) (st (l2Dev (.write [(1, 0x22)])))).dev.mem.l2.look 0x80).data = 0x2211 ∧
    (after (.l2Access 0 0 none .clean) (st (l2Dev (.write [(1, 0x22)])))).dev.mem.l2q = [] := by decide +kernel

def l1Dev : Dev :=
  let d := dev []
  let f : Fill := { id := 5, core := 0, sector := 0x80, install := true, attach := true, stores := [(0, 1, 0x22)], data := some (0x11, false) }
  { d with core := { d.core with
      fills := [f],
      l1 := [(l1Key 0 (l1Set 0x20) 3, { line := 0x20, st := [.pending, .invalid, .invalid, .invalid], data := [0, 0, 0, 0] })] } }

theorem test_l1_fill : l1Dev.l1Find 0 0x20 = some 3 ∧ (l1Dev.l1Way 0 (l1Set 0x20) 3).st.length = 4 ∧
    (l1Dev.l1Way 0 (l1Set 0x20) 3).data.length = 4 ∧
    ((after (.l1Fill 0 0x80) (st l1Dev)).dev.l1Way 0 (l1Set 0x20) 3).state 0 = .valid ∧
    ((after (.l1Fill 0 0x80) (st l1Dev)).dev.l1Way 0 (l1Set 0x20) 3).data.getD 0 0 = 0x2211 := by decide +kernel

/-! Fences of cluster and of fabric scope: a line of the L1 is gone after an acquire, stays after a release. -/

def fw (scope d : Nat) : AWord := wd 0xFF 0xFF 0xFF d (scope * 16)

def fenceDev (w : AWord) (op : Nat) : Dev :=
  let d := dev (code w 9 op) { group with fabStat := 0x20003 }
  { d with core := { d.core with l1 := [(3, { line := 0x20, st := [.valid], data := [0] })] } }

theorem test_fences : ∀ r ∈ [(Instr.fenceLd g0 (fw 3 0), 0, 0), (Instr.fenceSt g0 (fw 3 0), 1, 1), (Instr.fenceAll g0 (fw 3 0), 2, 0)],
    (fenceDev (fw 3 0) r.2.1).Ready g0 (fw 3 0) { cls := 9, op := r.2.1, form := .short } true [vzero 0xFF, vzero 0xFF, vzero 0xFF]
      { group with fabStat := 0x20003 } ∧
    (fenceDev (fw 3 0) r.2.1).releaseReady g0 { group with fabStat := 0x20003 } 3 = true ∧
    (after r.1 (st (fenceDev (fw 3 0) r.2.1))).dev.core.l1.length = r.2.2 := by decide +kernel

theorem test_fence_fabric : (fenceDev (fw 5 0x101) 2).Ready g0 (fw 5 0x101) { cls := 9, op := 2, form := .short } true
      [vzero 0xFF, vzero 0xFF, vzero 0xFF, udst 0x101] { group with fabStat := 0x20003 } ∧
    (fenceDev (fw 5 0x101) 2).releaseReady g0 { group with fabStat := 0x20003 } 5 = true ∧
    ((after (.fenceAll g0 (fw 5 0x101)) (st (fenceDev (fw 5 0x101) 2))).dev.grp g0).ru 1 = 0x20003 ∧
    ((after (.fenceAll g0 (fw 5 0x101)) (st (fenceDev (fw 5 0x101) 2))).dev.grp g0).fabStat = 0 := by decide +kernel

/-! Landing zones: core 100 writes core 127. -/

/-- An entry for the first span of core 127. -/
def entry : LzEntry :=
  { id := 4, gid := ⟨100, 0, 0⟩, part := 31, sender := 100, receiver := 127, bytes := [(spBase + 127 * spStride, 7)], atoms := [], returns := false }

def lzDev : Dev :=
  { Dev.reset with mem := { MemSys.reset with askq := [(100, 127)], lz := [entry], credit := [(100 * 128 + 127, { held := 3, asked := 64, last := 0 })] } }

theorem test_landing : lzDev.mem.askq.find? (fun x => x.2 == 127) = some (100, 127) ∧ 64 ≤ lzDev.lzFree 127 ∧
    ((after (.creditGrant 127) (st lzDev)).dev.creditOf 100 127).held = 67 ∧
    4096 * 1000 ≤ ((10000 : DWord).toNat - (lzDev.creditOf 100 127).last) * lzDev.get (MGMT_SECTION.MHZ (sectOf 100)) ∧
    ((after (.creditIdleReturn 100 127) { st lzDev with time := 10000 }).dev.creditOf 100 127).held = 0 ∧
    (lzDev.mem.lz.filter (fun z => z.receiver == 127))[0]? = some entry ∧ (∀ b ∈ entry.bytes, b.1 / 64 = (spBase + 127 * spStride) / 64) ∧
    (after (.landingZoneWrite 127 0) (st lzDev)).dev.spRead 127 0 1 = [7] := by decide +kernel

/-! Matrix arrays. INT8 weights and activations, 32 tokens: records of 1,024 bytes (R105-R109, R120). -/

def mode8 : Nat := 5 * 2 + 5 * 2 ^ 13 + 5 * 2 ^ 17

/-- u0 = the mode word, u1 = 0x2000, u2 = 0x4000, u3 = 1 record, u4 = a drain descriptor of INT32 (code 5). -/
def mx : Group := { group with u := [(0, BitVec.ofNat 32 mode8), (1, 0x2000), (2, 0x4000), (3, 1), (4, 5), (6, 7)] }

/-- Core 0's array with a queue. -/
def arr (q : List ArrCmd) : Arr := { (default : Arr) with modeIssue := some mode8, modeNow := some mode8, acc := [[], []], queue := q, launch := 1 }

def arrDev (w : AWord) (op : Nat) (a : Arr) : Dev := { dev (code w 10 op) mx with array := { arrs := [(0, a)] } }

def tile0 : ArrCmd := .tile g0 1 0 0 0x2000 0x4000 1 false

theorem test_mx_mode : ∀ q ∈ [[], [tile0]],
    (arrDev (wd 0x100 0 0 0) 0 (arr q)).Ready g0 (wd 0x100 0 0 0) { cls := 10, op := 0, form := .short } true [usrc 0x100] mx ∧
    (arr q).queue.length < 32 ∧ (arr q).steady = true ∧ mwLegal mode8 = true ∧
    ((after (.mxMode g0 (wd 0x100 0 0 0)) (st (arrDev (wd 0x100 0 0 0) 0 (arr q)))).dev.arr 0).queue =
      (if q = [] then [] else [tile0, .mode mode8]) := by decide +kernel

/-- The words of MX.TILE and MX.DRAIN. -/
def tw : AWord := wd 0x101 0x102 0x103 0x105
def dw : AWord := wd 0x101 0x104 0 0
def ew : AWord := wd 0x101 0x106 0 0 1

theorem test_mx_tile : bit (st Dev.reset).chip.arrays 0 = true ∧ (arrDev tw 1 (arr [])).get (SP_STATUS.FAILED 0) = 0 ∧
    (arrDev tw 1 (arr [])).Ready g0 tw { cls := 10, op := 1, form := .short } true [usrc 0x101, usrc 0x102, usrc 0x103, udst 0x105] mx ∧
    tileLegal mode8 0x2000 0x4000 1 = true ∧
    ((arrDev tw 1 (arr [])).issueOf g0 tw mx).spanFault (arrDev tw 1 (arr [])) 0x2000 (1 * (shapeOf mode8).wRec) = none ∧
    ((arrDev tw 1 (arr [])).issueOf g0 tw mx).spanFault (arrDev tw 1 (arr [])) 0x4000 (1 * (shapeOf mode8).aRec) = none ∧
    (arrDev tw 1 (arr [])).sbOverlaps 0 0x2000 (1 * (shapeOf mode8).wRec) false = false ∧
    (arrDev tw 1 (arr [])).sbOverlaps 0 0x4000 (1 * (shapeOf mode8).aRec) false = false ∧
    ((after (.mxTile g0 tw) (st (arrDev tw 1 (arr [])))).dev.arr 0).queue = [.tile g0 1 0xC000000000 0 0x2000 0x4000 1 false] ∧
    ((after (.mxTile g0 tw) (st (arrDev tw 1 (arr [])))).dev.arr 0).issued = 1 := by decide +kernel

/-- To the scratchpad: 32 tokens of 32 sums of 4 bytes are 4,096 bytes; to the dispatch unit: format 0, the descriptor is 7 in u6. -/
theorem test_mx_drain : (arrDev dw 2 (arr [])).Ready g0 dw { cls := 10, op := 2, form := .short } true [usrc 0x101, usrc 0x104] mx ∧ drainLegal mode8 5 = true ∧
    drainBytes mode8 5 = 4096 ∧ ((arrDev dw 2 (arr [])).issueOf g0 dw mx).spanFault (arrDev dw 2 (arr [])) 0x2000 4096 = none ∧
    (arrDev dw 2 (arr [])).sbOverlaps 0 0x2000 4096 true = false ∧
    (arrDev dw 2 (arr [])).sbFull 0 1 { core := 0, drain := some (g0, 0xC000000000), engine := 0 } = false ∧
    ((after (.mxDrain g0 dw) (st (arrDev dw 2 (arr [])))).dev.arr 0).bank = 1 ∧
    (after (.mxDrain g0 dw) (st (arrDev dw 2 (arr [])))).dev.mem.sb.map (fun b => (b.lo, b.hi, b.write)) = [(0x2000, 0x3000, true)] := by
  decide +kernel

/-- BF16 weights and activations (code 7): a drain of FP32 may go to the dispatch unit. -/
def mode7 : Nat := 5 * 2 + 7 * 2 ^ 13 + 7 * 2 ^ 17

def ex : Group := { mx with u := [(1, 0x1000), (6, 0)] }

def eduArr : Arr := { arr [tile0] with modeIssue := some mode7 }

theorem test_mx_drain_edu : (({ arrDev ew 2 eduArr with core := (dev (code ew 10 2) ex).core } : Dev)).Ready g0 ew { cls := 10, op := 2, form := .short } true
      [usrc 0x101, usrc 0x106] ex ∧ drainLegal mode7 0 = true ∧ bits 0 0 4 = 0 ∧ bits 0x1000 28 4 = 0 ∧ eduArr.queue ≠ [] ∧
    ((after (.mxDrain g0 ew) (st { arrDev ew 2 eduArr with core := (dev (code ew 10 2) ex).core })).dev.arr 0).queue =
      [tile0, .drain g0 0x1000 0 true 0] := by decide +kernel

theorem test_mx_wait : (arrDev (wd 0x103 0 0 0) 3 { arr [] with executed := 2, issued := 2 }).Ready g0 (wd 0x103 0 0 0) { cls := 10, op := 3, form := .short } true
      [usrc 0x103] mx ∧
    ({ arr [] with executed := 2, issued := 2 } : Arr).tagDone 1 = true ∧ ({ arr [] with executed := 2, issued := 2 } : Arr).tagDone 2 = false ∧
    ((after (.mxWait g0 (wd 0x103 0 0 0)) (st (arrDev (wd 0x103 0 0 0) 3 { arr [] with executed := 2, issued := 2 }))).dev.grp g0).pc =
      0xC000000008 := by decide +kernel

/-- A chip without arrays: each MX instruction raises ARRAY_ABSENT. -/
def stN (d : Dev) : State := { st d with chip := { State.reset.chip with arrays := 0 } }

theorem test_absent : bit (stN Dev.reset).chip.arrays 0 = false ∧ mx.execMask 0 ≠ 0 ∧
    (∀ r ∈ [(Instr.mxMode g0 (wd 0x100 0 0 0), wd 0x100 0 0 0, 0), (.mxTile g0 tw, tw, 1), (.mxDrain g0 dw, dw, 2),
        (.mxWait g0 (wd 0x103 0 0 0), wd 0x103 0 0 0, 3)],
      ((after r.1 (stN (arrDev r.2.1 r.2.2 (arr [])))).dev.launchOf 1).exc.map (fun c => c.code) = some 0x18) := by decide +kernel

/-- The mode word taken as a count of records is outside the limits of the mode. -/
def lw : AWord := wd 0x101 0x102 0x100 0x105

theorem test_tile_operand : (arrDev lw 1 (arr [])).Ready g0 lw { cls := 10, op := 1, form := .short } true [usrc 0x101, usrc 0x102, usrc 0x100, udst 0x105] mx ∧
    ((arrDev lw 1 (arr [])).launchOf 1).array = true ∧ tileLegal mode8 0x2000 0x4000 mode8 = false ∧
    ((after (.mxTile g0 lw) (st (arrDev lw 1 (arr [])))).dev.launchOf 1).exc.map (fun c => c.code) = some 0x19 := by decide +kernel

/-- One output of a tile: 3 * 5 + (-2) * 7 = 1 beside an accumulator of 10. -/
theorem test_int_record : recordSum mode8 (shapeOf mode8) (3 + 254 * 256) (5 + 7 * 256) 0 0 10 = 11 := by decide +kernel

theorem test_tile_complete : (arr [tile0]).clockFreeze = false ∧ (arr [tile0]).blocked = false ∧ (arr [tile0]).bank < 2 ∧ ({ arr [tile0] with queue := [] } : Arr).steady = true ∧
    ((arrDev tw 1 (arr [tile0])).launchOf 1).live = true ∧ ((arrDev tw 1 (arr [tile0])).launchOf 1).ending = false := by decide +kernel

/-- A drain of a bank of a broad mode with one token, whose first sum is 11: 128 sums of 4 bytes. -/
def mode1 : Nat := 1 + 5 * 2 ^ 13 + 5 * 2 ^ 17

def full8 (edu : Bool) : Arr :=
  { arr [] with acc := [[(0, 11)], []], bank := 1, draining := some { dest := 0x2000, desc := 5, mode := mode1, toEdu := edu, sb := 6, tiles := 0 } }

theorem test_drain_complete : ({ full8 false with draining := none } : Arr).steady = true ∧
    Memory.wf (arrDev dw 2 (full8 false)).mem.cells = true ∧ (shapeOf mode1).rows * outBytes (bits 5 0 4) ≤ drainStride mode1 5 ∧
    (after (.mxDrainComplete 0) (st (arrDev dw 2 (full8 false)))).dev.spRead 0 0x2000 4 = [11, 0, 0, 0] ∧
    ((after (.mxDrainComplete 0) (st (arrDev dw 2 (full8 false)))).dev.arr 0).acc = [[], []] := by decide +kernel

/-- The same to the Expert Dispatch Unit, whose intake has taken every score. -/
theorem test_drain_scored : (∀ y ∈ (arrDev dw 2 (full8 true)).edu.scores.look (halfOf 0), y.core ≠ some 0) ∧
    ((after (.mxDrainComplete 0) (st (arrDev dw 2 (full8 true)))).dev.arr 0).draining = none := by decide +kernel

theorem test_current : ∀ r ∈ [(Instr.arrayRampDown 0, ArrState.idleGap, [], ArrState.rampDown, 63), (.arrayOff 0, .rampDown, [], .off, 0),
      (.arrayFreezeIdle 0, .freeze, [tile0], .idleGap, 5)],
    ((after r.1 (st (arrDev tw 1 { arr r.2.2.1 with st := r.2.1, level := 5 }))).dev.arr 0).st = r.2.2.2.1 ∧
    ((after r.1 (st (arrDev tw 1 { arr r.2.2.1 with st := r.2.1, level := 5 }))).dev.arr 0).level = r.2.2.2.2 := by decide +kernel

theorem test_poison_report : ((arrDev tw 1 { arr [] with reports := [⟨g0, 1, 8, 3⟩] }).grp g0).block = 1 ∧
    ((after (.arrayPoisonReport 0) (st (arrDev tw 1 { arr [] with reports := [⟨g0, 1, 8, 3⟩] }))).dev.launchOf 1).exc.map
      (fun c => (c.code, c.mxTag, c.tilePc)) = some (0x0E, 3, 8) := by decide +kernel

/-! Sesame: a group at a SEM instruction. A semaphore, a barrier word, a queue's produced word; N = 5 in u4:u5. -/

def semAt (op : Nat) : Nat := if op < 7 then sesBase + 0x100 else if op = 7 then sesBarBase + 16 else sesBarBase + 0x8000 + 32

def sx (op : Nat) : Group := { group with
  mask := 1, u := [(2, BitVec.ofNat 32 (semAt op % 2 ^ 32)), (3, BitVec.ofNat 32 (semAt op / 2 ^ 32)), (4, 5)],
  v := [(64, BitVec.ofNat 32 (semAt op % 2 ^ 32)), (96, BitVec.ofNat 32 (semAt op / 2 ^ 32))] }

/-- MOD: 8 bytes, physical, relaxed. -/
def semW (hasB : Bool) : AWord := wd 0x102 (if hasB then 0x104 else 0) 0 0 0x0B
def lockW : AWord := wd 2 0 0 0 0x0B 0 2

def semDev (w : AWord) (op : Nat) : Dev := dev (code w 12 op) (sx op)

theorem test_sem_rows : ∀ r ∈ semRows,
    (semDev (semW r.2.2.2) r.2.1).Ready g0 (semW r.2.2.2) { cls := 12, op := r.2.1, ext := r.2.2.1 } (AWord.semLegal (semW r.2.2.2))
      ([usrc 0x102 2] ++ (if r.2.2.2 then [usrc 0x104 2] else [])) (sx r.2.1) ∧
    (sx r.2.1).rdN 0 2 0x102 0 = semAt r.2.1 ∧
    (semDev (semW r.2.2.2) r.2.1).checkPieces ((semDev (semW r.2.2.2) r.2.1).issueOf g0 (semW r.2.2.2) (sx r.2.1)) true
      (semKind r.2.1).access [⟨0, semAt r.2.1, 0, 8⟩] (fun _ pl => semExtra (semKind r.2.1) pl) (fun _ => none) =
      [(⟨0, semAt r.2.1, 0, 8⟩, .ok (.ses (semAt r.2.1)) 1)] ∧
    (semDev (semW r.2.2.2) r.2.1).semOrder ((semDev (semW r.2.2.2) r.2.1).issueOf g0 (semW r.2.2.2) (sx r.2.1)) (semKind r.2.1) = true ∧
    (after (r.1 g0 (semW r.2.2.2)) (st (semDev (semW r.2.2.2) r.2.1))).dev.ses.queue.map (fun o => (o.kind, o.addr, o.n)) =
      [(semKind r.2.1, semAt r.2.1, if r.2.2.2 then 5 else 0)] := by decide +kernel

theorem test_sem_locks : ∀ r ∈ [(Instr.semLock g0 lockW, 5, GState.asked), (Instr.semUnlock g0 lockW, 6, .run)],
    (semDev lockW r.2.1).Ready g0 lockW { cls := 12, op := r.2.1 } (AWord.semLegal lockW) [src 2 2] (sx r.2.1) ∧
    (semDev lockW r.2.1).checkPieces ((semDev lockW r.2.1).issueOf g0 lockW (sx r.2.1)) true (semKind r.2.1).access
      [⟨0, semAt 0, 0, 8⟩] (fun _ pl => semExtra (semKind r.2.1) pl) (fun _ => none) = [(⟨0, semAt 0, 0, 8⟩, .ok (.ses (semAt 0)) 1)] ∧
    (semDev lockW r.2.1).semOrder ((semDev lockW r.2.1).issueOf g0 lockW (sx r.2.1)) (semKind r.2.1) = true ∧
    ((after r.1 (st (semDev lockW r.2.1))).dev.grp g0).st = r.2.2 ∧
    (after r.1 (st (semDev lockW r.2.1))).dev.ses.queue.map (fun o => (o.kind, o.lanes.length)) = [(semKind r.2.1, 1)] := by decide +kernel

/-! Sesame: its stores. Semaphore 32 holds 7. -/

/-- An operation of the first group. -/
def op (k : SesKind) (n : DWord) : SesOp :=
  { id := 3, src := .group g0 1 0, kind := k, addr := semAt 0, n := n, scope := 0, pd := 2, pc := 0xC000000040, timeout := 0, deadline := none,
    lanes := [], mask := 1, check := false, held := false, again := false }

def sesDev (o : SesOp) : Dev :=
  { dev [] { group with st := .asked } with ses := { SesSys.reset with words := [(32, 7)], queue := [o] } }

/-- ADD saturates; SUB of more than the value gives 0; WAIT and TAKE of 5 and of 8. -/
theorem test_ses_operations : ∀ r ∈ [(SesKind.add, (0xFFFFFFFFFFFFFFFF : DWord), 2 ^ 64 - 1, GState.asked, 0), (.sub, 9, 0, .asked, 0), (.wait, 7, 7, .run, 0),
      (.take, 7, 0, .run, 0), (.wait, 8, 7, .sesame, 1), (.take, 8, 7, .sesame, 1)],
    ((sesDev (op r.1 r.2.1)).sesQueue 0 false)[0]? = some (op r.1 r.2.1) ∧ (sesDev (op r.1 r.2.1)).sesBehind (op r.1 r.2.1) = false ∧
    (sesWord (semAt 0)).accepts r.1 = true ∧ ((sesDev (op r.1 r.2.1)).launchOf 1).ending = false ∧
    (sesDev (op r.1 r.2.1)).sesPoison (semAt 0) = false ∧ (sesDev (op r.1 r.2.1)).sesVal (semAt 0) = 7 ∧
    (sesDev (op r.1 r.2.1)).sesWaits g0 1 = true ∧
    (after (.sesameOperation 0 [0]) (st (sesDev (op r.1 r.2.1)))).dev.sesVal (semAt 0) = r.2.2.1 ∧
    ((after (.sesameOperation 0 [0]) (st (sesDev (op r.1 r.2.1)))).dev.grp g0).st = r.2.2.2.1 ∧
    (after (.sesameOperation 0 [0]) (st (sesDev (op r.1 r.2.1)))).dev.ses.parked.length = r.2.2.2.2 := by decide +kernel

def lane : LockLane := ⟨0, semAt 0, 99⟩
def lockOp : SesOp := { op .lock 1 with lanes := [lane] }
def waits : LockWait := ⟨g0, [3], 0, [], 1, 2, 0xC000000040, 0, [], [], 2⟩
def lockDev : Dev := let d := sesDev lockOp; { d with ses := { d.ses with locks := [waits] } }

theorem test_lock_taken : (lockDev.sesQueue 0 false)[0]? = some lockOp ∧ lockDev.sesBehind lockOp = false ∧ lockDev.sesPoison (semAt 0) = false ∧
    lockDev.tagOn (semAt 0) = none ∧ 0 < lockDev.sesVal (semAt 0) ∧
    (lockDev.ses.tags.filter (fun t => sesStore t.addr == sesStore (semAt 0))).length < 4096 ∧
    lockDev.ses.locks.find? (fun v => v.g == g0 && v.left.contains 3) = some waits ∧
    (after (.sesameOperation 0 [0]) (st lockDev)).dev.sesVal (semAt 0) = 6 ∧
    (after (.sesameOperation 0 [0]) (st lockDev)).dev.tagOn (semAt 0) = some 99 ∧
    ((after (.sesameOperation 0 [0]) (st lockDev)).dev.grp g0).predMask 2 = 1 := by decide +kernel

/-- A wake on its way, an entry past its deadline, an operation refused an entry. -/
def wakeDev : Dev := let d := sesDev (op .wait 7); { d with ses := { d.ses with queue := [], wakes := [⟨0, op .wait 7, true⟩] } }
def lateOp : SesOp := { op .wait 8 with deadline := some 50 }
def lateDev : Dev := let d := sesDev lateOp; { d with ses := { d.ses with queue := [], parked := [lateOp] } }
def againOp : SesOp := { op .wait 8 with again := true }

theorem test_wakes : wakeDev.ses.wakes.find? (fun w => w.store == 0) = some ⟨0, op .wait 7, true⟩ ∧ wakeDev.sesWaits g0 1 = true ∧ wakeDev.issueStopped 0 = false ∧
    ((after (.groupWake 0) (st wakeDev)).dev.grp g0).st = .run ∧
    (lateDev.ses.parked.filter (fun o => sesStore o.addr == 0))[0]? = some lateOp ∧
    (after (.semTimeout 0 ⟨0, []⟩) { st lateDev with time := 50 }).dev.ses.wakes.map (fun w => w.ok) = [false] ∧
    (after (.semTimeout 0 ⟨0, []⟩) { st lateDev with time := 49 }).dev.ses.parked.length = 1 ∧
    ((sesDev againOp).sesQueue 0 true)[0]? = some againOp ∧
    (after (.semRetry 0 0) (st (sesDev againOp))).dev.ses.parked.length = 1 := by decide +kernel

/-- Sync block 0 goes from partition 2 to partition 3: its words are cleared. -/
def syncDev : Dev := { (kq (sesDev (op .add 1))).put (SYNC_OWN.OWNER 0) 2 with ses := { SesSys.reset with words := [(32, 7)] } }

theorem test_sync_handover : syncDev.ses.words.sorted = true ∧ syncOwnerCode 3 = true ∧ syncDev.get (PART_CFG.STATE 3) ≠ 2 ∧ syncDev.qKernel 0 = true ∧
    (after (.syncHandover (.queue 0) (3 * 64)) (st syncDev)).dev.sesVal (semAt 0) = 0 ∧
    (after (.syncHandover (.queue 0) (3 * 64)) (st syncDev)).dev.get (SYNC_OWN.OWNER 0) = 3 := by decide +kernel

/-! Bank sets: set 15 of core 127 (section 15) from partition 2 to partition 3. Offset 0x7800 lies in set 15 (R200). -/

def handV : DWord := 15 + 0x80 * 2 ^ 4 + 0x8000 * 2 ^ 12 + 3 * 2 ^ 28
def hand (zeroing : Bool) : Handover := ⟨15, 0x80, 0x8000, 3, 1000, 0, zeroing, 0⟩

/-- The set holds a byte; the set beside it another. -/
def setDev (h : Option Handover) : Dev :=
  { (kq Dev.reset).put (SP_OWN.OWNER 127 15) 2 with
    mem := { MemSys.reset with hand := h, cells := writeBytes (writeBytes [] (spAddr 127 0x7000) [9]) (spAddr 127 0x7800) [8] } }

theorem test_hand_start : (setDev none).get (QUEUE_CFG.KERNEL 0) = 1 ∧ (setDev none).get SP_HANDOVER_STATUS.STATE = 0 ∧
    (setDev none).handOwnerOk 3 = true ∧ bits handV.toNat 4 8 ≠ 0 ∧ bits handV.toNat 12 16 ≠ 0 ∧
    (after (.spHandover (.queue 0) handV) (st (setDev none))).dev.mem.hand = some (hand false) ∧
    (after (.spHandover (.queue 0) handV) (st (setDev none))).dev.get (SP_OWN.PENDING 127 15) = 1 ∧
    (after (.spHandover (.queue 0) handV) (st (setDev none))).dev.get (SP_OWN.PENDING 127 14) = 0 := by decide +kernel

theorem test_hand_drained : (setDev (some (hand false))).handPaused (hand false) = false ∧
    (∀ c ∈ (hand false).coreList, (setDev (some (hand false))).setBusy c (hand false).setList = false) ∧
    (setDev (some (hand false))).handZeroes (hand false) = [(127, 15)] ∧
    (after .spHandoverDrained (st (setDev (some (hand false))))).dev.mem.hand = some (hand true) := by decide +kernel

theorem test_hand_complete : (setDev (some (hand true))).handPaused (hand true) = false ∧ Memory.wf (setDev none).mem.cells = true ∧
    (after .spHandoverComplete (st (setDev (some (hand true))))).dev.get (SP_OWN.OWNER 127 15) = 3 ∧
    (after .spHandoverComplete (st (setDev (some (hand true))))).dev.spRead 127 0x7800 1 = [0] ∧
    (after .spHandoverComplete (st (setDev (some (hand true))))).dev.spRead 127 0x7000 1 = [9] := by decide +kernel

theorem test_hand_timeout : (hand false).start + 1000 * (hand false).limit ≤ (1000000 : DWord).toNat ∧
    (after .spHandoverTimeout { st (setDev (some (hand false))) with time := 1000000 }).dev.get SP_HANDOVER_STATUS.RESULT = 1 ∧
    (after .spHandoverTimeout { st (setDev (some (hand false))) with time := 999999 }).dev.mem.hand = some (hand false) := by decide +kernel

/-! Tests and scans. -/

def march : MarchRun := { core := 127, alg := 1, preserve := false, fix := false, sets := 0x8000, boot := false, ctx := none, entry := none }
def marchDev : Dev := let d := setDev none; { d with mem := { d.mem with march := [march] } }

theorem test_march : marchDev.mem.march.find? (fun m => m.core == 127) = some march ∧ Memory.wf marchDev.mem.cells = true ∧
    (∀ k ∈ maskList 16 march.sets, marchDev.part.torn.look (127 * 16 + k) = false) ∧
    (after (.marchDone 127 ⟨[], []⟩) (st marchDev)).dev.spRead 127 0x7800 1 = [0] ∧
    (after (.marchDone 127 ⟨[], []⟩) (st marchDev)).dev.spRead 127 0x7000 1 = [9] := by decide +kernel

/-- Step counts at the floor of 4. -/
def steps : ScanFind := ⟨List.replicate 8 4, List.replicate 8 4, 0, 100, 60, false⟩

theorem test_live_scan : (serve Dev.reset).governs ⟨0, Chip.reset⟩ = true ∧ Dev.reset.mgmt.cfg.scanIntervalH ≠ 0 ∧
    (serve Dev.reset).liveFree 127 = true ∧ (List.range (serve Dev.reset).mgmt.deferred.length).any (serve Dev.reset).deferredReady = false ∧
    (after (.hbmLiveScan 127) (st (serve Dev.reset))).dev.get (HBM_CH_STATUS.SCAN_ACTIVE 127) = 1 ∧
    marginsPass Dev.reset.mgmt.cfg.floors true steps = true ∧
    (after (.hbmScanComplete 127 steps) (after (.hbmLiveScan 127) (st (serve Dev.reset)))).dev.get (HBM_CH_STATUS.SCAN_ACTIVE 127) = 0 ∧
    bits ((after (.hbmScanComplete 127 steps) (after (.hbmLiveScan 127) (st (serve Dev.reset)))).dev.get (HBM_CH_MARGIN.RECORD 127 1)) 32 32 = 1 := by
  decide +kernel

/-- SELFTEST of channel 127, target 1. -/
def selfDev (busy : Bool) : Dev :=
  let d := cmd [opSelftest, 1, 127, 0] (serve Dev.reset)
  if busy then d.put (HBM_CH_STATUS.STATE 127) 3 else d

theorem test_selftest : ∀ b ∈ [false, true],
    (selfDev b).startable 0 opSelftest = true ∧ (selfDev b).ownerQueue 0 = true ∧ ((selfDev b).ctx 0).queue = 0 ∧ (selfDev b).liveFree 127 = !b ∧
    (after (.selftest 0) (st (selfDev b))).dev.mem.scanRun.length = (if b then 0 else 1) ∧
    (after (.selftest 0) (st (selfDev b))).dev.mgmt.deferred.length = (if b then 1 else 0) := by decide +kernel

/-- A place in the deferred table. -/
def late (deadline : Nat) : Deferred := { (default : Deferred) with queue := 0, seq := 1, target := 1, param := 127, deadline := deadline }
def defDev (busy : Bool) : Dev := let d := selfDev busy; { d with fe := Dev.reset.fe, mgmt := { d.mgmt with deferred := [late 10] } }

theorem test_deferred : (defDev false).deferredReady 0 = true ∧ (defDev true).testFree 1 127 = false ∧
    (after (.selftestStart 0) (st (defDev false))).dev.mem.scanRun.length = 1 ∧
    (after (.selftestTimeout 0) { st (defDev true) with time := 10 }).dev.mgmt.deferred = [] ∧
    (after (.selftestTimeout 0) { st (defDev true) with time := 9 }).dev.mgmt.deferred = [late 10] := by decide +kernel

/-- HBM of one channel, address 0x20. -/
def hbmDev : Dev :=
  let d := withHbm Dev.reset
  { d with mem := { d.mem with l2 := [(1, { held := true, dirty := false, poison := false, data := 5 })] } }

theorem test_patrol : 0x20 < hbmDev.capacity ∧ hbmDev.chanOf 0x20 = 0 ∧ hbmDev.chanDown 0 = false ∧ hbmDev.anyPoison 0x20 32 = false ∧
    hbmDev.mgmt.cfg.retireCount > (hbmDev.mem.ueTimes.look 0).length + 1 ∧
    (after (.patrolScrub 0x20 ⟨.corrected, []⟩) (st hbmDev)).dev.get (HBM_CH_ECC.CE 0) = 1 ∧
    (after (.patrolScrub 0x20 ⟨.uncorrectable, []⟩) (st hbmDev)).dev.mem.failed = [1] ∧
    (after (.patrolScrub 0x20 ⟨.clean, [⟨.hbm 1, true⟩]⟩) (st hbmDev)).dev.mem.failed = [1] := by decide +kernel

theorem test_channel_down : bit ((hbmDev.put (HBM_MAP.MAPPED 1) (2 ^ 63)).get (HBM_MAP.MAPPED (127 / 64))) (127 % 64) = true ∧
    hbmDev.chanDown 127 = false ∧ hbmDev.get (HBM_CH_STATUS.RETIRE_PENDING 127) = 0 ∧
    (after (.hbmChannelDown 127) (st (hbmDev.put (HBM_MAP.MAPPED 1) (2 ^ 63)))).dev.get (HBM_CH_STATUS.STATE 127) = 3 ∧
    (after (.hbmChannelDown 127) (st (hbmDev.put (HBM_MAP.MAPPED 1) (2 ^ 63)))).dev.mgmt.retireMap = [127] := by decide +kernel

/-! Copy engines: a FILL of 64 bytes at 0x2000 of core 1 by engine 63, its descriptor at 0x1000 of core 0. -/

def fillDesc : List Byte :=
  [2, 0x1122334455667788, spAddr 1 0x2000, 64, 0, 0, 0, 0, 0, 0, 0, 0, 0, 0, 0, 0].flatMap (leBytes 8)

def q0 : DmaEntry := { addr := spAddr 0 0x1000, ctx := 0, part := 31, asid := 0, kernel := true, done := 0, aborted := false }

def engDev (x : Engine) : Dev :=
  { Dev.reset with
    regs := dmaOwn,
    fe := { FeSys.reset with ctxs := [(0, { (default : Ctx) with live := true, st := .started })] },
    mem := { MemSys.reset with cells := writeBytes [] (spAddr 0 0x1000) fillDesc },
    dma := { engines := [(63, x)], tokenReq := [] } }

def eng0 : Engine := { (default : Engine) with queue := [q0] }

/-- The device after the reading of the descriptor, and with it in its engine. -/
def startD0 : Dev := ((engDev eng0).descTouch (whoEngine 63) q0).descTake ⟨0, Chip.reset⟩ (whoEngine 63) q0
def startD1 : Dev := startD0.newId.2.setEng 63 { eng0 with desc := fillDesc, run := startD0.newId.1, denied := 0 }

theorem test_dma_start : (engDev eng0).eng 63 = eng0 ∧ 
    startD0.descRepairs (whoEngine 63) q0 = false ∧ startD0.readDesc (whoEngine 63) q0 = .ok fillDesc ∧ startD0.mem.sbq = [] ∧
    startD1.chainCheck (descOf fillDesc) q0 = true ∧ startD1.boardRanges 63 (descOf fillDesc) = [(1, 0x2000, 0x2080, true)] ∧
    ((after (.dmaStart 63) (st (engDev eng0))).dev.eng 63).st = .moving ∧
    (after (.dmaStart 63) (st (engDev eng0))).dev.mem.sb.map (fun b => (b.core, b.lo, b.hi, b.write)) = [(1, 0x2000, 0x2080, true)] := by decide +kernel

def eng1 : Engine := { eng0 with desc := fillDesc, st := .moving, started := true, tokens := [(1, 1)] }

theorem test_dma_complete : (engDev eng1).runPending 63 0 = false ∧ rowSpan 0x2000 64 = 1 ∧ (engDev eng1).placeSwitches (.sp 1 0x2000) = false ∧ (descOf fillDesc).xlen = 64 ∧ (descOf fillDesc).rows = 1 ∧ (descOf fillDesc).planes = 1 ∧
    (engDev eng1).place (spAddr 1 0x2000) = .sp 1 0x2000 ∧ (engDev eng1).runAdmits q0.agent [] (.sp 1 0x2000) 64 true = true ∧ (engDev eng1).runAdmits q0.agent [] (.sp 0 0x1070) 16 true = true ∧
    (engDev eng1).place (spAddr 0 0x1000 + 0x70) = .sp 0 (0x1000 + 0x70) ∧ Memory.wf (engDev eng1).mem.cells = true ∧
    (after (.dmaComplete 63) (st (engDev eng1))).dev.spRead 1 0x2038 8 = [0x88, 0x77, 0x66, 0x55, 0x44, 0x33, 0x22, 0x11] ∧
    (after (.dmaComplete 63) (st (engDev eng1))).dev.spRead 0 0x1070 16 = leBytes 8 1 ++ leBytes 8 64 ∧
    ((after (.dmaComplete 63) (st (engDev eng1))).dev.ctx 0).outcome = some .done := by decide +kernel

theorem test_intake : ({ Dev.reset with dma := { engines := [], tokenReq := [(63, 127)] } } : Dev).intakeFree 127 ≠ 0 ∧
    ((after (.intakeTokenGrant 127) (st { Dev.reset with dma := { engines := [], tokenReq := [(63, 127)] } })).dev.eng 63).tokens.look 127 = 1 := by
  decide +kernel

/-! Range translation: a request of function 31 (port 1) for the first group. -/

def req : RangeReq := { (default : RangeReq) with id := 1, f := 31, asid := 5, page := 0x7000, waiters := [.group g0] }

def rtDev : Dev :=
  let d := ((dev [] { group with st := .translate, reqId := 1 }).put (RT_RING_CTL.ENABLE 31) 1).put (RT_RING_CTL.SIZE 31) 4
  let d := (d.put (HOST_PORT.LINK_UP 1) 1).put (RT_RING_BASE.ADDR 31) 0x10000
  { d with rt := { RtSys.reset with reqs := [req], bound := [(5, 0x400 + 2 * 32 + 31)] } }

theorem test_range_request : rtDev.rt.reqs.find? (fun r => r.id == 1) = some req ∧ rtDev.get (RT_RING_CTL.ENABLE 31) = 1 ∧
    rtDev.get (HOST_PORT.LINK_UP (portOf 31)) = 1 ∧ rtDev.get (RT_RING_PROD.PROD 31) = 0 ∧
    (after (.rangeRequestRecord 1) (st rtDev)).dev.get (RT_RING_PROD.PROD 31) = 1 ∧
    req.time + 1000000 * max 1 (rtDev.get RT_CTL.TIMEOUT_MS) ≤ (1000000 * max 1 (rtDev.get RT_CTL.TIMEOUT_MS)) ∧
    ((after (.rangeRequestTimeout 1) { st rtDev with time := BitVec.ofNat 64 (1000000 * max 1 (rtDev.get RT_CTL.TIMEOUT_MS)) }).dev.grp g0).denied =
      some (0x7000, 1) := by decide +kernel

/-- The reply to it: the page of 4,096 bytes at 0x1000 of core 0, whose sets belong to partition 2, readable. -/
def w3 : DWord := 5 + 2 ^ 16 + 1 * 2 ^ 32
def replyDev : Dev :=
  let d := { rtDev with rt := { rtDev.rt with reply := [(31 * 4, 0x7000), (31 * 4 + 1, 0x1000), (31 * 4 + 2, BitVec.ofNat 64 (spAddr 0 0x1000))] } }
  { d with regs := (List.range 4).map (fun i => (SP_OWN.off 0 i, (0x0002000200020002 : DWord))) }

theorem test_rt_reply : replyDev.rt.reqs.find? (fun r => r.id == bits w3.toNat 32 32 && r.f == 31) = some req ∧ req.stale = false ∧
    replyLegal 0x7000 0x1000 (spAddr 0 0x1000) w3.toNat = true ∧ bits w3.toNat 22 2 = 0 ∧ replyDev.asidBound 5 = true ∧ replyDev.asidFunc 5 = 31 ∧
    replyDev.rangeReach (replyDev.asidPart 5) (spAddr 0 0x1000) 0x1000 false = true ∧
    (after (.rtReplyCommit 31 w3) (st replyDev)).dev.rt.device = [rangeOf 0x7000 0x1000 (spAddr 0 0x1000) w3.toNat] ∧
    ((after (.rtReplyCommit 31 w3) (st replyDev)).dev.grp g0).st = .run := by decide +kernel

/-- An invalidation of ASID 5 drops its entry; with nothing in flight it completes; ASID 65535 is bound at once. -/
def invDev : Dev := { Dev.reset with rt := { RtSys.reset with device := [rangeOf 0x7000 0x1000 0 5], bound := [(5, 0x45F)] } }

theorem test_rt_inval : invDev.asidBound 5 = true ∧ invDev.asidFunc 5 = 31 ∧ invDev.rt.inval = [] ∧
    (after (.rtInval (.host 31) 31 5) (st invDev)).dev.rt.device = [] ∧
    (∀ i ∈ (after (.rtInval (.host 31) 31 5) (st invDev)).dev.rt.inval, (after (.rtInval (.host 31) 31 5) (st invDev)).dev.invalReady i = true) ∧
    (after .rtInvalComplete (after (.rtInval (.host 31) 31 5) (st invDev))).dev.rt.inval = [] ∧
    invDev.asidBound 65535 = false ∧ (after (.rtAsidWrite .bassoon 65535 0x45F) (st invDev)).dev.asidBound 65535 = true := by decide +kernel

/-! Event FIFOs. FIFO 0, of function 0, holds one record of two words. -/

def fifoQ : Evq := { Evq.empty with words := [⟨7, false, false⟩, ⟨8, true, false⟩], wp := 2 }
def fifoDev (q : Evq) : Dev := { Dev.reset with evq := [(0, q)], host := { Dev.reset.host with msix := [(7, 0)] } }
def fifoSt : State := st (fifoDev fifoQ)

theorem test_evq_pop : fifoSt.dev.isReader 0 0 = true ∧
    (after (.evqPop 0 0) fifoSt).dev.out = [.value 0 7] ∧ ((after (.evqPop 0 0) fifoSt).dev.fifo 0).words.length = 1 ∧
    (after (.evqPop 0 0) (after (.evqPop 0 0) (after (.evqPop 0 0) fifoSt))).dev.out = [.value 0 7, .value 0 8, .value 0 8] ∧
    ((after (.evqPop 0 0) (after (.evqPop 0 0) (after (.evqPop 0 0) fifoSt))).dev.fifo 0).underrun = true ∧
    (after (.evqPop 1 0) fifoSt).dev.out = [.value 1 0] := by decide +kernel

theorem test_evq_fault : (((after (.evqPtrFault 0) fifoSt).dev.fifo 0).lost, ((after (.evqPtrFault 0) fifoSt).dev.fifo 0).resets,
    ((after (.evqPtrFault 0) fifoSt).dev.fifo 0).words, ((after (.evqPtrFault 0) fifoSt).dev.fifo 32).rseq) = (1, 1, [], 1) := by decide +kernel

/-- Vector 3, IRQ_EN, REARM, threshold 1 or 2. -/
def ctl (rearm flush : Nat) (thresh : Nat) : DWord := BitVec.ofNat 64 (3 + 2 ^ 11 + rearm * 2 ^ 12 + flush * 2 ^ 13 + thresh * 2 ^ 14)

theorem test_evq_rearm : fifoSt.dev.msixMasked 0 3 = false ∧ fifoSt.dev.get (EVQ_CTL.IRQ_EN 0) = 0 ∧
    (after (.rearm 0 0 (ctl 1 0 1)) fifoSt).dev.out = [.msix 0 3] ∧ ((after (.rearm 0 0 (ctl 1 0 1)) fifoSt).dev.fifo 0).armed = false ∧
    (after (.rearm 0 0 (ctl 1 0 2)) fifoSt).dev.out = [] ∧ ((after (.rearm 0 0 (ctl 1 0 2)) fifoSt).dev.fifo 0).armed = true ∧
    ((after (.evqIrqEnable 0 0 (ctl 0 0 2)) fifoSt).dev.fifo 0).armed = true ∧
    (after (.evqIrqEnable 0 0 (ctl 0 0 2)) fifoSt).dev.get (EVQ_CTL.VECTOR 0) = 3 := by decide +kernel

theorem test_evq_flush : bit (BitVec.ofNat 64 (2 ^ 13)).toNat 13 = true ∧
    ((after (.flush 0 0 (BitVec.ofNat 64 (2 ^ 13))) fifoSt).dev.fifo 0).words = [] ∧
    ((after (.flush 0 0 (BitVec.ofNat 64 (2 ^ 13))) fifoSt).dev.fifo 0).rp = 2 ∧
    ((after (.flush 0 0 (BitVec.ofNat 64 (2 ^ 13))) fifoSt).dev.fifo 0).lost = 1 := by decide +kernel

/-! The Expert Dispatch Unit. u4 holds the address of an ABORT of context 5, generation 0. -/

def dspW : AWord := wd 0x104 0 0 0x106
def dspX : Group := { group with u := [(4, 0x1000)] }
def dspDev (op : Nat) : Dev :=
  let d := dev (code dspW 11 op) dspX
  { d with mem := { d.mem with cells := writeBytes d.mem.cells 0xC000001000 [4, 5] } }

theorem test_dsp_submit :
    (dspDev 0).Ready g0 dspW { cls := 11, op := 0, form := .short } (dspW.mod == 0) [udst dspW.d, usrc dspW.a] dspX ∧
    dspX.execMask dspW.guard ≠ 0 ∧ dspX.rd dspW.imm dspW.a.toNat 0 = 0x1000 ∧
    (dspDev 0).spAdmits ((dspDev 0).issueOf g0 dspW dspX).agent 0 0x1000 64 = true ∧ (dspDev 0).spStores g0 = false ∧
    (dspDev 0).sbOverlaps 0 0x1000 64 false = false ∧ (dspDev 0).anyPoison 0xC000001000 64 = false ∧
    (dspDev 0).get (SP_STATUS.FAILED 0) = 0 ∧
    (after (.dspSubmit g0 dspW) (st (dspDev 0))).dev.edu.queue.look 0 =
      [{ bytes := [4, 5] ++ List.replicate 62 0, ticket := 65536, kernel := true, part := 31, owner := (dspDev 0).ectxOwner 5,
         stamp := (dspDev 0).core.nextId }] ∧
    ((after (.dspSubmit g0 dspW) (st (dspDev 0))).dev.grp g0).u.look 6 = 65536 := by decide +kernel

theorem test_dsp_status :
    (dspDev 1).Ready g0 dspW { cls := 11, op := 1, form := .short } (dspW.mod == 0) [udst dspW.d, usrc dspW.a] dspX ∧
    ((after (.dspStatus g0 dspW) (st (dspDev 1))).dev.grp g0).u.look 6 = 7 := by decide +kernel

/-- Entry 0 of instance 0: sequence number 1. -/
def edu (q : List EduDesc) (d : Dev := Dev.reset) : Dev :=
  { d with edu := { d.edu with queue := [(0, q)], tickets := [(0, { (default : Ticket) with seq := 1 })] } }

/-- A descriptor of ticket 65536, from a kernel queue. -/
def desc (bs : List Byte) : EduDesc := { bytes := bs ++ List.replicate (64 - bs.length) 0, ticket := 65536, kernel := true, part := 31, owner := 31, stamp := 0 }

/-- ROUTE of context 5: two experts, k of 1, two tokens; records at 0x2000 of core 0's scratchpad, its table at 0x1000. -/
def routeBytes : List Byte :=
  leBytes 8 (1 + 5 * 2 ^ 8 + 1 * 2 ^ 16 + 1 * 2 ^ 32) ++ leBytes 4 2 ++ leBytes 4 16 ++ leBytes 8 0xC000000000 ++ leBytes 8 16 ++
  leBytes 8 0xC000001000 ++ leBytes 8 0xC000002000 ++ leBytes 16 0

theorem test_route : (desc routeBytes).op = 1 ∧ (desc routeBytes).ctxNo = 5 ∧
    (after (.route 0) (st (edu [desc routeBytes]))).dev.ectxState 5 = 1 ∧
    (after (.route 0) (st (edu [desc routeBytes]))).dev.get (CTX_STATE.GEN 5) = 1 ∧
    ((after (.route 0) (st (edu [desc routeBytes]))).dev.ectx 5).route.e = 2 ∧
    (after (.route 0) (st (edu [desc routeBytes]))).dev.edu.queue.look 0 = [] := by decide +kernel

/-- SCORES of context 5: token 0, expert 1, at 0 of core 0's scratchpad. -/
def scoreDesc : EduDesc := desc (leBytes 8 (3 + 5 * 2 ^ 8 + 1 * 2 ^ 16) ++ leBytes 8 0xC000000000 ++ leBytes 4 4)
def scoreDev : Dev := let d := edu [scoreDesc] (dev []); { d with mem := { d.mem with cells := writeBytes d.mem.cells 0xC000000000 (leBytes 4 0x3F800000) } }

theorem test_scores : ((scoreDev.eduFront 0 3).map (fun r => r.1)) = some scoreDesc ∧
    (scoreDev.edu.tickets.look (scoreDesc.ticket % 512)).seq = scoreDesc.ticket / 65536 ∧
    ((after (.scores 0) (st scoreDev)).dev.edu.scores.look 0).map (fun s => (s.ctx, s.expert, s.token, s.value)) = [(5, 1, 0, 0x3F800000)] ∧
    ((after (.scores 0) (st scoreDev)).dev.edu.tickets.look 0).state = 2 := by decide +kernel

/-- Context 5 routes. -/
def ctx5 : EduCtx := { (default : EduCtx) with desc := routeBytes, kernel := true, part := 31, ticket := 65536 }
def ctxDev (x : EduCtx) (state : Nat) (d : Dev) : Dev := { d.put (CTX_STATE.STATE 5) state with edu := { d.edu with ctxs := [(5, x)] } }

theorem test_abort : (desc [4, 5]).op = 4 ∧ (ctxDev ctx5 1 (edu [desc [4, 5]])).ectxState 5 ≠ 0 ∧
    ((after (.abort 0) (st (ctxDev ctx5 1 (edu [desc [4, 5]])))).dev.ectx 5).ended = some 4 ∧
    (after (.abort 0) (st (ctxDev ctx5 1 (edu [desc [4, 5]])))).dev.ectxState 5 = 2 ∧
    ((after (.abort 0) (st (ctxDev ctx5 1 (edu [desc [4, 5]])))).dev.edu.tickets.look 0).state = 2 := by decide +kernel

/-- RETURN of one row of two elements, slot 1: the record at 0x1050, the row at 0x2010. -/
def retDesc : EduDesc := desc (leBytes 8 (2 + 1 * 2 ^ 16 + 1 * 2 ^ 32) ++ leBytes 8 2 ++ leBytes 8 0xC000001000 ++ leBytes 8 0xC000002000 ++ leBytes 8 16)
def retDev : Dev :=
  let d := edu [retDesc] (dev [])
  let m := writeBytes d.mem.cells 0xC000001050 (leBytes 4 (5 * 2 ^ 20) ++ leBytes 4 (1 + 9 * 2 ^ 16))
  { d with mem := { d.mem with cells := writeBytes m 0xC000002010 [1, 2, 3, 4] } }

theorem test_return : ((retDev.eduFront 0 2).map (fun r => r.1)) = some retDesc ∧ retDesc.fld 0 32 16 = 1 ∧ retDesc.fld 0 16 16 = 1 ∧
    retDev.eduRead (eduAgent true 31) 0xC000001050 16 = .ok ((leBytes 4 (5 * 2 ^ 20) ++ leBytes 4 (1 + 9 * 2 ^ 16) ++ leBytes 8 0).map (fun b => (b, false))) ∧
    retDev.eduRead (eduAgent true 31) 0xC000002010 4 = .ok ([1, 2, 3, 4].map (fun b => (b, false))) ∧
    ((after (.return 0) (st retDev)).dev.edu.rows.look 0).map (fun r => (r.ctx, r.gen, r.token, r.rank, r.data)) = [(5, 9, 1, 0, [1, 2, 3, 4])] ∧
    (after (.return 0) (st retDev)).dev.edu.rets.map (fun r => r.left) = [1] := by decide +kernel

/-- A score of expert 1 for token 1 reaches context 5. -/
def intakeDev : Dev :=
  let d := ctxDev ctx5 1 Dev.reset
  { d with edu := { d.edu with scores := [(0, [⟨5, 1, 1, 0x3F800000, true, 31, none, 0⟩])] } }

theorem test_score_intake : intakeDev.ectxState 5 = 1 ∧ fp32.decode 0x3F800000 ≠ .nan ∧
    (((after (.scoreIntake 0) (st intakeDev)).dev.ectx 5).tokens.look 1).best = [(1, 0x3F800000)] ∧
    (((after (.scoreIntake 0) (st intakeDev)).dev.ectx 5).tokens.look 1).count = 1 ∧
    (((after (.scoreIntake 0) (st intakeDev)).dev.ectx 5).tokens.look 1).done = false ∧
    (after (.scoreIntake 0) (st intakeDev)).dev.edu.scores.look 0 = [] := by decide +kernel

/-- Expert 1's entry: rows to 0x4000, records at 0x3000, semaphores 32 and 33. -/
def entryBytes : List Byte := leBytes 8 0xC000004000 ++ leBytes 8 0xC000003000 ++ leBytes 8 (sesBase + 0x100) ++ leBytes 4 16 ++ leBytes 4 1
def closeDev : Dev :=
  let d := ctxDev { ctx5 with granted := true, experts := [(1, { (default : Expert) with slots := 3 })] } 2 (dev [])
  { d with
    mem := { d.mem with cells := writeBytes d.mem.cells 0xC000001020 entryBytes }, edu := { d.edu with tokens := [(128 * instOf 5, 1)] } }

theorem test_expert_close : closeDev.eduTake ⟨0, Chip.reset⟩ 31 0xC000001020 32 = closeDev ∧ closeDev.repairing 0xC000001020 32 = false ∧
    closeDev.placeSwitches (.sp 0 0x3000) = false ∧
    closeDev.readEntry 5 1 = (.inl (entryOf entryBytes), entryBytes) ∧ (entryOf entryBytes).present = true ∧
    closeDev.peerOf (entryOf entryBytes).dest = none ∧ closeDev.eduWriteFault (eduAgent true 31) 0xC000003000 8 = 0 ∧
    closeDev.place (sesBase + 0x108) = .ses (sesBase + 0x108) ∧ (closeDev.ectx 5).rowsAcked 1 = true ∧ Memory.wf closeDev.mem.cells = true ∧
    (((after (.expertClose 5 1) (st closeDev)).dev.ectx 5).experts.look 1).closed = true ∧
    (after (.expertClose 5 1) (st closeDev)).dev.spRead 0 0x3000 8 = [3, 0, 0, 0, 0, 0, 0, 0] ∧
    (after (.expertClose 5 1) (st closeDev)).dev.ses.queue.map (fun o => (o.kind, o.addr, o.n)) = [(.add, sesBase + 0x108, 1)] := by decide +kernel

/-- Context 5 combines rows of two elements: token 1, rank 0, weight 1; the accumulators hold 1. -/
def combBytes : List Byte :=
  leBytes 8 (1 + 5 * 2 ^ 8 + 1 * 2 ^ 16 + 1 * 2 ^ 32 + 2 ^ 49) ++ leBytes 4 2 ++ leBytes 4 16 ++ leBytes 8 0xC000000000 ++ leBytes 4 16 ++
  leBytes 4 2 ++ leBytes 8 0xC000001000 ++ leBytes 8 0xC000002000 ++ leBytes 16 0
def rowDev : Dev :=
  let a : Assign := { (default : Assign) with status := 1, weight := 0x3F800000 }
  let d := ctxDev { ctx5 with desc := combBytes, assigns := [(8, a)], acc := [(16384, 0x3F800000), (16385, 0x3F800000)] } 3 Dev.reset
  let r : RetRow := { (default : RetRow) with ctx := 5, token := 1, width := 2, data := [0x80, 0x3F, 0, 0x40] }
  { d with edu := { d.edu with rows := [(0, [r])] } }

/-- 1 + 1 and 1 + 2. -/
theorem test_returned_row : rowDev.ectxState 5 = 3 ∧ (rowDev.ectx 5).route.width = 2 ∧
    ((after (.returnedRow 0) (st rowDev)).dev.ectx 5).acc.look 16384 = 0x40000000 ∧
    ((after (.returnedRow 0) (st rowDev)).dev.ectx 5).acc.look 16385 = 0x40400000 ∧
    (((after (.returnedRow 0) (st rowDev)).dev.ectx 5).assigns.look 8).combined = true ∧
    (after (.returnedRow 0) (st rowDev)).dev.edu.rows.look 0 = [] := by decide +kernel

def doneDev : Dev :=
  let e : Expert := { (default : Expert) with closed := true }
  let a : Assign := { (default : Assign) with status := 1, expert := 1, slot := 2, acked := true }
  let d := edu [] (ctxDev { ctx5 with granted := true, experts := [(0, e), (1, e)], assigns := [(0, a)] } 2 (dev []))
  { d with edu := { d.edu with tokens := [(128 * instOf 5, 2)] } }

theorem test_context_complete : (doneDev.ectx 5).allClosed = true ∧ (doneDev.ectx 5).expected = 0 ∧
    (∀ k ∈ [0, 1], doneDev.eduWriteFault (eduAgent true 31) (0xC000002000 + 64 * k) 64 = 0) ∧
    doneDev.fabPending (fun o => o == .eduWrite 5 1024) = false ∧ Memory.wf doneDev.mem.cells = true ∧
    (after (.contextComplete 5) (st doneDev)).dev.spRead 0 0x2000 8 = [1, 4, 2, 0, 0, 0, 0, 0] ∧
    (after (.contextComplete 5) (st doneDev)).dev.spRead 0 0x2040 8 = [0, 20, 0, 0, 0, 0, 0, 0] ∧
    (after (.contextComplete 5) (st doneDev)).dev.ectxState 5 = 0 ∧
    ((after (.contextComplete 5) (st doneDev)).dev.edu.tickets.look 0).state = 2 := by decide +kernel

/-! Queues. Queue 0, a kernel queue of function 0, with its ring at 0x1000 of HBM. -/

def ringDev (words : List Nat) : Dev :=
  let d := (serve (kq (withHbm Dev.reset))).put (QUEUE_RING.DEVICE 0) 1
  let d := d.put (QUEUE_RING.BASE 0) 1
  { d with mem := { d.mem with cells := writeBytes [] 0x1000 (words.flatMap (leBytes 8)) } }

def queue (tail : Nat) (order : List Nat) (d : Dev) : Dev :=
  { d with fe := { d.fe with queues := [(0, { (default : Queue) with tailSeen := tail, order := order })] } }

/-- A NOP of one slot, active queue, no doorbell. -/
def visitDev : Dev := queue 1 [] ((ringDev [0x10000]).put (QUEUE_STATUS.STATE 0) 3)

theorem test_queue_visit : visitDev.wholeCmd 0 1 = true ∧ visitDev.turn = some (0, 7) ∧ visitDev.freeCtx = some 0 ∧ visitDev.queueReady 0 = true ∧
    visitDev.fetchCheck 0 [visitDev.slot 0 0] ((visitDev.slot 0 0).getD []) = none ∧
    (after (.queueVisit 0) (st visitDev)).dev.get (QUEUE_STATUS.HEAD 0) = 1 ∧
    (after (.queueVisit 0) (st visitDev)).dev.get (QUEUE_STATUS.NEXT_SEQ 0) = 1 ∧
    ((after (.queueVisit 0) (st visitDev)).dev.ctx 0).live = true ∧
    ((after (.queueVisit 0) (st visitDev)).dev.fe.queues.look 0).order = [0] := by decide +kernel

theorem test_queue_idle :
    (after (.queueVisit 0) (st ((serve (kq Dev.reset)).put (QUEUE_STATUS.STATE 0) 2))).dev.get (QUEUE_STATUS.STATE 0) = 1 := by decide +kernel

/-- Its ports answer memory requests. -/
def answering : Dev := { Dev.reset with host := { Dev.reset.host with crs := [(0, false), (1, false)] } }

/-- The shortest ring has 16 slots. -/
theorem test_doorbell : answering.hostHeld ⟨0, Chip.reset⟩ 0 = false ∧ Dev.reset.hostHeld ⟨0, Chip.reset⟩ 0 = true ∧ answering.qFunc 0 = 0 ∧ Dev.reset.ringHeld 0 16 ≤ 2 ^ Dev.reset.ringSize 0 ∧
    (after (.doorbell 0 0 0 4 16) (st answering)).dev.get (QUEUE_TAIL.TAIL 0) = 16 ∧
    (after (.doorbell 0 0 0 4 16) (st answering)).dev.get (QUEUE_STATUS.DB_PENDING 0) = 1 ∧
    ¬ Dev.reset.ringHeld 0 17 ≤ 2 ^ Dev.reset.ringSize 0 := by decide +kernel

/-- A command of queue 0 that has ended, its completion word at 0x100 of the host. -/
def complDev : Dev :=
  let x : Ctx := { (default : Ctx) with live := true, seq := 7, bytes := leBytes 8 0x700010000, st := .ending, outcome := some .done }
  let d := ((kq Dev.reset).put (HOST_PORT.LINK_UP 0) 1).put (QUEUE_COMPL.ADDR 0) 0x20
  queue 0 [0] { d with fe := { d.fe with ctxs := [(0, x)] } }

theorem test_command_complete : Sparse.wf memDefault complDev.mem.host = true ∧
    (after (.commandComplete 0) (st complDev)).dev.hostRead 0 0x100 8 = [7, 0, 1, 0, 1, 0, 0, 0] ∧
    (after (.commandComplete 0) (st complDev)).dev.get (QUEUE_TAIL.DONE_SEQ 0) = 7 ∧
    ((after (.commandComplete 0) (st complDev)).dev.ctx 0).live = false := by decide +kernel

/-- ENABLE with HEAD 5 and NEXT_SEQ 9; RESUME. -/
def qctl (resume : Nat) : DWord := BitVec.ofNat 64 (1 + 2 * resume + 9 * 2 ^ 16 + 5 * 2 ^ 32)
def linkDev : Dev := (kq Dev.reset).put (HOST_PORT.LINK_UP 0) 1

theorem test_queue_enable : linkDev.qKernel 0 = true ∧ isPF 0 = true ∧ linkDev.ringUnmapped 0 = false ∧
    linkDev.get (QUEUE_CTL.ENABLE 0) = 0 ∧ linkDev.get (QUEUE_STATUS.STATE 0) = 0 ∧
    (after (.queueEnable 0 0 (qctl 0)) (st linkDev)).dev.get (QUEUE_STATUS.STATE 0) = 1 ∧
    (after (.queueEnable 0 0 (qctl 0)) (st linkDev)).dev.get (QUEUE_STATUS.HEAD 0) = 5 ∧
    (after (.queueEnable 0 0 (qctl 0)) (st linkDev)).dev.get (QUEUE_STATUS.NEXT_SEQ 0) = 9 := by decide +kernel

theorem test_queue_disable : (after (.queueDisable 0 0 0) (after (.queueEnable 0 0 (qctl 0)) (st linkDev))).dev.get (QUEUE_STATUS.STATE 0) = 0 ∧
    (after (.queueEnable 0 0 (qctl 0)) (st linkDev)).dev.get (QUEUE_STATUS.STATE 0) ≠ 0 ∧
    ((after (.queueEnable 0 0 (qctl 0)) (st linkDev)).dev.fe.queues.look 0).order = [] := by decide +kernel

def stopped : Dev := queue 0 [] ((linkDev.put (QUEUE_CTL.ENABLE 0) 1).put (QUEUE_STATUS.STATE 0) 4)

theorem test_queue_resume : (stopped.fe.queues.look 0).disabling = false ∧
    (after (.queueResume 0 0 (qctl 1)) (st stopped)).dev.get (QUEUE_STATUS.STATE 0) = 1 ∧
    (after (.queueResume 0 0 (qctl 1)) (st stopped)).dev.get (QUEUE_STATUS.HEAD 0) = 5 := by decide +kernel

/-- A command that has not begun, SEQ 1. -/
def abortDev : Dev := queue 0 [0] (cmd [0x10000] Dev.reset)

theorem test_queue_abort : (abortDev.fe.queues.look 0).order.find? (fun c => (abortDev.ctx c).seq == (1 : DWord).toNat % 65536) = some 0 ∧
    (abortDev.ctx 0).live = true ∧ (abortDev.ctx 0).launch = none ∧
    ((after (.queueAbort (.host 0) 0 1) (st abortDev)).dev.ctx 0).outcome = some .aborted ∧
    (after (.queueAbort (.host 0) 0 1) (st abortDev)).dev.get (QUEUE_ABORT_STATUS.SEQ 0) = 1 := by decide +kernel

/-! Commands. -/

theorem test_nop_cmd : (cmd [0x10000] Dev.reset).startable 0 opNop = true ∧
    ((after (.nopCmd 0) (st (cmd [0x10000] Dev.reset))).dev.ctx 0).outcome = some .done := by decide +kernel

/-- Semaphore 32, N of 5, a limit of 9. -/
def semCmdDev (op : Nat) : Dev := cmd [op + 0x10000, sesBase + 0x100, 5, 9] Dev.reset

theorem test_sem_commands : ∀ r ∈ ([(Instr.semWaitCmd 0, opSemWait, SesKind.wait, kRead, 9), (.semAddCmd 0, opSemAdd, .add, kWrite, 0),
      (.semSetCmd 0, opSemSet, .set, kWrite, 0)] : List (Instr × Nat × SesKind × Nat × Nat)),
    (semCmdDev r.2.1).startable 0 r.2.1 = true ∧ (semCmdDev r.2.1).cmdVirt 0 = false ∧
    (semCmdDev r.2.1).checkPhysical ((semCmdDev r.2.1).ctxAgent 0) (((semCmdDev r.2.1).ctx 0).word 8) 8 r.2.2.2.1 = .ok (.ses (sesBase + 0x100)) 1 ∧
    (Place.ses (sesBase + 0x100)).sesWord.map (fun w => w.accepts r.2.2.1) = some true ∧
    (after r.1 (st (semCmdDev r.2.1))).dev.ses.queue.map (fun o => (o.kind, o.addr, o.n, o.timeout)) =
      [(r.2.2.1, sesBase + 0x100, 5, r.2.2.2.2)] := by decide +kernel

/-- WRITE_VALUE to core 0's scratchpad at 0x1000: 77, or the time 3. -/
def valueDev (t : Nat) : Dev := cmd [opWriteValue + 0x10000, 0xC000001000, 77, t] (dev [])

theorem test_write_value : ∀ t ∈ [0, 1], (valueDev t).startable 0 opWriteValue = true ∧ (valueDev t).cmdVirt 0 = false ∧
    (valueDev t).checkPhysical ((valueDev t).ctxAgent 0) 0xC000001000 8 kWrite = .ok (.sp 0 0x1000) 1 ∧ Memory.wf (valueDev t).mem.cells = true ∧
    (valueDev t).place (spAddr 0 0x1000) = .sp 0 0x1000 ∧
    (after (.writeValue 0) { st (valueDev t) with time := 3 }).dev.spRead 0 0x1000 8 = leBytes 8 (if t = 1 then 3 else 77) := by decide +kernel

/-- A copy of 64 bytes within core 0's scratchpad, for engine 5. -/
def dmaBytes : List Byte := leBytes 8 1 ++ leBytes 8 0xC000002000 ++ leBytes 8 0xC000003000 ++ leBytes 8 64 ++ List.replicate 96 0
def dmaCmdDev : Dev :=
  let d := cmd [opDma + 0x10000, 0xC000001000, 5] { dev [] with regs := dmaOwn }
  { d with mem := { d.mem with cells := writeBytes d.mem.cells 0xC000001000 dmaBytes } }

def dmaEntry : DmaEntry := { addr := 0xC000001000, ctx := 0, part := dmaCmdDev.qPart 0, asid := dmaCmdDev.qAsid 0, kernel := true, done := 0, aborted := false }

theorem test_dma_command : dmaCmdDev.startable 0 opDma = true ∧ dmaCmdDev.readDesc whoChanter dmaEntry = .ok dmaBytes ∧
    dmaCmdDev.descCheck (descOf dmaBytes) dmaEntry = 0 ∧ bit ((dmaCmdDev.ctx 0).word 0x10) 6 = false ∧ (dmaCmdDev.eng 5).queue.length < 16 ∧
    ((after (.dma 0) (st dmaCmdDev)).dev.eng 5).queue = [dmaEntry] ∧ ((after (.dma 0) (st dmaCmdDev)).dev.ctx 0).engine = some 5 := by decide +kernel

/-- A kernel of one block of 32 threads, with physical addresses, on section 15. -/
def launchDev : Dev :=
  cmd [opLaunch + 0x20000, 0xC000000000, 0, 1 + 2 ^ 32 + 2 ^ 48, 32 + 2 ^ 11 + 8 * 2 ^ 16 + 2 ^ 29, 0, 2 ^ 47, 0, 0, 0, 0] (dev [])

theorem test_launch : launchDev.startable 0 opLaunch = true ∧ (launchOf (launchDev.ctx 0).bytes).check = 0 ∧
    launchDev.checkPhysical (launchDev.ctxAgent 0) 0xC000000000 8 kFetch = .ok (.sp 0 0) 1 ∧
    launchDev.tableCheck (launchDev.ctxAgent 0) (launchOf (launchDev.ctx 0).bytes) = (0, 0, 0) ∧
    launchDev.launchSections 0 (launchOf (launchDev.ctx 0).bytes) = 0x8000 ∧
    launchDev.poolOwned (launchDev.ctxAgent 0) (launchOf (launchDev.ctx 0).bytes) 0x8000 = true ∧
    launchDev.launchFits ⟨0, Chip.reset⟩ (launchOf (launchDev.ctx 0).bytes) 0x8000 = true ∧
    ((after (.launch 0) (st launchDev)).dev.core.launches.map (fun l => (l.gridX, l.threads, l.cluster, l.regs, l.phys, l.sections))).getLast? =
      some (1, 32, 1, 8, true, 0x8000) ∧ ((after (.launch 0) (st launchDev)).dev.ctx 0).launch = some launchDev.core.nextLaunch := by decide +kernel

/-- One register: the ways of partition 15. -/
def regCmdDev : Dev := cmd [opRegWrite + 0x10000, 1, L2_PART_WAYS.off 15, 0xF0F0] Dev.reset

theorem test_reg_write : regCmdDev.startable 0 opRegWrite = true ∧ regCmdDev.ownerQueue 0 = true ∧
    regCmdDev.visible (regCmdDev.actsAs (.queue 0)) (L2_PART_WAYS.off 15) = true ∧
    (after (.regWrite 0) (st regCmdDev)).dev.get (L2_PART_WAYS.WAYS 15) = 0xF0F0 ∧
    ((after (.regWrite 0) (st regCmdDev)).dev.ctx 0).progress = 1 := by decide +kernel

/-! Graphs. An image of one node, a NOP, without edges; graph 3. -/

def nop256 : List Byte := leBytes 8 0x10000 ++ List.replicate 248 0
def imageBytes : List Byte := leBytes 8 1 ++ leBytes 8 0 ++ leBytes 8 64 ++ List.replicate 40 0 ++ List.replicate 64 0 ++ nop256
def pooled (d : Dev) : Dev := d.put FE_POOL_SIZE.SIZE 1
def graphDev (op : Nat) (bs : List Byte) (len : Nat) (n : Nat := 0) : Dev :=
  let d := cmd [op + 0x10000, 3 + n * 2 ^ 32, 0xC000001000, len] (pooled (dev []))
  { d with mem := { d.mem with cells := writeBytes d.mem.cells 0xC000001000 bs } }

def node0 (rec : Nat) : GNode := ⟨0, 0, 0, nop256, rec⟩

theorem test_graph_store : (graphDev opGraphStore imageBytes 384).startable 0 opGraphStore = true ∧
    (graphDev opGraphStore imageBytes 384).graphReach 0 3 = true ∧
    imageOf imageBytes 1 = some ([node0 1], [], false) ∧ (graphDev opGraphStore imageBytes 384).fe.nextRec = 1 ∧
    (after (.graphStore 0) (st (graphDev opGraphStore imageBytes 384))).dev.graphNow 3 = some ⟨3, 1, [node0 1], [], 2, false, true, 0⟩ ∧
    ((after (.graphStore 0) (st (graphDev opGraphStore imageBytes 384))).dev.ctx 0).outcome = some .done := by decide +kernel

def version : GVersion := ⟨3, 1, [node0 0], [], 1, false, true, 0⟩
def stored (d : Dev) : Dev := { d with fe := { d.fe with versions := [version], lastNumber := [(3, 1)], nextRec := 2, nextNodeCtx := 512 } }

/-- A patch list of one entry: node 0 becomes a SEM_ADD. -/
def semAdd256 : List Byte := leBytes 8 0x10005 ++ leBytes 8 sesBase ++ leBytes 8 1 ++ List.replicate 232 0
def patchBytes : List Byte := List.replicate 64 0 ++ semAdd256
def privVersion : GVersion := { version with priv := true }
def patchDev : Dev :=
  let d := stored (graphDev opGraphPatch patchBytes 0 1)
  { d with fe := { d.fe with versions := [privVersion] } }

theorem test_graph_patch : patchDev.startable 0 opGraphPatch = true ∧ patchDev.graphNow 3 = some privVersion ∧
    patchOf patchBytes 1 1 true = some [(0, semAdd256)] ∧ patchDev.nodeReach ⟨0, Chip.reset⟩ 0 true semAdd256 = true ∧
    (after (.graphPatch 0) (st patchDev)).dev.graphNow 3 = some ⟨3, 2, [⟨0, 0, 0, semAdd256, 2⟩], [], 1, true, true, 0⟩ := by decide +kernel

theorem test_graph_free : (stored (graphDev opGraphFree [] 0)).startable 0 opGraphFree = true ∧
    ((stored (graphDev opGraphFree [] 0)).graphNow 3).isSome = true ∧
    (after (.graphFree 0) (st (stored (graphDev opGraphFree [] 0)))).dev.graphNow 3 = none := by decide +kernel

def graphRunDev : Dev := stored (graphDev opGraphLaunch [] 0)

theorem test_graph_launch : graphRunDev.startable 0 opGraphLaunch = true ∧ graphRunDev.graphReach 0 3 = true ∧
    poolUsed graphRunDev.fe.versions graphRunDev.fe.runs + counterBytes 1 ≤ graphRunDev.poolSize ∧
    ((after (.graphLaunch 0) (st graphRunDev)).dev.graphAt 3 1).pins = 1 ∧
    ((after (.graphLaunch 0) (st graphRunDev)).dev.ctx 512).node = some (graphRunDev.fe.nextRun, 0) ∧
    ((after (.graphLaunch 0) (st graphRunDev)).dev.runOf graphRunDev.fe.nextRun).started = [0] := by decide +kernel

/-- The node of that launch ends, and with it the launch. -/
def nodeEndDev : Dev :=
  let d := (after (.graphLaunch 0) (st graphRunDev)).dev
  d.setCtx 512 { d.ctx 512 with st := .ending, outcome := some .done }

theorem test_graph_node_end : (nodeEndDev.ctx 512).node = some (graphRunDev.fe.nextRun, 0) ∧
    nodeEndDev.nodeCtxs graphRunDev.fe.nextRun = [512] ∧ Sparse.sorted nodeEndDev.fe.ctxs = true ∧ (nodeEndDev.ctx 0).st = .started ∧
    (nodeEndDev.runOf graphRunDev.fe.nextRun).live = true ∧ (nodeEndDev.runOf graphRunDev.fe.nextRun).counts.length = 1 ∧
    ((after (.graphNodeEnd 512) (st nodeEndDev)).dev.ctx 512).live = false ∧
    ((after (.graphNodeEnd 512) (st nodeEndDev)).dev.ctx 0).outcome = some .done ∧
    ((after (.graphNodeEnd 512) (st nodeEndDev)).dev.ctx 0).progress = 1 := by decide +kernel

/-! Kernels: a launch of two blocks on section 15 places its first; its end by abort. -/

def placeDev : Dev :=
  let d := Dev.reset
  { d with core := { d.core with launches := [{ launch with gridX := 2, sections := 0x8000, code := 0x40, regs := 64 }], nextBlock := 1 } }

theorem test_block_dispatch : (placeDev.launchOf 1).placing = true ∧ (placeDev.dispatchNext ⟨0, Chip.reset⟩ 1).map (fun r => r.1) = some 15 ∧
    placeDev.gated 15 = false ∧
    ((after (.blockDispatch 1) (st placeDev)).dev.launchOf 1).next = 1 ∧
    (after (.blockDispatch 1) (st placeDev)).dev.core.blocks.map (fun b => (b.core, b.index, b.groups)) = [(120, 0, [(0, 0)])] ∧
    ((after (.blockDispatch 1) (st placeDev)).dev.grp ⟨120, 0, 0⟩).pc = 0x40 := by decide +kernel

def killDev : Dev := let d := dev []; { d with core := { d.core with launches := [{ launch with aborted := true }] } }

theorem test_kernel_abort : (killDev.launchOf 1).live = true ∧ Sparse.sorted killDev.core.groups = true ∧
    (killDev.grp g0).live = true ∧ ((after (.kernelAbort 1) (st killDev)).dev.grp g0).live = false ∧
    ((after (.kernelAbort 1) (st killDev)).dev.launchOf 1).ending = true := by decide +kernel

/-! Partitions and shares. -/

/-- Section 15 is free. -/
def freeSect : Dev := { kq Dev.reset with regs := (kq Dev.reset).regs ++ (List.range 32).map (fun i => (SP_OWN.off (120 + i / 4) (i % 4), 0x001F001F001F001F)) }

def partV (op p sections limit : Nat) : DWord := BitVec.ofNat 64 (op + p * 4 + sections * 2 ^ 6 + limit * 2 ^ 22)

theorem test_assign : freeSect.qKernel 0 = true ∧ freeSect.get PART_STATUS.STATE = 0 ∧ freeSect.get (PART_CFG.STATE 5) ≠ 2 ∧
    maskList 16 0x8000 = [15] ∧ freeSect.sectFree 15 = true ∧ freeSect.mem.hand = none ∧
    (after (.assign (.queue 0) (partV 1 5 0x8000 0)) (st freeSect)).dev.mem.hand = some ⟨15, 255, 65535, 5, 1000, 0, false, 2⟩ ∧
    (after (.assign (.queue 0) (partV 1 5 0x8000 0)) (st freeSect)).dev.get (SP_OWN.PENDING 127 15) = 1 := by decide +kernel

/-- What the statement on TEARDOWN asks of a device that holds nothing, but for its queues. -/
theorem test_teardown : (kq Dev.reset).get PART_STATUS.STATE = 0 ∧
    (∀ r, r < 16 → (kq Dev.reset).get (CR_CFG.VALID r) = 1 → (kq Dev.reset).get (CR_CFG.OWNER r) ≠ 5) ∧ (kq Dev.reset).part.stoppedAt.look 5 = 0 ∧
    (∀ c, c < 64 → (kq Dev.reset).ectxState c = 0) ∧ (∀ c, c < 256 → ((kq Dev.reset).coll c).armed = false) ∧
    bits (partV 2 5 0 9).toNat 0 2 = 2 ∧ bits (partV 2 5 0 9).toNat 22 16 = 9 := by decide +kernel

theorem test_teardown_queues : ∀ k < 4096, (kq Dev.reset).qPart k ≠ 5 := by
  intro k hk
  by_cases h : k = 0
  · subst h; decide +kernel
  · have ho : (QUEUE_CFG.PART k).off ≠ (QUEUE_CFG.KERNEL 0).off := by simp only [QUEUE_CFG.PART, QUEUE_CFG.KERNEL, QUEUE_CFG.off]; omega
    rw [Dev.qPart, kq, Dev.get_put_ne _ _ _ _ ho]
    show bits (regReset (QUEUE_CFG.off k)).toNat 5 5 ≠ 5
    rw [regReset_queueCfg hk]; decide

/-- Step 4 at section 15: partition 5 holds set 15 of core 127, with a byte in it; its limit is 1 ms. -/
def td4 : Teardown := ⟨5, 4, 1000, 0, 15, 0⟩
def tdDev : Dev :=
  let d := (freeSect.put (SP_OWN.OWNER 127 15) 5).put SP_HANDOVER_STATUS.STATE 1
  { d with part := { d.part with teardown := some td4 }, mem := { d.mem with cells := writeBytes (writeBytes [] (spAddr 127 0x7000) [9]) (spAddr 127 0x7800) [8] } }

theorem test_teardown_step : (∀ c ∈ sectCores 15, tdDev.setBusy c (tdDev.setsHeld c 5) = false) ∧ Memory.wf tdDev.mem.cells = true ∧
    tdDev.nextHeldSect 5 16 = none ∧ tdDev.get SP_HANDOVER_STATUS.STATE ≠ 0 ∧ tdDev.mem.hand = none ∧ tdDev.setsHeld 127 5 = [15] ∧
    (after .teardownStepComplete (st tdDev)).dev.part.teardown = some { td4 with step := 5, position := 0 } ∧
    (after .teardownStepComplete (st tdDev)).dev.get (SP_OWN.OWNER 127 15) = 31 ∧
    (after .teardownStepComplete (st tdDev)).dev.spRead 127 0x7800 1 = [0] ∧
    (after .teardownStepComplete (st tdDev)).dev.spRead 127 0x7000 1 = [9] := by decide +kernel

theorem test_teardown_timeout : td4.since + 1000 * td4.limit ≤ (1000000 : DWord).toNat ∧
    (after .teardownTimeout { st tdDev with time := 1000000 }).dev.get PART_STATUS.RESULT = 5 ∧
    (after .teardownTimeout { st tdDev with time := 1000000 }).dev.part.stoppedAt.look 5 = 4 * 1024 + 15 ∧
    (after .teardownTimeout { st tdDev with time := 999999 }).dev.part.teardown = some td4 := by decide +kernel

/-- Shares 0 and 1 of two channels go to partition 3; a byte at the end of share 1 and one after it. -/
def shareDev : Dev :=
  let d := ((kq Dev.reset).put HBM_CAPACITY.CHANNELS 2).put (SHARE_OWN.OWNER 1) 2
  { d with mem := { d.mem with chanMap := [0, 127], cells := writeBytes (writeBytes [] (2 * shareBytes - 1) [9]) (2 * shareBytes) [7] } }

def shareV : DWord := BitVec.ofNat 64 (1 + 1 * 2 ^ 7 + 3 * 2 ^ 15)

theorem test_share_handover : shareDev.get SHARE_HANDOVER_STATUS.STATE = 0 ∧ shareDev.get (PART_CFG.STATE 3) ≠ 2 ∧ shareDev.cu = 2 ∧
    runOfShares 1 1 = [1] ∧ shareDev.get (SHARE_OWN.OWNER 1) ≠ 18 ∧
    (after (.shareHandover (.queue 0) shareV) (st shareDev)).dev.mem.share = some ⟨1, 1, 3, 0⟩ ∧
    (after (.shareHandover (.queue 0) shareV) (st shareDev)).dev.get (SHARE_OWN.PENDING 1) = 1 := by decide +kernel

def shareRun : Dev := { shareDev with mem := { shareDev.mem with share := some ⟨1, 1, 3, 0⟩ } }

theorem test_share_complete : shareRun.shareBusy 1 = false ∧ shareRun.shareZeroes 1 3 = true ∧ Memory.wf shareRun.mem.cells = true ∧
    (after .shareHandoverComplete (st shareRun)).dev.get (SHARE_OWN.OWNER 1) = 3 ∧
    readByte (after .shareHandoverComplete (st shareRun)).dev.mem.cells (2 * shareBytes - 1) = 0 ∧
    readByte (after .shareHandoverComplete (st shareRun)).dev.mem.cells (2 * shareBytes) = 7 := by decide +kernel

/-- Region 15: share 1, owner 2, kind 0. -/
def crV : DWord := BitVec.ofNat 64 (1 + 1 * 2 ^ 7 + 2 * 2 ^ 15 + 2 ^ 22)

theorem test_cr_register : shareDev.get (CR_CFG.VALID 15) = 0 ∧ shareDev.crCheck 15 crV.toNat = 0 ∧ shareDev.cu ≤ 128 ∧
    (after (.crRegister (.queue 0) 15 crV) (st shareDev)).dev.get (SHARE_OWN.OWNER 1) = 18 ∧
    (after (.crRegister (.queue 0) 15 crV) (st shareDev)).dev.get (SHARE_OWN.REGION 1) = 15 ∧
    (after (.crWithdraw (.queue 0) 15 0) (after (.crRegister (.queue 0) 15 crV) (st shareDev))).dev.get (SHARE_OWN.OWNER 1) = 2 ∧
    (after (.crRegister (.queue 0) 15 crV) (st shareDev)).dev.get (CR_CFG.COUNT 15) = 1 := by decide +kernel

/-! The fabric: this device is 5, its peer 7, on logical port 0, whose requests without a tag act as kernel-queue agents. -/

def fabBase (d : Dev) : Dev :=
  let d := ((d.put FAB_ID.ID 5).put FAB_CTL.ENABLE 1).put (LP_STATUS.LINK_UP 0) 1
  { d.put (LP_CFG.ENABLE 0) 1 with fab := { d.fab with route := [(7, (BitVec.ofNat 64 (7 + 3 * 2 ^ 20), 0xFFFFFFFFFFFFFF00))] } }

def fabDev : Dev := fabBase { Dev.reset with regs := unowned, mem := { MemSys.reset with cells := writeBytes [] 0xC000000100 [1, 2, 3, 4] } }

def pk (type : Nat) (addr : Nat) (data : List Byte) : Packet :=
  { (default : Packet) with type := type, dst := 5, src := 7, length := data.length, addr := addr, data := data }

/-- The first packet of a flow is taken. -/
theorem test_fab_takes : ∀ t ∈ [tWrite, tRead, tAtomic, tSem, tSemWithdraw, tDspWrite, tDspReturn, tReadResp, tAtomicResp, tSemResp, tColl, tMirror],
    fabDev.klpTakes 0 (pk t 0 []) t = true ∧ fabDev.peerDead 7 = false ∧ (pk t 0 []).ackNow = false ∧
    (fabDev.rflow 7).forEpoch (pk t 0 []) = some { (default : RecvFlow) with live := true, src := 7 } ∧ psnAbove 0 0 ≤ 1023 := by decide +kernel

def farAgent : Agent := { kernel := true, part := 31, dma := false, march := false }

theorem test_fab_write : fabDev.tagAgent (pk tWrite 0xC000000100 [9, 8, 7]) = some farAgent ∧ (pk tWrite 0xC000000100 [9, 8, 7]).fits 1 8192 = true ∧
    fabDev.reachFault farAgent 0xC000000100 3 true = 0 ∧ fabDev.placeLocal 0xC000000100 = .sp 0 0x100 ∧ Memory.wf fabDev.mem.cells = true ∧
    (after (.write 0 (pk tWrite 0xC000000100 [9, 8, 7])) (st fabDev)).dev.spRead 0 0x100 4 = [9, 8, 7, 4] ∧
    ((after (.write 0 (pk tWrite 0xC000000100 [9, 8, 7])) (st fabDev)).dev.rflow 7).cum = 1 := by decide +kernel

def readPk : Packet := { pk tRead 0xC000000100 [] with length := 4 }

theorem test_fab_read : fabDev.reachFault farAgent 0xC000000100 4 false = 0 ∧
    ((after (.read 0 readPk) (st fabDev)).dev.flow 7).pkts.map (fun q => (q.pkt.type, q.pkt.dst, q.pkt.addr, q.pkt.data)) =
      [(tReadResp, 7, 0, [1, 2, 3, 4])] := by decide +kernel

/-- ADD (0) of 1 to the word 0x04030201. -/
def atomPk : Packet := pk tAtomic 0xC000000100 (beBytes 8 1 ++ beBytes 8 0)

theorem test_fab_atomic : atomPk.fits 16 16 = true ∧ atomSubop atomPk.subop = true ∧ fabDev.reachFault farAgent 0xC000000100 4 true = 0 ∧
    (after (.atomic 0 atomPk) (st fabDev)).dev.spRead 0 0x100 4 = [2, 2, 3, 4] ∧
    ((after (.atomic 0 atomPk) (st fabDev)).dev.flow 7).pkts.map (fun q => (q.pkt.type, q.pkt.data)) =
      [(tAtomicResp, [0, 0, 0, 0, 4, 3, 2, 1])] := by decide +kernel

/-- SEM of every operation, on a word that takes it. -/
def fabSem (k : Nat) : Packet :=
  { pk tSem (if (semKind k) = .arrive then sesBarBase + 16 else if (semKind k) = .prod ∨ semKind k = .cons then sesBarBase + 0x8000 + 32 else sesBase + 0x100)
      (beBytes 8 3 ++ beBytes 8 4) with subop := k }

theorem test_fab_sem : ∀ k ∈ List.range 10, (fabSem k).fits 16 16 = true ∧ fabDev.placeLocal (fabSem k).addr = .ses (fabSem k).addr ∧
    (sesWord (fabSem k).addr).accepts (semKind k) = true ∧ fabDev.sesAdmits farAgent (fabSem k).addr = true ∧
    (after (.sem 0 (fabSem k)) (st fabDev)).dev.ses.queue.map (fun o => (o.kind, o.src, o.n)) = [(semKind k, .peer 7 0 0, 3)] := by decide +kernel

def parkedOp : SesOp := { SesOp.plain 1 (.peer 7 0 9) .wait (sesBase + 0x100) 8 with timeout := 0 }
def parkedDev : Dev := { fabDev with ses := { SesSys.reset with parked := [parkedOp] } }

theorem test_fab_withdraw : parkedOp.kind.holds = true ∧
    (after (.semWithdraw 0 (pk tSemWithdraw 9 [])) (st parkedDev)).dev.ses.parked = [] ∧
    ((after (.semWithdraw 0 (pk tSemWithdraw 9 [])) (st parkedDev)).dev.flow 7).pkts.map (fun q => (q.pkt.type, q.pkt.addr, q.pkt.data)) =
      [(tSemResp, 9, [0, 0, 0, 0, 0, 0, 0, 2])] := by decide +kernel

/-- Segment 0 of 2. -/
def dspPk : Packet := { pk tDspWrite 0xC000000100 [9, 8] with exth := 2 * 2 ^ 8 }
/-- The one segment of a row for context 33, token 4. -/
def retPk : Packet := { pk tDspReturn 0 [9, 8] with exth := 33 + 4 * 2 ^ 16 + 1 * 2 ^ 40 + 1 * 2 ^ 64 }

theorem test_fab_dispatch : dspPk.fits 1 8192 = true ∧ dspPk.segOk = true ∧ dspPk.lastSeg = false ∧
    (after (.dspWrite 0 dspPk) (st fabDev)).dev.spRead 0 0x100 4 = [9, 8, 3, 4] ∧
    retPk.segs = 1 ∧ retPk.seg = 0 ∧ instOf retPk.returned.ctx = 1 ∧ fabDev.stagedBytes 1 + retPk.length ≤ 2 ^ 20 ∧
    ((after (.dspReturn 0 retPk) (st fabDev)).dev.edu.rows.look 1).map (fun r => (r.ctx, r.token, r.width, r.data, r.psns)) =
      [(33, 4, 1, [9, 8], [0])] := by decide +kernel

/-! Answers. One packet under way to peer 7, sent at 0. -/

def sentPk (type : Nat) (o : FabOwner) : Sent :=
  { (default : Sent) with owner := o, sent := true, pkt := { (default : Packet) with type := type, dst := 7, src := 5, length := 4, data := [1, 2, 3, 4] } }
def flow (l : List Sent) : SendFlow := { (default : SendFlow) with live := true, epoch := 1, nextPsn := 1, pkts := l, cwnd := 65536 }
def sendDev (x : Sent) (d : Dev := fabDev) : Dev := { d with fab := { d.fab with send := [(7, flow [x])] } }

def ackPk : Packet := { pk tAck 0 (beBytes 8 1 ++ beBytes 8 0 ++ beBytes 8 0) with epoch := 1 }
def nakPk (why : Nat) : Packet := { pk tNak 0 (beBytes 4 0 ++ beBytes 4 why) with epoch := 1 }
def storePk : Sent := sentPk tWrite (.store [(g0, 1)])

theorem test_fab_ack : (sendDev storePk).noneWait = true ∧ (sendDev storePk).klpTakes 0 ackPk tAck = true ∧ waitsResponse storePk.pkt = false ∧
    ackCovers (beOf (ackPk.data.take 8)) (beOf ((ackPk.data.drop 8).take 8)) 0 = true ∧
    ((after (.ack 0 ackPk) (st (sendDev storePk))).dev.flow 7).pkts = [] := by decide +kernel

/-- A store to peer 9 that waits for a flow, numbered by the flow before it. -/
def waitDev : Dev :=
  let d := sendDev storePk
  let late : Sent := { storePk with sent := false, pkt := { storePk.pkt with dst := 9, psn := 40 } }
  { d with fab := { d.fab with send := d.fab.send ++ [(9, { flow [late] with live := false, nextPsn := 41 })] } }

theorem test_flow_waits : waitDev.noneWait = false ∧ ((after (.ack 0 ackPk) (st waitDev)).dev.flow 9).live = true ∧
    ((after (.ack 0 ackPk) (st waitDev)).dev.flow 9).pkts.map (fun s => s.pkt.psn) = [0] ∧
    ((after (.ack 0 ackPk) (st waitDev)).dev.flow 9).epoch = 2 ∧ ((after (.ack 0 ackPk) (st waitDev)).dev.flow 9).nextPsn = 1 := by decide +kernel

theorem test_fab_nak : (∀ w ∈ [1, 4], (sendDev storePk).klpTakes 0 (nakPk w) tNak = true ∧ beOf ((nakPk w).data.take 4) = storePk.pkt.psn) ∧
    ((after (.nak 0 (nakPk 4)) (st (sendDev storePk))).dev.flow 7).pkts.map (fun x => x.busy) = [true] ∧
    ((after (.nak 0 (nakPk 1)) (st (sendDev storePk))).dev.flow 7).pkts = [] := by decide +kernel

def waitRead : DmaRead := ⟨4, 0, 2, none, 0⟩
def bindDev : Dev :=
  sendDev (sentPk tRead (.bind 4)) { fabDev with dma := { engines := [(63, { (default : Engine) with reads := [waitRead] })], tokenReq := [] } }

theorem test_fab_read_resp : (bindDev.flow 7).pkts = [sentPk tRead (.bind 4)] ∧
    ((after (.readResp 0 (pk tReadResp 0 [5, 6])) (st bindDev)).dev.eng 63).reads = [⟨4, 0, 2, some ([5, 6], false), 0⟩] ∧
    ((after (.readResp 0 (pk tReadResp 0 [5, 6])) (st bindDev)).dev.flow 7).pkts = [] := by decide +kernel

theorem test_fab_atomic_resp : ((sendDev (sentPk tAtomic (.load g0 3))).flow 7).pkts = [sentPk tAtomic (.load g0 3)] ∧
    ((after (.atomicResp 0 (pk tAtomicResp 0 (beBytes 8 7))) (st (sendDev (sentPk tAtomic (.load g0 3))))).dev.flow 7).pkts = [] := by decide +kernel

/-- Group 0 waits at peer 7. -/
def farOp : SesOp := { SesOp.plain 6 (.group g0 1 0) .wait 0 8 with pd := 2, pc := 0xC000000040 }
def farDev : Dev :=
  let d := dev [] { group with st := .sesame }
  sendDev (sentPk tSem (.sem 6)) (fabBase { d with ses := { SesSys.reset with remote := [(7, farOp)] } })

theorem test_fab_sem_resp : farDev.remoteOp 6 = some farOp ∧ farDev.sesWaits g0 1 = true ∧
    (after (.semResp 0 (pk tSemResp 0 (beBytes 8 1))) (st farDev)).dev.ses.remote = [] ∧
    ((after (.semResp 0 (pk tSemResp 0 (beBytes 8 1))) (st farDev)).dev.grp g0).predMask 2 = 0xFFFFFFFF ∧
    ((after (.semResp 0 (pk tSemResp 0 (beBytes 8 1))) (st farDev)).dev.grp g0).pc = 0xC000000040 := by decide +kernel

/-! Peers. -/

def joined (d : Dev) (p : Option Nat := none) : Dev := { d with fab := { d.fab with peers := [(7, { (default : Peer) with joined := true, probe := p })] } }

theorem test_fab_probe : (joined fabDev).pickPort 7 true = some 0 ∧
    (after (.probe 0 (pk tProbe 0 (beBytes 4 3 ++ beBytes 4 0))) (st (joined fabDev))).dev.out =
      [.klp 0 { pk tProbeAck 0 (beBytes 4 Dev.reset.mgmt.incarnation ++ beBytes 4 3) with dst := 7, src := 5 }] := by decide +kernel

theorem test_fab_probe_ack : ((joined fabDev (some 4)).peer 7).probe = some 4 ∧
    ((after (.probeAck 0 (pk tProbeAck 0 (beBytes 4 0 ++ beBytes 4 Dev.reset.mgmt.incarnation))) (st (joined fabDev (some 4)))).dev.peer 7).probe =
      none := by decide +kernel

theorem test_fab_flow_reset : (∀ c, c < 64 → (joined fabDev).ectxState c = 0) ∧ (∀ c, c < 256 → ((joined fabDev).coll c).armed = false) ∧
    (joined fabDev).ses.remote = [] ∧ ((joined fabDev).flow 7).pkts = [] ∧
    ((after (.flowReset 0 (pk tFlowReset 0 (beBytes 8 0))) (st (joined fabDev))).dev.peer 7).dead = true := by decide +kernel

/-- A store of group 0 has been under way for longer than any time-out. -/
def deadDev : Dev := sendDev storePk (fabBase (dev []))

theorem test_fab_peer_dead : deadDev.timedOut ⟨64000000, Chip.reset⟩ 7 = true ∧ (deadDev.grp g0).live = true ∧ (deadDev.grp g0).st = .run ∧
    (deadDev.grp g0).block = 1 ∧
    ((after (.peerDead 7) { st deadDev with time := 64000000 }).dev.grp g0).fabStat = 0x20001 ∧
    ((after (.peerDead 7) { st deadDev with time := 64000000 }).dev.peer 7).dead = true ∧
    (after (.peerDead 7) { st deadDev with time := 64000000 }).dev.get FAB_STATS.DEAD = 1 := by decide +kernel

def ackDue : Dev := { fabDev with fab := { fabDev.fab with recv := [(7, { (default : RecvFlow) with live := true, src := 7, cum := 5, newPkts := 1 })] } }

theorem test_fab_ack_timer : (ackDue.rflow 7).live = true ∧ ackDue.pickPort 7 true = some 0 ∧
    (after (.ackTimer 7) { st ackDue with time := 1000 }).dev.out.length = 1 ∧ (after (.ackTimer 7) { st ackDue with time := 999 }).dev.out = [] ∧
    ((after (.ackTimer 7) { st ackDue with time := 1000 }).dev.rflow 7).newPkts = 0 := by decide +kernel

theorem test_fab_retransmit : (sendDev storePk).pickPort 7 false = some 0 ∧ storePk.last + (sendDev storePk).rto (flow [storePk]) storePk ≤ 1000000 ∧
    ((after (.retransmitTimeout 7 0) { st (sendDev storePk) with time := 1000000 }).dev.flow 7).pkts.map (fun x => (x.tries, x.last)) = [(1, 1000000)] ∧
    ((after (.retransmitTimeout 7 0) { st (sendDev storePk) with time := 1000000 }).dev.flow 7).cwnd = 8192 := by decide +kernel

def probeDue : Dev := { fabDev with ses := { SesSys.reset with remote := [(7, farOp)] } }

theorem test_fab_probe_timer : probeDue.waitsOn 7 = true ∧ (probeDue.peer 7).probed + probeDue.peerTimeout / 8 ≤ 8000000 ∧
    ((after (.probeTimer 7) { st probeDue with time := 8000000 }).dev.peer 7).probe = some 8000000 := by decide +kernel

/-! Logical ports. -/

theorem test_link_down : fabDev.linkUp 0 = true ∧ (after (.linkDown 0) (st fabDev)).dev.linkUp 0 = false := by decide +kernel

/-- Port 191 of a port in four. -/
def downDev : Dev := (Dev.reset.put (PHY_CFG.BREAKOUT 47) 3).put (LP_CFG.ENABLE 191) 1

theorem test_link_up : downDev.linkUp 191 = false ∧ downDev.portExists 191 = true ∧ downDev.mgmt.portHeld.look 191 = false ∧
    (after (.linkUp 191) (st downDev)).dev.linkUp 191 = true ∧ (after (.linkUp 190) (st downDev)).dev.linkUp 190 = false := by decide +kernel

def helloOf (id serial : Nat) : HelloMsg := ⟨id, serial, 0, 0, 0⟩

theorem test_hello : (joined fabDev).get (LP_CFG.DIRECT 0) = 0 ∧ (joined fabDev).paired = false ∧ ((joined fabDev).peer 7).joined = true ∧
    Chip.reset.serial ≠ Chip.reset.serial + 1 ∧
    (after (.hello 0 (helloOf 7 9)) (st (joined fabDev))).dev.get (LP_STATUS.NBR_ID 0) = 7 ∧
    (after (.hello 0 (helloOf 5 (Chip.reset.serial + 1))) (st (joined fabDev))).dev.get (LP_STATUS.ID_CONFLICT 0) = 1 ∧
    (after (.hello 0 (helloOf 5 (Chip.reset.serial + 1))) (st (joined fabDev))).dev.klpOn 0 = false := by decide +kernel

def lldp9 : LldpMsg := { chassisSubtype := 4, chassis := [1, 2], portSubtype := 3, portId := [3], fabricId := some 9 }

theorem test_lldp : (after (.lldpReceive 0 lldp9) (st fabDev)).dev.get
      (LP_NEIGHBOUR.CHASSIS 0 0) = 0x201 ∧
    (after (.lldpReceive 0 lldp9) (st fabDev)).dev.get (LP_STATUS.NBR_ID 0) = 9 ∧
    frameDue (fabDev.fab.lldpAt.look 0) 30000000000 0 = true ∧ frameDue (fabDev.fab.helloAt.look 0) 100000 0 = true ∧
    (after (.lldpTransmit 0) (st fabDev)).dev.out = [.lldp 0] ∧
    (after (.lldpTransmit 0) (after (.lldpTransmit 0) (st fabDev))).dev.out = [.lldp 0] ∧
    (after (.helloTransmit 0) (st fabDev)).dev.out.length = 1 := by decide +kernel

theorem test_frames : ((after (.pfcFrame 0 6 true) (st (fabDev.put (LP_CFG.PFC_EN 0) 1))).dev.fab.paused.look 0) = 6 ∧
    (after (.malformedPacket 0 .malformed) (st fabDev)).dev.get FAB_STATS.MALFORMED = 1 ∧
    (after (.malformedPacket 0 .fcs) (st fabDev)).dev.get (LP_ERRS.FCS 0) = 1 ∧
    (after (.breakoutChange (.queue 0) 0 1) (st (kq fabDev))).dev.linkUp 0 = (fabDev.get (PHY_CFG.BREAKOUT 0) == 1) := by decide +kernel

/-! Collectives. Context 5 of a kernel queue: one chunk of two FP32 sums at 0x100 of core 0's scratchpad. -/

/-- RECV 1, SEND 2; EXPECTED contributions; two elements. -/
def collRec (flags expected : Nat) : List Byte :=
  [flags + 31 * 2 ^ 9 + expected * 2 ^ 16 + 2 * 2 ^ 32, 0xC000000100, 0xC000000100, sesBase + 0x100, 1, 0, 0, 7 + 3 * 2 ^ 20].flatMap (leBytes 8)

def ones : List Byte := leBytes 4 0x3F800000 ++ leBytes 4 0x40000000

def collDev (flags expected : Nat) : Dev :=
  let d := fabBase { Dev.reset with regs := unowned, mem := { MemSys.reset with cells := writeBytes [] 0xC000000100 ones } }
  d.setColl 5 { (default : Coll) with armed := true, record := collRec flags expected }

def collPk : Packet := { pk tColl 0 ones with exth := 5 }

theorem test_coll : ∀ n ∈ [1, 2], ((collDev 1 n).coll 5).record'.recv = true ∧ ((collDev 1 n).coll 5).record'.chunks = 1 ∧
    ((collDev 1 n).coll 5).record'.chunkLen 0 = 2 ∧ (collDev 1 n).get (COLL_STATUS.STOP 5) = 0 ∧ collPk.fits 1 8192 = true ∧
    (collDev 1 n).reachFault farAgent 0xC000000100 8 true = 0 ∧ (collDev 1 n).collPending 5 = false ∧ Memory.wf (collDev 1 n).mem.cells = true ∧
    (after (.coll 0 collPk) (st (collDev 1 n))).dev.spRead 0 0x100 8 = leBytes 4 0x40000000 ++ leBytes 4 0x40800000 ∧
    ((after (.coll 0 collPk) (st (collDev 1 n))).dev.coll 5).round = (if n = 1 then 1 else 0) ∧
    ((after (.coll 0 collPk) (st (collDev 1 n))).dev.coll 5).counts.look 0 = (if n = 1 then 0 else 1) := by decide +kernel

/-- Semaphore 32 stands at 1. -/
def collReady : Dev := let d := collDev 2 1; { d with ses := { SesSys.reset with words := [(32, 1)] } }

theorem test_coll_send : (collReady.coll 5).record'.send = true ∧ collReady.place (sesBase + 0x100) = .ses (sesBase + 0x100) ∧
    1 ≤ collReady.sesVal (sesBase + 0x100) ∧ collReady.routed 7 = true ∧
    ((after (.collRoundSend 5) (st collReady)).dev.flow 7).pkts.map (fun q => (q.pkt.type, q.pkt.exth, q.pkt.data)) = [(tColl, 3, ones)] ∧
    ((after (.collRoundSend 5) (st collReady)).dev.coll 5).sentRound = some 0 := by decide +kernel

/-- The record of context 1, in the first page of HBM. -/
def armDev (bs : List Byte) : Dev :=
  let d := kq (withHbm { Dev.reset with regs := unowned })
  { d with mem := { d.mem with cells := writeBytes [] 64 bs } }

theorem test_coll_arm : (armDev (collRec 1 1)).homeBytes 64 64 = some (collRec 1 1, false) ∧ (armDev (collRec 1 1)).collOk (collRec 1 1) = true ∧
    (armDev (collRec 1 0)).homeBytes 64 64 = some (collRec 1 0, false) ∧ (armDev (collRec 1 0)).collOk (collRec 1 0) = false ∧
    ((after (.collArm (.queue 0) 1) (st (armDev (collRec 1 1)))).dev.coll 1).armed = true ∧
    (after (.collArm (.queue 0) 1) (st (armDev (collRec 1 0)))).dev.get (COLL_STATUS.ARM_RESULT 1) = 1 := by decide +kernel

theorem test_coll_disarm : (collDev 1 1).collPending 5 = false ∧
    ((after (.collDisarm (.queue 0) 0x105) (st (collDev 1 1))).dev.coll 5).armed = false ∧
    (sendDev (sentPk tColl (.coll 5)) (collDev 1 1)).collPending 5 = true ∧
    ((after (.collDisarm (.queue 0) 0x105) (st (sendDev (sentPk tColl (.coll 5)) (collDev 1 1)))).dev.coll 5).disarming = true ∧
    ((after (.collDisarm (.queue 0) 0x105) (st (sendDev (sentPk tColl (.coll 5)) (collDev 1 1)))).dev.coll 5).armed = true := by decide +kernel

/-! The routing table, entry 65535. -/

def routeDev : Dev := ((kq fabDev).put (FAB_RT_DATA.DATA 0) 0x3FFFFF).put (FAB_RT_DATA.DATA 1) 9

theorem test_route_entry : Sparse.sorted routeDev.fab.route = true ∧
    (after (.routeEntryWrite (.queue 0) 0x1FFFF) (st routeDev)).dev.routeOf 65535 = (0x3FFFFF, 9) ∧
    (after (.routeEntryWrite (.queue 0) 0x1FFFF) (st routeDev)).dev.routeOf 7 = routeDev.routeOf 7 ∧
    (after (.routeEntryRead (.queue 0) 7) (st routeDev)).dev.get (FAB_RT_DATA.DATA 0) = 7 + 3 * 2 ^ 20 := by decide +kernel

/-! The buddy is peer 7. -/

def pairDev (b : Buddy) : Dev :=
  let d := joined fabDev
  { d with fab := { d.fab with buddy := b },
           mgmt := { d.mgmt with buddyEn := true, cfg := { d.mgmt.cfg with buddyPresent := true, buddyId := 7, buddyPorts := [0] } } }

def buddy0 : Buddy := Dev.reset.fab.buddy

/-- An item of a kind with its entries, the buddy fragile (state 2). -/
def item (kind count : Nat) (es : List Byte) : Packet :=
  pk tMirror 0 (beBytes 1 kind ++ beBytes 1 0 ++ beBytes 2 count ++ beBytes 4 5 ++ beBytes 4 buddy0.held.incarnation ++ beBytes 4 0 ++ es)

def semEntry : List Byte := beBytes 4 65535 ++ beBytes 4 0 ++ beBytes 8 77

theorem test_mirror : (pairDev { buddy0 with resume := 4 }).paired = true ∧ (item 5 1 semEntry).fits 16 8192 = true ∧
    (mirrorOf (item 5 1 semEntry)).fits = true ∧ (mirrorOf (item 5 1 semEntry)).kind = 5 ∧
    (pairDev { buddy0 with resume := 4 }).get FAB_BUDDY.BUDDY_STATE = bits (mirrorOf (item 5 1 semEntry)).state 0 2 ∧
    buddy0.held.iseqs.look (5 * 65536 + 65535) < (mirrorOf (item 5 1 semEntry)).iseq ∧
    (after (.mirror 0 (item 5 1 semEntry)) (st (pairDev { buddy0 with resume := 4 }))).dev.fab.buddy.held.sems.look 65535 = 77 := by decide +kernel

def askPk : Packet := item 6 1 (beBytes 8 buddy0.peerSerial ++ List.replicate 32 3)
def heldBuddy : Buddy := { buddy0 with fragileHeld := true, held := { buddy0.held with digest := List.replicate 32 3 } }

theorem test_resume_req : (mirrorOf askPk).fits = true ∧ ((mirrorOf askPk).entry 0).drop 8 = heldBuddy.held.digest ∧
    ((after (.resumeReq 0 askPk) (st (pairDev buddy0))).dev.flow 7).pkts.map (fun q => (q.pkt.data.take 1, q.pkt.data.drop 16)) = [([7], beBytes 8 1)] ∧
    ((after (.resumeReq 0 askPk) (st (pairDev heldBuddy))).dev.flow 7).pkts.map (fun q => (q.pkt.data.take 1, q.pkt.data.drop 16)) =
      [([7], beBytes 8 (2 * 2 ^ 32)), ([1], List.replicate 32 3), ([8], [])] := by decide +kernel

theorem test_resume_resp : (mirrorOf (item 7 1 (beBytes 8 (3 * 2 ^ 32)))).fits = true ∧ (mirrorOf (item 7 1 (beBytes 8 1))).fits = true ∧
    (after (.resumeResp 0 (item 7 1 (beBytes 8 (3 * 2 ^ 32)))) (st (pairDev { buddy0 with resume := 1, resumeEnd := false }))).dev.fab.buddy.resumeWant =
      some 3 ∧
    (after (.resumeResp 0 (item 7 1 (beBytes 8 1))) (st (pairDev { buddy0 with resume := 1 }))).dev.fab.buddy.resume = 4 := by decide +kernel

/-- What the statements on RESEND_REQ and on MIRROR_BATCH ask. -/
theorem test_resend : (mirrorOf (item 9 0 [])).fits = true ∧ (mirrorOf (item 9 0 [])).kind = 9 ∧ (item 9 0 []).fits 16 8192 = true ∧
    (pairDev { buddy0 with resume := 4 }).get FAB_BUDDY.BUDDY_STATE = bits (mirrorOf (item 9 0 [])).state 0 2 ∧
    ((pairDev { buddy0 with resume := 4 }).put FAB_BUDDY.OWN_STATE 2).mirrorsAll = true ∧
    ((pairDev { buddy0 with resume := 4 }).put FAB_BUDDY.OWN_STATE 2).peerDead 7 = false ∧ (pairDev buddy0).klpEnabled = true := by decide +kernel

theorem test_recovery : (after (.buddyRecovery (.queue 0) 0x100000) (st (kq Dev.reset))).dev.get FAB_BUDDY.RECOVERY = 1 ∧
    (after (.buddyRecovery (.queue 0) 0x100000) (st (kq Dev.reset))).dev.get FAB_BUDDY.OWN_STATE = (if buddy0.start then 1 else 3) := by decide +kernel

/-! Precision time on port 0. -/

def ptpDev (state : Nat) : Dev :=
  { fabDev with mgmt := { fabDev.mgmt with cfg := { fabDev.mgmt.cfg with ptpPorts := [0] } }, fab := { fabDev.fab with ptpState := state, ptpPort := some 0 } }

theorem test_ptp : (∀ k ∈ [0, 1, 2], (ptpDev k).ptpActive = some 0) ∧
    (after (.ptpMessage 0 (-1000001)) (st (ptpDev 0))).dev.fab.ptpState = 1 ∧
    (after (.ptpMessage 0 (-1000001)) (st (ptpDev 1))).time = 1000001 ∧
    (after (.ptpMessage 0 (-1000000)) (st (ptpDev 1))).time = 0 ∧ (after (.ptpMessage 0 (-1000000)) (st (ptpDev 1))).dev.fab.ptpSlew = 1000000 ∧
    (after (.ptpMessage 0 5) (st (ptpDev 2))).dev.fab.ptpSlew = -5 := by decide +kernel

theorem test_ptp_state : (ptpDev 2).fab.ptpStateAt + 1000000000 ≤ 1000000000 ∧
    (after .ptpStateTimer { st (ptpDev 2) with time := 1000000000 }).dev.fab.ptpStateAt = 1000000000 ∧
    ((after .ptpStateTimer { st (ptpDev 2) with time := 1000000000 }).dev.fifo 34).words.length = 4 := by decide +kernel

/-! The host. The device has power; its ports answer. -/

def on (d : Dev) : Dev := { d with mgmt := { d.mgmt with power := true }, host := { d.host with perst := [(0, false), (1, false)], crs := [(0, false), (1, false)] } }

/-- Port 0 owns control. -/
def owned (d : Dev) : Dev := on (d.put GLOBAL_OWNER.OWNER 0)

theorem test_claim : (on Dev.reset).get GLOBAL_OWNER.OWNER = 3 ∧ portOf 16 = 1 ∧ isPF 16 = true ∧
    (after (.claim 16 4 true) (st (on Dev.reset))).dev.get GLOBAL_OWNER.OWNER = 1 ∧
    (after (.claim 16 4 true) (st (on Dev.reset))).dev.get (ownResult 1) = 0 ∧
    (after (.claim 16 4 false) (st (owned Dev.reset))).dev.get GLOBAL_OWNER.OWNER = 0 ∧
    (after (.claim 16 4 false) (st (owned Dev.reset))).dev.get (ownResult 1) = 2 ∧
    (after (.release 0 8) (st (owned Dev.reset))).dev.get GLOBAL_OWNER.OWNER = 3 ∧
    (after (.release 0 8) (st (owned Dev.reset))).dev.get (ownResult 0) = 4 := by decide +kernel

/-- Function 31 to partition 5, which function 1 may serve. -/
theorem test_bind : (owned Dev.reset).isOwner 0 = true ∧ (owned Dev.reset).bindTaken 31 5 = false ∧
    (owned (Dev.reset.put (HOST_FUNC.PART 1) 5)).bindTaken 31 5 = true ∧
    (after (.hostFuncBind (.host 0) 31 5) (st (owned Dev.reset))).dev.get (HOST_FUNC.PART 31) = 5 ∧
    (after (.hostFuncBind (.host 0) 31 5) (st (owned (Dev.reset.put (HOST_FUNC.PART 1) 5)))).dev.get (HOST_FUNC.BIND_REFUSED 31) = 1 := by decide +kernel

/-- What the statements on resets ask: a device with power holds no queue of any function. -/
theorem test_port_quiet (n : Nat) (hn : n < 2) : Claims.portQuiet (on Dev.reset) n ∧ (on Dev.reset).mgmt.power = true ∧ isPF 31 = false := by
  refine ⟨⟨fun f hf => ⟨?_, ?_⟩, fun w hw => absurd (show w ∈ ([] : List HostStore) from hw) (by simp),
    fun x hx => absurd (show x ∈ ([] : Sparse Group) from hx) (by simp),
    fun k => by show (default : Engine).st ≠ .moving; decide⟩, rfl, rfl⟩
  · have h : ∀ f < 32, 16 ≤ (on Dev.reset).get (HOST_FUNC.PART f) := by decide +kernel
    refine h f ?_
    simp only [portOf] at hf
    omega
  · unfold Dev.flrQueues
    rw [List.filter_eq_nil_iff]
    intro q hq
    have hs : (on Dev.reset).get (QUEUE_STATUS.STATE q) = 0 := by
      show bits (regReset (QUEUE_STATUS.off q)).toNat 0 3 = 0
      rw [regReset_queueStatus (List.mem_range.1 hq)]; rfl
    have ho : ((on Dev.reset).fe.queues.look q).order = [] := rfl
    simp [hs, ho]

theorem test_links :
    ((on (Dev.reset.put (HOST_PORT.LINK_UP 1) 1)).get (HOST_PORT.LINK_UP 1) = 1) ∧
    (after (.pcieLinkUp 1 3 2) (st (on Dev.reset))).dev.get (HOST_PORT.RATE 1) = 3 ∧
    (after (.pcieLinkUp 1 3 2) (st (on Dev.reset))).dev.get (HOST_PORT.WIDTH 1) = 2 ∧ (on Dev.reset).host.perst.look 1 = false ∧
    (after (.perstDeassertion 1) (st { Dev.reset with host := { Dev.reset.host with perst := [(1, true)] } })).dev.host.perst.look 1 = false ∧
    (after (.perstDeassertion 1) (st { Dev.reset with host := { Dev.reset.host with perst := [(1, true)] } })).dev.host.crs.look 1 = true := by
  decide +kernel

def crsDev : Dev := let d := on Dev.reset; { d with host := { d.host with crs := [(0, true)] }, mgmt := { d.mgmt with bootStep := 4 } }

theorem test_config : crsDev.host.crs.look (portOf 15) = true ∧ (on Dev.reset).host.crs.look (portOf 15) = false ∧
    (on Dev.reset).get GLOBAL_STATUS.RECOVERY = 0 ∧
    (after (.configRequest 0 0 none) (st crsDev)).dev.out = [.crsVendor 0] ∧
    (after (.configRequest 0 1023 none) (st crsDev)).dev.out = [.crs 0] ∧
    (after (.configRequest 15 1023 (some 7)) (st (on Dev.reset))).dev.out = [.done 15] := by decide +kernel

/-- Bytes 24 to 31 of sector 1 of HBM. -/
def barDev (p : Bool) : Dev :=
  let d := on (withHbm Dev.reset)
  { d with mem := { d.mem with l2 := [(1, { held := true, dirty := true, poison := p, data := 5 * 2 ^ 192 })] } }

theorem test_bar4 : (barDev false).hostHeld ⟨0, Chip.reset⟩ 0 = false ∧ (barDev false).bar4Ok 0 56 = true ∧ (barDev false).bar4Ok 0 63 = true ∧
    16 ≤ (barDev false).get (HOST_FUNC.PART 0) ∧ (barDev false).bar4Ok 0 (5 * 2 ^ 30) = false ∧
    (after (.bar4Access 0 ⟨56, 8, none⟩ none) (st (barDev false))).dev.out = [.value 0 5] ∧
    (after (.bar4Access 0 ⟨56, 8, none⟩ none) (st (barDev true))).dev.out = [.ep 0] ∧
    (after (.bar4Access 0 ⟨5 * 2 ^ 30, 8, none⟩ none) (st (barDev true))).dev.out = [.ur 0] ∧
    sectorBytes ((after (.bar4Access 0 ⟨56, 1, some 9⟩ none) (st (barDev false))).dev.homeSector 1).1 24 2 = [9, 0] ∧
    (after (.bar4Access 0 ⟨56, 8, some 9⟩ (some (.fetchAdd, 0))) (st (barDev false))).dev.out = [.value 0 5] ∧
    sectorBytes ((after (.bar4Access 0 ⟨56, 8, some 9⟩ (some (.fetchAdd, 0))) (st (barDev false))).dev.homeSector 1).1 24 2 = [14, 0] := by
  decide +kernel

/-- FAB_CC: 3 us, 5 bytes, 7 us, 11 bytes. -/
def ccV : DWord := BitVec.ofNat 64 (3 + 5 * 2 ^ 8 + 7 * 2 ^ 30 + 11 * 2 ^ 40)

theorem test_register_write : (owned Dev.reset).hostHeld ⟨0, Chip.reset⟩ 0 = false ∧ (owned Dev.reset).isOwner 0 = true ∧ (owned Dev.reset).isOwner 16 = false ∧
    (owned Dev.reset).reg FAB_CC.off &&& FAB_CC.row.rw ≠ ccV.toNat &&& FAB_CC.row.rw ∧
    (after (.registerWrite (.host 0) FAB_CC.off 8 ccV) (st (owned Dev.reset))).dev.get FAB_CC.INIT_CWND = 11 ∧
    (after (.registerWrite (.host 0) FAB_CC.off 4 ccV) (st (owned Dev.reset))).dev.get FAB_CC.INIT_CWND = Dev.reset.get FAB_CC.INIT_CWND ∧
    (after (.registerWrite (.host 0) FAB_CC.off 4 ccV) (st (owned Dev.reset))).dev.get FAB_CC.AI_BYTES = 5 ∧
    (after (.registerWrite (.host 16) FAB_CC.off 8 ccV) (st (owned Dev.reset))).dev.reg FAB_CC.off = Dev.reset.reg FAB_CC.off ∧
    (after (.registerWrite (.host 16) FAB_CC.off 8 ccV) (st (owned Dev.reset))).dev.get GLOBAL_OWNER.REFUSED1 = 1 ∧
    (after (.registerWrite (.host 0) 0x01FFFFF8 8 1) (st (owned Dev.reset))).dev.out = [.done 0] ∧
    (after (.registerWrite (.host 0) 0x4000000 8 1) (st (owned Dev.reset))).dev.out = [.ur 0] ∧
    (after (.registerWrite (.host 0) 0x20 2 1) (st (owned Dev.reset))).dev.out = [.ur 0] := by decide +kernel

def statDev : Dev := (owned Dev.reset).setReg FAB_STATS.off (1 + 2 * 2 ^ 32)

theorem test_register_read : statDev.get GLOBAL_STATUS.RECOVERY = 0 ∧
    (after (.rcRead 0 FAB_STATS.off 8) (st statDev)).dev.out = [.value 0 (BitVec.ofNat 64 (1 + 2 * 2 ^ 32))] ∧
    (after (.rcRead 0 FAB_STATS.off 8) (st statDev)).dev.reg FAB_STATS.off = 0 ∧
    (after (.rcRead 16 FAB_STATS.off 8) (st statDev)).dev.reg FAB_STATS.off = 1 + 2 * 2 ^ 32 ∧
    (after (.rcRead 0 (FAB_STATS.off + 4) 4) (after (.rcRead 0 FAB_STATS.off 4) (st statDev))).dev.out = [.value 0 1, .value 0 2] ∧
    (after (.rcRead 0 0x01C00048 8) { st statDev with acorn := { State.reset.acorn with time := 77 } }).dev.out = [.value 0 77] ∧
    inMeter 0x3FFFFF8 = false ∧ inWindow 0x3FFFFF8 = false ∧ msixAt 0x3FFFFF8 = none ∧ pbaAt 0x3FFFFF8 = none ∧ regAt 0x3FFFFF8 = none ∧
    (after (.rcRead 0 0x3FFFFF8 8) (st statDev)).dev.out = [.value 0 0] := by decide +kernel

/-! Power, reset and boot. -/

theorem test_power : Dev.reset.mgmt.power = false ∧ (after (.powerOn 5 true) State.reset).dev.mgmt.mode = 5 ∧
    (after (.powerOn 5 true) State.reset).dev.mgmt.bootStep = 1 ∧
    (after .powerOff (st (barDev false))).dev.mgmt.power = false ∧ (after .powerOff (st (barDev false))).dev.mem.l2 = [] := by decide +kernel

theorem test_warm_reset : (∀ g ∈ (kq (barDev false)).mem.chanMap, g < 128) ∧ Memory.wf (kq (barDev false)).mem.cells = true ∧
    (kq (barDev false)).chanDown ((kq (barDev false)).chanOf 32) = false ∧
    readBytes (after (.warmReset (.queue 0) 1) (st (kq (barDev false)))).dev.mem.cells 56 8 = [5, 0, 0, 0, 0, 0, 0, 0] ∧
    (after (.warmReset (.queue 0) 1) (st (kq (barDev false)))).dev.mem.l2 = [] ∧
    (after (.warmReset (.queue 0) 1) (st (kq (barDev false)))).dev.mgmt.cause = 1 := by decide +kernel

def boot (step : Nat) (m : MgmtSys → MgmtSys := id) : State :=
  let d := on Dev.reset
  st { d with mgmt := m { d.mgmt with bootStep := step } }

def noFind : BootFind := ⟨[], [], [], []⟩

theorem test_boot1 : (boot 1).dev.mgmt.clocksOff = false ∧
    (after (.bootStepComplete noFind) (boot 1)).dev.get (ARRAY_MASK.ENABLED 0) = Chip.reset.arrays % 2 ^ 64 ∧
    (after (.bootStepComplete noFind) (boot 1)).dev.mgmt.bootStep = 2 := by decide +kernel

/-- Firmware that passes; images under the Odkel key: the base holds every section. -/
def cfgOf (l : List CfgSection) : CfgImage := { fail := 0, keySlot := 15, keyDigest := Chip.reset.cfgKey, bytes := [], sections := l }
def sections6 : List CfgSection :=
  [.power 900, .autonomy 1 2 3 4 5 1, .fabric [] [191], .buddy 7 [0, 1] 3, .hbm [1, 2, 3, 4, 5, 6, 7, 8] 9 10 11, .bus true 12 false]
def fwOk (l : List CfgSection) (m : MgmtSys) : MgmtSys :=
  { m with flashFw := { m.flashFw with ok := true }, flashBase := cfgOf l, flashOverlay := [(0, cfgOf [])] }

/-- The firmware image fails. -/
def noFw (m : MgmtSys) : MgmtSys := { m with flashFw := { m.flashFw with ok := false } }

theorem test_boot2 : (boot 2 noFw).dev.mgmt.flashFw.ok = false ∧ (boot 2 noFw).dev.mgmt.committing = false ∧
    (after (.bootStepComplete noFind) (boot 2 noFw)).dev.get GLOBAL_STATUS.RECOVERY = 1 ∧
    (cfgMerge Chip.reset (boot 2 (fwOk [])).dev.mgmt.flashBase ((boot 2 (fwOk [])).dev.overlayImage (boot 2 (fwOk [])).dev.overlayNo)).toOption = none ∧
    (after (.bootStepComplete noFind) (boot 2 (fwOk []))).dev.get GLOBAL_STATUS.CFG_DEFAULTED = 1 ∧
    (cfgMerge Chip.reset (boot 2 (fwOk sections6)).dev.mgmt.flashBase
      ((boot 2 (fwOk sections6)).dev.overlayImage (boot 2 (fwOk sections6)).dev.overlayNo)).toOption = some sections6 ∧
    (after (.bootStepComplete noFind) (boot 2 (fwOk sections6))).dev.get MGMT_POWER.EFFECTIVE = 900 ∧
    (after (.bootStepComplete noFind) (boot 2 (fwOk sections6))).dev.mgmt.cfg.busAddr = 12 ∧
    (after (.bootStepComplete noFind) (boot 2 (fwOk sections6))).dev.mgmt.bootStep = 3 := by decide +kernel

/-- What the statements on steps 3 and 4 ask; step 5 and its limit. -/
theorem test_boot5 : Memory.wf (boot 3).dev.mem.cells = true ∧ (boot 4).dev.mgmt.mapMade = false ∧ (boot 4).dev.mgmt.retireMap = [] ∧
    (boot 4).dev.mgmt.buddyEn = false ∧ (boot 5).dev.fab.buddy.resume < 3 ∧ (boot 5).dev.mgmt.stepAt + 300000000 ≤ 300000000 ∧
    (after .buddyResumeTimeout { boot 5 with time := 300000000 }).dev.fab.buddy.resume = 4 ∧
    (after (.bootStepComplete noFind) (after .buddyResumeTimeout { boot 5 with time := 300000000 })).dev.get GLOBAL_STATUS.READY = 1 := by
  decide +kernel

/-! Staging and the HBM maintenance state. -/

theorem test_stage : (after (.stageBegin (.queue 0) (1 + 2 * 4 + 15 * 16)) (st (kq Dev.reset))).dev.mgmt.stage = some ⟨2, 15, 0⟩ ∧
    Dev.reset.mgmt.programming = none ∧
    (after (.stageAbort (.queue 0) 3) (after (.stageBegin (.queue 0) 1) (st (kq Dev.reset)))).dev.mgmt.stage = none := by decide +kernel

/-- Recovery; the firmware image's last page. -/
def stageDev : Dev :=
  let d := owned (Dev.reset.put GLOBAL_STATUS.RECOVERY 1)
  { d with mgmt := { d.mgmt with stage := some ⟨0, 0, 47⟩ } }

theorem test_stage_window : stageDev.isOwner 0 = true ∧ 47 * 0x100000 + 0xFFFFF + 1 ≤ 0x3000000 ∧
    (after (.stageWindowWrite 0 0xFFFFE [8, 9]) (st stageDev)).dev.stagedByte 0x2FFFFFF = 9 ∧
    (after (.stageWindowWrite 0 0xFFFFE [8, 9]) (st stageDev)).dev.stagedByte 0x2FFFFFE = 8 ∧
    (kq stageDev).stageOk 64 = true ∧ bits (2 : DWord).toNat 0 2 = 2 := by decide +kernel

def progDev : Dev := { Dev.reset with mgmt := { Dev.reset.mgmt with stage := some ⟨0, 0, 0⟩, programming := some (0, 0, [1, 2]), committing := true } }

theorem test_stage_done : progDev.get GLOBAL_STATUS.RECOVERY = 0 ∧
    (after (.stageCommitDone true) (st progDev)).dev.mgmt.flashFw.ok = true ∧ (after (.stageCommitDone true) (st progDev)).dev.mgmt.flashFw.bytes = [1, 2] ∧
    (after (.stageCommitDone false) (st progDev)).dev.mgmt.flashFw.ok = false ∧
    (after (.stageCommitDone false) (st progDev)).dev.get MGMT_STAGE_STATUS.RESULT = 4 ∧
    (after (.stageCommitDone true) (st progDev)).dev.mgmt.wait.map (fun r => r.type) = [0x0A] := by decide +kernel

theorem test_maint :
    (List.range 128).any (fun i => decide ((kq Dev.reset).get (SHARE_OWN.OWNER i) < 16) || (kq Dev.reset).get (SHARE_OWN.OWNER i) == 18) = false ∧
    (List.range 128).any (fun i => decide (shareDev.get (SHARE_OWN.OWNER i) < 16) || shareDev.get (SHARE_OWN.OWNER i) == 18) = true ∧
    (after (.maintEnter (.queue 0) 1) (st (kq Dev.reset))).dev.get MGMT_MAINT.ACTIVE = 1 ∧
    (after (.maintEnter (.queue 0) 1) (st shareDev)).dev.get MGMT_MAINT.RESULT = 1 ∧
    (after (.maintLeave (.queue 0) 2) (after (.maintEnter (.queue 0) 1) (st (kq Dev.reset)))).dev.get MGMT_MAINT.ACTIVE = 0 := by decide +kernel


/-! Bassoon. A device in service, at 1 s. -/

def srv (f : Dev → Dev := id) (m : MgmtSys → MgmtSys := id) : State :=
  let d := f (serve (on Dev.reset))
  { st { d with mgmt := m d.mgmt } with time := 1000000000 }

/-- The target, the cap in effect and the overlay's cap. -/
def power (t eff most : Nat) (d : Dev) : Dev :=
  ((d.put MGMT_POWER_STATUS.TARGET_MHZ t).put MGMT_POWER.EFFECTIVE eff).put MGMT_POWER.OVERLAY_CAP most

/-- The target after a command. -/
def target (s : State) : Nat := s.dev.get MGMT_POWER_STATUS.TARGET_MHZ

theorem test_power_control : (srv (power 400 1000 1000)).dev.governs ⟨1000000000, Chip.reset⟩ = true ∧
    (srv (power 400 1000 900)).dev.effectiveCap = 900 ∧
    target (after (.powerFastCheck 991) (srv (power 400 1000 900))) = 300 ∧ target (after (.powerFastCheck 990) (srv (power 400 1000 900))) = 400 ∧
    (after (.powerFastCheck 990) (srv (power 400 1000 900))).dev.get MGMT_POWER.EFFECTIVE = 900 ∧
    target (after (.powerSlowStep 1051) (srv (power 400 1000 1000))) = 300 ∧ target (after (.powerSlowStep 1050) (srv (power 400 1000 1000))) = 375 ∧
    target (after (.powerSlowStep 1000) (srv (power 400 1000 1000))) = 400 ∧ target (after (.powerSlowStep 969) (srv (power 400 1000 1000))) = 425 ∧
    target (after (.powerSlowStep 970) (srv (power 400 1000 1000))) = 400 ∧ target (after (.powerSlowStep 1001) (srv (power 210 1000 1000))) = 200 := by
  decide +kernel

theorem test_power_window :
    (after (.powerWindow 1001) (srv (power 200 1000 1000) fun m => { m with reached200 := true })).dev.get MGMT_POWER_STATUS.UNMET_MS = 10 ∧
    (after (.powerWindow 1000) (srv (power 200 1000 1000) fun m => { m with reached200 := true })).dev.get MGMT_POWER_STATUS.UNMET_MS = 0 ∧
    (after (.powerCalibrate 1234) (srv id)).dev.mgmt.calib = 1234 ∧
    (after (.vrTimeout 1) (srv id fun m => { m with vddSet := [(1, 600)], vddOk := [(1, 700)] })).dev.mgmt.vddSet.look 1 = 700 := by decide +kernel

/-- Section 2, hot since 0 ms and cool since 0 ms. -/
def hotAt (k lim : Nat) (t : Therm) : State := srv (fun d => d.put (MGMT_SECTION.THERM_MHZ k) lim) fun m => { m with therm := [(k, t)] }

theorem test_thermal : (hotAt 2 800 ⟨998000001, 0, 0, false⟩).dev.halfHot 2 = false ∧
    (hotAt 2 800 ⟨998000001, 0, 0, false⟩).dev.get (MGMT_SECTION.THERM_MHZ 2) = 800 ∧
    (after (.thermalSample 2 100) (hotAt 2 800 ⟨998000001, 0, 0, false⟩)).dev.get (MGMT_SECTION.THERM_MHZ 2) = 750 ∧
    (after (.thermalSample 2 104) (hotAt 2 210 ⟨998000001, 0, 0, false⟩)).dev.get (MGMT_SECTION.THERM_MHZ 2) = 200 ∧
    (after (.thermalSample 2 96) (hotAt 2 700 ⟨0, 980000001, 0, false⟩)).dev.get (MGMT_SECTION.THERM_MHZ 2) = 750 ∧
    (after (.hbmThermalSample 7 95) (srv id)).dev.mgmt.stackHot.look 7 = true ∧
    (after (.hbmThermalSample 7 90) (after (.hbmThermalSample 7 95) (srv id))).dev.mgmt.stackHot.look 7 = true ∧
    (after (.hbmThermalSample 7 89) (after (.hbmThermalSample 7 95) (srv id))).dev.mgmt.stackHot.look 7 = false ∧
    (after (.hbmThermalSample 7 85) (srv id)).dev.get (HBM_CH_STATUS.TEMP 127) = 85 ∧
    (after (.hbmThermalSample 7 84) (srv id)).dev.mgmt.refresh2.look 7 = false := by decide +kernel

theorem test_trips : (srv id).dev.mgmt.power = true ∧ (srv id).dev.mgmt.thermtrip = false ∧ (srv id).dev.mgmt.committing = false ∧
    (after (.thermtrip 9 115) (srv id)).dev.mgmt.clocksOff = true ∧
    (after (.thermtrip 9 115) (srv id)).dev.mgmt.wait.map (fun r => (r.type, r.die)) = [(0x09, 1)] ∧
    (after (.thermtrip 9 114) (srv id)).dev.mgmt.clocksOff = false ∧
    (after (.railFault 3) (srv id)).dev.mgmt.wait.map (fun r => r.type) = [0x08] := by decide +kernel

/-- Section 1 at 800 MHz, the target at 600. -/
def slower : State := srv fun d => (power 600 1000 1000 d).put (MGMT_SECTION.MHZ 1) 800

def switching (begun : Bool) : State := srv (fun d => d.put (MGMT_SECTION.MHZ 1) 800) fun m => { m with switch := [(1, some ⟨600, begun⟩)] }

theorem test_switch : slower.dev.governs ⟨1000000000, Chip.reset⟩ = true ∧ slower.dev.mgmt.switch.look 1 = none ∧
    slower.dev.wanted ⟨1000000000, Chip.reset⟩ 1 = 600 ∧ Env.past ⟨1000000000, Chip.reset⟩ slower.dev.mgmt.lastSwitch 1000 = true ∧
    (after (.clockSwitchRequest 1 600) slower).dev.mgmt.switch.look 1 = some ⟨600, false⟩ ∧
    ((after (.clockSwitchRequest 1 600) slower).dev.arr 8).clockFreeze = true ∧ ((after (.clockSwitchRequest 1 600) slower).dev.arr 16).clockFreeze = false ∧
    (after (.clockSwitchBegin 1) (switching false)).dev.issueStopped 1 = true ∧
    (after (.clockSwitchEnd 1) (switching true)).dev.get (MGMT_SECTION.MHZ 1) = 600 ∧
    (after (.clockSwitchEnd 1) (switching true)).dev.mgmt.switch.look 1 = none := by decide +kernel

/-- Section 1 idle for 1 s, gated after 2 ms of idleness. -/
def idle (g : Nat) : State := srv (fun d => d.put (MGMT_SECTION.GATED 1) g) fun m => { m with cfg := { m.cfg with gateIdleMs := 2 }, idleSince := [(1, 1)] }

/-- The same, gated, with a block of a launch for section 1 to place. -/
def wanting : State :=
  let s := idle 1
  { s with dev := { s.dev with core := { s.dev.core with launches := [{ launch with sections := 2 }] } } }

/-- Section 1 has drained for 10 us; a store of core 8 waits. -/
def draining : State :=
  let s := srv id fun m => { m with gateAt := [(1, 1)] }
  let q := fun (c : Nat) => ({ (default : L2Req) with src := .core c, op := .write [(0, 1)] } : L2Req)
  { s with dev := { s.dev with mem := { s.dev.mem with l2q := [q 8, q 0] } } }

theorem test_gating : (idle 0).dev.sectIdle 1 = true ∧ (idle 0).dev.mgmt.idleSince.look 1 = 1 ∧ Env.past ⟨1000000000, Chip.reset⟩ 1 2000000 = true ∧
    (idle 0).dev.mgmt.lastGate = 0 ∧ (idle 0).dev.get (MGMT_SECTION.GATED 1) = 0 ∧
    (after (.sectionGate 1) (idle 0)).dev.get (MGMT_SECTION.GATED 1) = 1 ∧ (after (.sectionGate 1) (idle 0)).dev.mgmt.gateAt.look 1 = 1000000001 ∧
    wanting.dev.core.launches.any (fun l => wanting.dev.wantsSection ⟨1000000000, Chip.reset⟩ l == some 1) = true ∧
    (after (.sectionUngate 1) wanting).dev.get (MGMT_SECTION.GATED 1) = 0 ∧ (after (.sectionUngate 1) (idle 1)).dev.get (MGMT_SECTION.GATED 1) = 1 ∧
    (after (.sectionUngate 1) wanting).dev.get (L1_INVAL.COUNT 8) = 1 ∧
    Env.past ⟨1000000000, Chip.reset⟩ 1 10000 = true ∧ (draining.dev.mem.l2q.map (fun r => r.isStore)) = [true, true] ∧
    (after (.gatingDrainLimit 1) draining).dev.mem.l2q.map (fun r => r.src) = [.core 0] := by decide +kernel

theorem test_watchdog : 3 ≤ (srv id fun m => { m with bootStep := 6 }).dev.mgmt.bootStep ∧
    (after (.watchdog 77) (srv (power 600 1000 1000) fun m => { m with bootStep := 6 })).dev.mgmt.restartAt = 1000000001 ∧
    target (after (.watchdog 77) (srv (power 600 1000 1000) fun m => { m with bootStep := 6 })) = 200 ∧
    (after (.watchdog 77) (srv id fun m => { m with bootStep := 6 })).dev.mgmt.wait.map (fun r => (r.type, r.payload)) = [(0x0B, [77])] := by decide +kernel

/-- Port 5 up, eleven codewords lost in the last second; two retrains are allowed in the hour. -/
def upDev (l : List Nat) : State := srv (fun d => d.put (LP_STATUS.LINK_UP 5) 1) fun m => { m with cfg := { m.cfg with retrainPerH := 2 }, retrain := [(5, l)], fecAt := [(5, List.replicate 11 1)] }

theorem test_ports : (upDev []).dev.linkUp 5 = true ∧ (upDev []).dev.mgmt.retune.look 5 = 0 ∧
    (after (.laneRetune ⟨5, 1000001⟩) (upDev [])).dev.mgmt.retune.look 5 = 1000000001 ∧
    (after (.laneRetune ⟨5, 1000000⟩) (upDev [])).dev.mgmt.retune.look 5 = 0 ∧
    (after (.laneRetune ⟨5, 1000000⟩) (upDev [])).dev.get (LP_FEC.CORRECTED 5) = 1000000 ∧
    (after (.malformedPacket 5 .fecErrored) (upDev [])).dev.get (LP_FEC.UNCORRECTABLE 5) = 1 ∧
    ((after (.malformedPacket 5 .fecErrored) (upDev [])).dev.mgmt.fecAt.look 5).length = 12 ∧
    (after (.portRetrain 5) (upDev [1])).dev.linkUp 5 = false ∧ (after (.portRetrain 5) (upDev [1])).dev.mgmt.retrain.look 5 = [1, 1000000000] ∧
    (after (.portRetrain 5) (upDev [1])).dev.mgmt.portHeld.look 5 = false ∧ (after (.portRetrain 5) (upDev [1, 2])).dev.mgmt.portHeld.look 5 = true := by
  decide +kernel

theorem test_fatal : (srv id).dev.mem.chanMap = [] ∧ (srv id).dev.core.launches = [] ∧
    (after (.fatalError 1 2) (srv id fun m => { m with bootStep := 6, cfg := { m.cfg with fatalAction := 0 } })).dev.get GLOBAL_STATUS.FATAL_HELD = 1 ∧
    (after (.fatalError 1 2) (srv id fun m => { m with bootStep := 6, cfg := { m.cfg with fatalAction := 1 } })).dev.mgmt.bootStep = 1 ∧
    (after (.fatalError 1 2) (srv id fun m => { m with bootStep := 6, cfg := { m.cfg with fatalAction := 1 } })).dev.mgmt.cause = 2 := by decide +kernel

/-! The ledger and the bus. -/

def rec1 : LedgerRec := { (default : LedgerRec) with seq := 9, type := 0x0A, payload := [0x0102030405060708, 2, 3, 4] }
/-- A record waits. -/
def waiting : State := srv id fun m => { m with wait := [rec1], bootStep := 6 }

theorem test_ledger : (after .ledgerWrite waiting).dev.mgmt.ledger = [rec1] ∧ (after .ledgerWrite waiting).dev.mgmt.wait = [] ∧
    waiting.dev.ledgerFind 9 = some rec1 ∧ waiting.dev.ledgerFind 8 = none ∧
    (after (.ledgerIndexWrite 3 9) waiting).dev.get ((MGMT_LEDGER_DATA.WORD 3).bank 3) = 0x0102030405060708 ∧
    (after (.ledgerIndexWrite 3 9) waiting).dev.get (MGMT_LEDGER_IDX.FOUND.bank 3) = 1 ∧
    (after (.ledgerIndexWrite 3 8) (after (.ledgerIndexWrite 3 9) waiting)).dev.get (MGMT_LEDGER_IDX.FOUND.bank 3) = 0 ∧
    (after (.ledgerIndexWrite 3 8) (after (.ledgerIndexWrite 3 9) waiting)).dev.get ((MGMT_LEDGER_DATA.WORD 3).bank 3) = 0 := by decide +kernel

/-- 8,192 records since the newest checkpoint. -/
theorem test_checkpoint_due : 8192 ≤ sinceCheckpoint [] (List.replicate 8192 rec1) := by
  show 8192 ≤ (List.replicate 8192 rec1).length
  exact Nat.le_of_eq List.length_replicate.symm

theorem test_summary : (srv id fun m => { m with acts := [(1, 70000), (8, 3)] }).dev.mgmt.acts.any (fun x => x.2 != 0) = true ∧
    (srv id fun m => { m with acts := [(1, 70000), (8, 3)] }).dev.recordsIn 1 = 0 ∧
    (after .autoSummary (srv id fun m => { m with acts := [(1, 70000), (8, 3)] })).dev.mgmt.wait.map (fun r => (r.type, bits (r.payload.getD 0 0).toNat 0 16)) = [(6, 65535)] ∧
    (srv id fun m => { m with acts := [(1, 7)], wait := List.replicate 200 { rec1 with time := 1000000000 } }).dev.recordsIn 1 = 200 ∧
    (after .autoSummary (srv id fun m => { m with acts := [(1, 7)], wait := List.replicate 200 { rec1 with time := 1000000000 } })).dev.get MGMT_LEDGER_STATUS.DROPPED = 1 := by
  decide +kernel

/-- The bytes of the newest message on the bus. -/
def reply (s : State) : List Byte :=
  match s.dev.out.getLast? with
  | some (.mctp bs) => bs
  | _ => []

theorem test_bus : waiting.dev.mgmt.power = true ∧ 3 ≤ waiting.dev.mgmt.bootStep ∧ (after (.setEndpointId 9) waiting).dev.mgmt.eid = 9 ∧
    (after (.setBmcCap 700) waiting).dev.get MGMT_POWER.BMC_CAP = 700 ∧
    ((reply (after (.pldmRequest 2 2 []) { waiting with dev := waiting.dev.put MGMT_POWER.EFFECTIVE 900 })).drop 3).take 2 = [0x84, 3] ∧
    ((reply (after (.pldmRequest 2 5 []) { waiting with dev := waiting.dev.put (MGMT_SECTION.TEMP 2) 61 })).drop 3).take 2 = [61, 0] ∧
    ((reply (after (.pldmRequest 2 20 []) { waiting with dev := waiting.dev.put (HBM_CH_STATUS.TEMP 16) 62 })).drop 3).take 2 = [62, 0] ∧
    ((reply (after (.readLedger 9) waiting)).drop 3).take 4 = [9, 0, 0, 0] ∧ (reply (after (.readLedger 8) waiting)).drop 2 = [1] := by decide +kernel

theorem test_keys : Chip.reset.keyDigest.length = 4 ∧ Chip.reset.keyProg = [false, false, false, false] ∧ Chip.reset.keyRevoked = [false, false, false, false] ∧
    (after (.provisionKey true 2 55) waiting).chip.keyDigest.getD 2 0 = 55 ∧ (after (.provisionKey false 2 55) waiting).chip = Chip.reset ∧
    (after (.provisionKey true 2 56) (after (.provisionKey true 2 55) waiting)).chip.keyDigest.getD 2 0 = 55 ∧
    (after (.revokeKey true 3) waiting).chip.keyRevoked = [false, false, false, true] := by decide +kernel

theorem test_attestation : (after .getVersion waiting).dev.mgmt.spdm = 1 ∧ (after .getCapabilities (after .getVersion waiting)).dev.mgmt.spdm = 2 ∧
    (after (.negotiateAlgorithms true true) (after .getCapabilities (after .getVersion waiting))).dev.mgmt.spdm = 3 ∧
    (after (.negotiateAlgorithms true false) (after .getCapabilities (after .getVersion waiting))).dev.mgmt.spdm = 2 := by decide +kernel

/-! Acorn and Recorder. -/

/-- Acorn has its supply, at 5 s. -/
def meter (f : AcornSys → AcornSys) : State :=
  { State.reset with time := 2000000, acorn := f { State.reset.acorn with powered := true, time := 5000000 } }

/-- The newest record's type. -/
def logType (s : State) : List Byte := ((s.acorn.log.look (s.acorn.logSeq % 8192)).drop 4).take 1

theorem test_collector : (srv id).dev.mgmt.collectAt + 1000000 ≤ (srv id).time.toNat ∧
    (after .countCollectorTick (srv fun d => { d with act := [(3, { (default : ActivityRow) with moved128 := 300, sectors := 2 })] })).dev.act.look 3 =
      { (default : ActivityRow) with moved128 := 300 % 128 } ∧
    (after .countCollectorTick (srv fun d => { d with act := [(3, { (default : ActivityRow) with moved128 := 300, sectors := 2 })] })).dev.toAcorn.length = 1 := by
  decide +kernel

/-- Function 1 serves partition 4. -/
def asks (l : List Nat) : State := srv (fun d => d.put (HOST_FUNC.PART 1) 4) fun m => { m with meterPending := l }

theorem test_meter_request : (asks []).dev.meterAllowed 1 4 = true ∧ (asks []).dev.meterAllowed 1 5 = false ∧ bit (36 : DWord).toNat 5 = true ∧
    bits (36 : DWord).toNat 0 5 = 4 ∧ (after (.meterRequest 1 36) (asks [])).dev.toAcorn = [.request 1000000000 1 4 0] ∧
    (after (.meterRequest 1 37) (asks [])).dev.get (METER_REQ_STATUS.RESULT.bank 1) = 1 ∧
    (after (.meterRequest 1 36) (asks [1])).dev.get (METER_REQ_STATUS.RESULT.bank 1) = 2 := by decide +kernel

def head (seq : Nat) : FrameHead := ⟨seq, true, 7⟩

theorem test_input : (meter id).acorn.powered = true ∧ (after (.activity (head 1) []) (meter id)).acorn.rejects = 1 ∧
    logType (after (.activity (head 1) []) (meter id)) = [0x09] ∧
    (after (.activity (head 0) (List.replicate 17 default)) (meter id)).acorn.frames = [List.replicate 17 default] ∧
    (after (.activity (head 0) (List.replicate 17 default)) (meter id)).acorn.inSeq = 1 ∧
    (after (.request (head 0) 3 16 99) (meter id)).acorn.requests = [⟨3, 16, 99⟩] ∧
    logType (after (.acornReport (head 0) (.teardownStart 3)) (meter id)) = [0x05] ∧
    logType (after (.acornReport (head 0) (.handover 1 2 3 4)) (meter id)) = [0x07] ∧
    (after (.acornReport (head 0) (.assign 3 5)) (meter id)).acorn.reports = [(7, .assign 3 5)] := by decide +kernel

/-- Account 2's session is open. -/
def openAt2 (a : AcornSys) : AcornSys := { a with accounts := [(2, { (default : Account) with active := true, session := 6, energy := 50 })] }

theorem test_acorn_boot : (meter openAt2).acorn.reports = [] ∧ (meter openAt2).acorn.isOpen 2 = true ∧
    (after (.acornReport (head 0) (.boot 1 false 0)) (meter openAt2)).acorn.isOpen 2 = false ∧
    ((after (.acornReport (head 0) (.boot 1 false 0)) (meter openAt2)).acorn.acct 2).gap = true ∧
    ((after (.acornReport (head 0) (.boot 1 false 0)) (meter openAt2)).acorn.acct 2).energy = 50 := by decide +kernel

/-- 2,500.7 uJ on rail 0, with a frame; and without. -/
theorem test_intervals :
    (meter openAt2).acorn.attempts = [] ∧ (meter openAt2).acorn.gapCount = 0 ∧ (meter openAt2).acorn.slip = none ∧ (meter openAt2).acorn.frames = [] ∧
    ((List.range 17).map (fun n => ((after (.acornInterval [2500700]) (meter fun a => { a with frames := [List.replicate 17 default] })).acorn.acct n).energy)).sum = 2500 ∧
    (after (.acornInterval [2500700]) (meter fun a => { a with frames := [List.replicate 17 default] })).acorn.frac.look 0 = 700 ∧
    (after (.acornInterval [2500700]) (meter openAt2)).acorn.slip = some (2500 :: List.replicate 15 0) ∧
    ((after (.acornInterval [2500300]) (after (.acornInterval [2500700]) (meter openAt2))).acorn.acct 16).energy = 5001 ∧
    ((after (.acornInterval [2500300]) (after (.acornInterval [2500700]) (meter openAt2))).acorn.acct 2).gap = true ∧
    (after (.acornInterval [2500300]) (after (.acornInterval [2500700]) (meter openAt2))).acorn.time = 5002000 := by decide +kernel

theorem test_requested : (meter fun a => { a with requests := [⟨3, 2, 9⟩] }).acorn.nvDue = false ∧
    (after .requestedReading (meter fun a => { openAt2 a with requests := [⟨3, 2, 9⟩] })).acorn.requests = [] ∧
    ((after .requestedReading (meter fun a => { openAt2 a with requests := [⟨3, 2, 9⟩] })).acorn.requested.look 3).take 6 = [1, 0, 0, 0, 2, 2] ∧
    (((after .requestedReading (meter fun a => { openAt2 a with requests := [⟨3, 2, 9⟩] })).acorn.requested.look 3).drop 56).take 8 = [50, 0, 0, 0, 0, 0, 0, 0] := by
  decide +kernel

/-- A minute after the newest image the banks are due. -/
theorem test_nv_write : (meter fun a => { a with time := 60000000 }).acorn.nvDue = true ∧
    (after .acornNvWrite (meter fun a => { openAt2 a with time := 60000000 })).acorn.bankA.seq = 1 ∧
    (after .acornNvWrite (meter fun a => { openAt2 a with time := 60000000 })).acorn.bankA.valid = true ∧
    (after .acornNvWrite (meter fun a => { openAt2 a with time := 60000000 })).acorn.bankB.valid = false ∧
    ((after .acornNvWrite (meter fun a => { openAt2 a with time := 60000000 })).acorn.periodic.look 16).take 6 = [17, 0, 0, 0, 0, 16] := by decide +kernel

theorem test_supply :
    (after (.acornSupplyLoss 250 [1500000] true) (meter id)).acorn.bankA.rails.look 0 = 1500 ∧
    (after (.acornSupplyLoss 250 [1500000] true) (meter id)).acorn.bankB.time = 5000250 ∧
    (after (.acornSupplyLoss 250 [1500000] true) (meter id)).acorn.powered = false ∧
    logType (after .acornPowerUp (after (.acornSupplyLoss 250 [1500000] true) (meter id))) = [0x01] ∧
    (after .acornPowerUp (after (.acornSupplyLoss 250 [1500000] true) (meter id))).acorn.rails.look 0 = 1500 ∧
    (after .acornPowerUp (after (.acornSupplyLoss 250 [1500000] true) (meter id))).acorn.holdupFail = false ∧
    (meter id).acorn.refLost = false ∧ logType (after .refLost (meter id)) = [0x0B] ∧ logType (after .refRestored (after .refLost (meter id))) = [0x0C] := by
  decide +kernel

/-- Recorder runs; core 0's first group runs at the front of its scratchpad. -/
def recorderDev : Dev :=
  let d := { dev [] { group with pc := 0xC000000008 } with cyc := [(0, 4)] }
  ((((d.put REC_CTL.ENABLE 1).put REC_CTL.PC_INTERVAL 1).put REC_CTL.KIND_MASK 0x80).put REC_CTL.PART_MASK (2 ^ 17 - 1))

theorem test_sample : recorderDev.sampleSlot 0 0 0 = some 0 ∧ acctOf (recorderDev.launchOf 1).part = 16 ∧ bit (recorderDev.get REC_CTL.KIND_MASK) 7 = true ∧
    bit (recorderDev.get REC_CTL.PART_MASK) 16 = true ∧ (recorderDev.core.trace.look 0).lost = 0 ∧
    (match ({ group with pc := 0xC000000008 } : Group).settled with | .run pc _ _ => pc == 0xC000000008 | _ => false) = true ∧
    ((after (.pcSample 0) (st recorderDev)).dev.core.trace.look 0).packets = [⟨traceW0 8 ⟨0, 0, 0⟩ 1, 0, 31⟩] ∧
    ((after (.pcSample 0) (st recorderDev)).dev.core.trace.look 0).quarter = 1 := by decide +kernel

/-- The rings at the front of HBM, whose shares nobody owns; a packet of core 5 from the start. -/
def drainDev : Dev :=
  let d := withHbm ((Dev.reset.put REC_CTL.ENABLE 1).put (SHARE_OWN.OWNER 0) 31)
  { d with core := { d.core with trace := [(5, { (default : TraceBuf) with packets := [⟨77, 1, 31⟩] })] } }

theorem test_drain : drainDev.nextDrain ⟨2000, Chip.reset⟩ 0 = some 5 ∧ drainDev.recRingOk 0 = true ∧ drainDev.core.drainWin.getD 0 0 ≠ 2000 / 640 ∧
    drainDev.get (REC_RING_PROD.PROD 0) = 0 ∧ drainDev.get (REC_RING_CONS.CONS 0) = 0 ∧ drainDev.recBase 0 = 0 ∧
    (after (.traceDrainBurst 0 5) { st drainDev with time := 2000 }).dev.get (REC_RING_PROD.PROD 0) = 1 ∧
    ((after (.traceDrainBurst 0 5) { st drainDev with time := 2000 }).dev.core.trace.look 5).packets = [] ∧
    sectorBytes ((after (.traceDrainBurst 0 5) { st drainDev with time := 2000 }).dev.homeSector 0).1 0 9 = [77, 0, 0, 0, 0, 0, 0, 0, 1] := by decide +kernel

theorem test_recorder : (withHbm (Dev.reset.put (SHARE_OWN.OWNER 0) 31)).recRingOk 1 = true ∧ bit (1 : DWord).toNat 49 = false ∧
    (after (.recorderEnable (.queue 0) 1) (st (withHbm (Dev.reset.put (SHARE_OWN.OWNER 0) 31)))).dev.get REC_CTL.ENABLE = 1 ∧
    (after (.recorderEnable (.queue 0) 1) (st Dev.reset)).dev.get REC_STATUS.ENABLE_RESULT = 1 ∧
    bit (2 ^ 49 : DWord).toNat 49 = true ∧
    (after (.counterClear (.queue 0) (2 ^ 49)) (st ((Dev.reset.put (PMC.COUNT 1 2) 5).setReg (REC_CLEAR_CORES.off 0) 2))).dev.get (PMC.COUNT 1 2) = 0 ∧
    (after (.counterClear (.queue 0) (2 ^ 49)) (st ((Dev.reset.put (PMC.COUNT 1 2) 5).setReg (REC_CLEAR_CORES.off 0) 1))).dev.get (PMC.COUNT 1 2) = 5 ∧
    (after (.pmcSelect (.queue 0) 1 2 9) (st (Dev.reset.put (PMC.COUNT 1 2) 5))).dev.reg (PMC_SEL.off 1 2) = 9 ∧
    (after (.pmcSelect (.queue 0) 1 2 9) (st (Dev.reset.put (PMC.COUNT 1 2) 5))).dev.get (PMC.COUNT 1 2) = 0 := by decide +kernel

/-! The clock. -/

/-- The state after a step. -/
def stepped (s : State) : State :=
  match step s with
  | .next t => t
  | _ => s

/-- A difference of n ns to the grandmaster; last slewed at 0, at the given time. -/
def slewing (n : Int) (t : DWord) : State := { State.reset with dev := { Dev.reset with fab := { Dev.reset.fab with ptpSlew := n } }, time := t }

theorem test_tick : (stepped (slewing 0 0)).time = 10 ∧ (stepped (slewing 3 10000)).time = 10011 ∧ (stepped (slewing (-3) 10000)).time = 10009 ∧
    (stepped (slewing (-3) 9999)).time = 10009 ∧ ((srv id).dev.tickSect 3).cycles 3 = 32 := by decide +kernel

/-- A queued command is the step; the memories of the examples are in canonical form. -/
theorem test_queue : (stepped { srv id with pending := [.setBmcCap 5, .getVersion] }).pending = [.getVersion] := by decide +kernel

theorem test_canonical : Canonical (meter id) := by unfold Canonical; decide +kernel
end Sys2Proof.Tests
end

section
/-! SUPPORT. Instructions that fault at issue: the frame of the whole command. -/

namespace Sys2Proof.Machine

/-- A ready instruction whose own rules find a fault only raises that exception (R97, R102). -/
theorem onDev_raised {s : State} {g : Gid} {w : AWord} {k : Code} {legal : Bool} {ops : List Opnd} {x : Group} {ex : Exc}
    (body : Env → Dev → Issue → Issued) (h : s.dev.Ready g w k legal ops x)
    (hb : body ⟨s.time.toNat, s.chip⟩ s.dev (s.dev.issueOf g w x) = .fault ex) :
    ∃ t, s.onDev (fun e d => d.issue e g w k legal ops (body e d)) = .next t ∧ Raised s t g x ex := by
  have hi : s.dev.issue ⟨s.time.toNat, s.chip⟩ g w k legal ops (body ⟨s.time.toNat, s.chip⟩ s.dev) =
      s.dev.raise ⟨s.time.toNat, s.chip⟩ g x ex := by
    rw [Dev.issue_ready _ _ h, hb]
  refine ⟨_, rfl, ?_⟩
  dsimp only
  rw [hi]
  exact Dev.raise_spec s g x ex

end Sys2Proof.Machine
end

section
/-! The divergent branch on a full reconvergence stack (R49). -/

namespace Sys2Proof.Machine

/-- BRA is performed by its own meaning. -/
theorem exec_bra (g : Gid) (w : AWord) (s : State) : exec (.bra g w) s = execBra g w s := rfl

/-- A ready branch that some lanes of the active mask take and others do not traps where the stack has no room for one more
entry: the capture names the whole active mask. -/
theorem bra_traps_of_stack_full {g : Gid} {w : AWord} {s : State} {x : Group}
    (h : s.dev.Ready g w (ctrl 1 .long true) true [] x) (htaken : BitVec.ofNat 32 (x.execMask w.guard) ≠ 0)
    (hother : x.mask &&& ~~~BitVec.ofNat 32 (x.execMask w.guard) ≠ 0) (hfull : 32 ≤ x.stack.length) :
    Traps (.bra g w) s g x { code := 0x10, lanes := x.mask.toNat } := by
  rw [Traps, exec_bra]
  refine onDev_raised _ h ?_
  exact (if_neg htaken).trans ((if_neg hother).trans (if_pos hfull))

end Sys2Proof.Machine

open Sys2Proof Sys2Proof.Machine

/-- Settles O4: 32 entries are the whole stack. -/
theorem branchOverflow : Obligations.BranchOverflow := by
  unfold Obligations.BranchOverflow
  rintro g w s x taken h rfl htaken hother hlen
  exact bra_traps_of_stack_full h htaken hother (Nat.le_of_eq hlen.symm)
end

section
/-! Faults of the MX instructions at issue (R93, R128, R219). -/

namespace Sys2Proof.Machine

/-! The MX instructions are performed by their own meanings. -/

theorem exec_mxMode (g : Gid) (w : AWord) (s : State) : exec (.mxMode g w) s = execMxMode g w s := rfl

theorem exec_mxTile (g : Gid) (w : AWord) (s : State) : exec (.mxTile g w) s = execMxTile g w s := rfl

theorem exec_mxDrain (g : Gid) (w : AWord) (s : State) : exec (.mxDrain g w) s = execMxDrain g w s := rfl

theorem exec_mxWait (g : Gid) (w : AWord) (s : State) : exec (.mxWait g w) s = execMxWait g w s := rfl

/-- A ready MX instruction with an executing lane raises ARRAY_ABSENT on a core without a working array, whatever its own rules
say. -/
theorem onDev_mx_raises_absent {s : State} {g : Gid} {w : AWord} {op : Nat} {has52 : Bool} {ops : List Opnd} {x : Group}
    (body : Env → Dev → Issue → Issued)
    (h : s.dev.Ready g w { cls := 10, op := op, form := .short } (AWord.mxLegal w has52) ops x) (hlanes : x.execMask w.guard ≠ 0)
    (hgone : bit s.chip.arrays g.core = false ∨ s.dev.get (SP_STATUS.FAILED g.core) = 1) :
    ∃ t, s.onDev (fun e d => d.mx e g w op has52 ops (body e d)) = .next t ∧
      Raised s t g x { code := xNoArray, lanes := x.execMask w.guard } := by
  refine onDev_raised _ h ((if_neg hlanes).trans (if_pos ?_))
  obtain habsent | hfailed := hgone
  · simp [habsent]
  · simp [hfailed]

/-- A ready MX instruction with an executing lane, on a core with a working array and in a kernel that uses it, raises the
exception that its own rules find. -/
theorem onDev_mx_raises_own {s : State} {g : Gid} {w : AWord} {op : Nat} {has52 : Bool} {ops : List Opnd} {x : Group} {ex : Exc}
    (body : Env → Dev → Issue → Issued)
    (h : s.dev.Ready g w { cls := 10, op := op, form := .short } (AWord.mxLegal w has52) ops x) (hlanes : x.execMask w.guard ≠ 0)
    (hpresent : bit s.chip.arrays g.core = true) (hworks : s.dev.get (SP_STATUS.FAILED g.core) = 0)
    (huses : (s.dev.launchOf x.launch).array = true)
    (hb : body ⟨s.time.toNat, s.chip⟩ s.dev (s.dev.issueOf g w x) = .fault ex) :
    ∃ t, s.onDev (fun e d => d.mx e g w op has52 ops (body e d)) = .next t ∧ Raised s t g x ex := by
  refine onDev_raised _ h ((if_neg hlanes).trans ((if_neg ?_).trans hb))
  simp [hpresent, hworks, Dev.issueOf, huses]

/-- An MX.TILE whose operands are illegal in the mode last issued, or that no mode precedes, raises MX_OPERAND (R93, R121). -/
theorem mxTile_traps_of_illegal {g : Gid} {w : AWord} {s : State} {x : Group}
    (h : s.dev.Ready g w { cls := 10, op := 1, form := .short } (AWord.mxLegal w true) [usrc w.a, usrc w.b, usrc w.c, udst w.d] x)
    (hlanes : x.execMask w.guard ≠ 0) (hpresent : bit s.chip.arrays g.core = true)
    (hworks : s.dev.get (SP_STATUS.FAILED g.core) = 0) (huses : (s.dev.launchOf x.launch).array = true)
    (hillegal : ∀ m, (s.dev.arr g.core).modeIssue = some m →
      tileLegal m (x.rd w.imm w.a.toNat 0) (x.rd w.imm w.b.toNat 0) (x.rd w.imm w.c.toNat 0) = false) :
    Traps (.mxTile g w) s g x { code := xMx, lanes := x.execMask w.guard } := by
  rw [Traps, exec_mxTile]
  refine onDev_mx_raises_own _ h hlanes hpresent hworks huses ?_
  cases hm : (s.dev.arr g.core).modeIssue with
  | none => simp only [hm]; rfl
  | some m =>
    have hbad := hillegal m hm
    simp only [hm]
    exact if_pos (by simp [Dev.issueOf, hbad])

end Sys2Proof.Machine

open Sys2Proof Sys2Proof.Machine

/-- Settles O9: the check for an array stands before each instruction's own rules, that for a tile's span before its entry into
the queue. -/
theorem matrixFaultsAtIssue : Obligations.MatrixFaultsAtIssue := by
  unfold Obligations.MatrixFaultsAtIssue
  intro g w s x hlanes
  refine ⟨fun hgone => ⟨fun h => ?_, fun h => ?_, fun h => ?_, fun h => ?_⟩, fun hpresent hworks huses h hillegal => ?_⟩
  · rw [Traps, exec_mxMode]
    exact onDev_mx_raises_absent _ h hlanes hgone
  · rw [Traps, exec_mxTile]
    exact onDev_mx_raises_absent _ h hlanes hgone
  · rw [Traps, exec_mxDrain]
    exact onDev_mx_raises_absent _ h hlanes hgone
  · rw [Traps, exec_mxWait]
    exact onDev_mx_raises_absent _ h hlanes hgone
  · exact mxTile_traps_of_illegal h hlanes hpresent hworks huses hillegal
end
